-- ==== Sys2Proof/Word.lean ====
section
/-! DEFINITION. The words of the CK4820: bytes, 64-bit registers, vector registers, 4 KiB tiles. -/
namespace Sys2Proof

/-- A byte (R9). -/
abbrev Byte := BitVec 8
/-- A 64-bit register, parcel or memory word (R13, R120). -/
abbrev W64 := BitVec 64
/-- A vector register of 1,024 bits, or the 16 lanes of a modulus register (R119, R196). -/
abbrev VReg := BitVec 1024
/-- 4 KiB: a scratchpad slot, a weight-buffer block, a constant bank, an accumulator (R115, R150). -/
abbrev Tile := BitVec 32768
/-- A 256-bit control word, codebook or 32-byte granule (R25). -/
abbrev W256 := BitVec 256
/-- A 64-byte line with its poison bit (R311). -/
structure Line where
  data : BitVec 512
  poison : Bool
  deriving DecidableEq, Repr

end Sys2Proof
end

