-- ==== Sys2Proof/Config.lean ====
section
/-! DEFINITION. What an implementation fixes (R6) and the free values: opaque constants without a body, which no
proof can evaluate. Each stands for a value the spec leaves open; the assumption log names every one. -/
namespace Sys2Proof.Config

/-- Cores of the module (R3, R6). -/
def numCores : Nat := 640
/-- Cores of a die (R3). -/
def coresPerDie : Nat := 160
/-- Clusters, and refinement loop controllers, of the module (R4). -/
def numClusters : Nat := 40
/-- Transaction barriers of a core (R224). -/
def numBarriers : Nat := 64
/-- Entries of the copy engine's command queue (R208). -/
def copyQueueDepth : Nat := 16
/-- Copies active at once (R208). -/
def activeCopies : Nat := 4
/-- Replay slots of a core (R318). -/
def replaySlots : Nat := 8
/-- Positions of the routine queue (R150). -/
def routineSlots : Nat := 2
/-- Bindings of a tier engine (R260). -/
def engineBindings : Nat := 16
/-- Bytes of an L2 slice and of a memory-side cache; ways of a set of either; ways of a set that may hold retained lines (R248,
R254). -/
def sliceBytes : Nat := 0x100000
def mscBytes : Nat := 0x10000000
def cacheWays : Nat := 16
def retainedWays : Nat := 12
/-- Which set of its slice, and of its memory-side cache, a line takes; which line the `n`-th fill displaces (R373; log 44). -/
opaque l2Index : Nat → Nat
opaque mscIndex : Nat → Nat
opaque victim : Nat → Nat
/-- Standard firmware frame in ns (R280). -/
def frameNs : Nat := 8000
/-- The cycle counts of the `n`-th wait: by how much a counter of ac advances (log 2). -/
opaque waitAc : Nat → BitVec 64
/-- Cycle counts of waits that the core itself ends: by how much counter `c` advances at bundle `n` (log 2). -/
opaque coreAc : Nat → Nat → BitVec 64
/-- Whether the `n`-th nullifier skip costs one ac, where the times of R65 leave it open (log 3). -/
opaque skipCosts : Nat → Bool
/-- Bits of the `n`-th free value of up to 64 bits (log 6). -/
opaque freeWord : Nat → BitVec 64
/-- What a race over scratchpad bytes at tick `n` leaves in its `i`-th place (R115, R184; log 6). -/
opaque lateTile : Nat → Nat → BitVec 32768
/-- Bits of the `n`-th free value of 4 KiB (log 6). -/
opaque freeTile : Nat → BitVec 32768
/-- Whether a discarded line keeps its cached value, because its write-back was already accepted (R219; log 7). -/
opaque discardKeeps : Nat → Bool
/-- Whether a translation agent still holds an entry a walk brought (R316; log 8). -/
opaque agentHolds : Nat → Bool
/-- Byte `o` of an implementation-defined section of the `n`-th save (R297; log 11). -/
opaque saveByte : Nat → Nat → BitVec 8
/-- The steps that a controller takes up to its next change of WORK, at tick `n`: each a routine call or, if true, a vector run, with
a number (R372; log 10). What it leaves in the `i`-th of the places it holds (R267; log 10). -/
opaque rlcPlan : Nat → List (Bool × Nat)
opaque rlcTile : Nat → Nat → BitVec 32768
/-- What the controller's WORK area holds at byte `o` after step `n` (R267; log 10). -/
opaque workByte : Nat → Nat → BitVec 8
/-- Whether a step of R148 whose exact result is zero gives −0 where its x is negative, by the operands (R147, R148; log 48). -/
opaque stepZero : Nat → Nat → Bool
/-- The fixed hash that chooses a Uli port for a remote device (R327; log 18). -/
opaque portHash : Nat → Nat
/-- The ML-DSA-87 signature of the module's identity key (R349; log 17). -/
opaque sign : List (BitVec 8) → BitVec 37016
/-- The firmware images whose digest is reported (R349; log 17). -/
opaque firmware : List (BitVec 8)
/-- Word `w` of the firmware's microprogram store for the controllers' routines 0x40 to 0x4F (R372; log 10). -/
opaque controllerWord : Nat → BitVec 64

end Sys2Proof.Config
end

