-- ==== Sys2Proof/Machine/Tab.lean ====
section
/-! DEFINITION. Finite tables by number, in one canonical form: keys strictly rising, no entry equal to the
value an unlisted key reads as. Memory, scratchpads, register files and pools are such tables. -/
namespace Sys2Proof

/-- A table from numbers to values; what an unlisted number reads as is given at each use. -/
abbrev Tab (α : Type) := List (Nat × α)

namespace Tab
variable {α : Type}

/-- The value of key `k`, or `d` where `k` is not listed. -/
def get (d : α) (m : Tab α) (k : Nat) : α :=
  match m with
  | [] => d
  | c :: t => if c.1 = k then c.2 else get d t k

/-- `m` without key `k`. -/
def erase (m : Tab α) (k : Nat) : Tab α := m.filter (fun c => c.1 ≠ k)

/-- `(k, v)` put before the first larger key. -/
def insert (m : Tab α) (k : Nat) (v : α) : Tab α :=
  match m with
  | [] => [(k, v)]
  | c :: t => if k < c.1 then (k, v) :: c :: t else c :: insert t k v

/-- `m` with `k` reading `v`: writing the default removes the entry, so that equal tables are equal data. -/
def set [DecidableEq α] (d : α) (m : Tab α) (k : Nat) (v : α) : Tab α :=
  if v = d then m.erase k else (m.erase k).insert k v

/-- The canonical form: keys strictly rising and no listed default. -/
def canon [DecidableEq α] (d : α) : Tab α → Bool
  | [] => true
  | [c] => decide (c.2 ≠ d)
  | c :: c' :: t => decide (c.2 ≠ d) && decide (c.1 < c'.1) && canon d (c' :: t)

end Tab

/-- Element `n` of a list replaced; nothing happens past its end. -/
def setNth {α : Type} : List α → Nat → α → List α
  | [], _, _ => []
  | _ :: t, 0, v => v :: t
  | a :: t, n + 1, v => a :: setNth t n v

/-- Element `n` of a list removed. -/
def dropNth {α : Type} : List α → Nat → List α
  | [], _ => []
  | _ :: t, 0 => t
  | a :: t, n + 1 => a :: dropNth t n

/-- The first `some` of a list of choices. -/
def firstSome {α : Type} : List (Option α) → Option α
  | [] => none
  | some a :: _ => some a
  | none :: t => firstSome t

end Sys2Proof
end

