-- ==== Sys2Proof/Machine/Bits.lean ====
section
/-! DEFINITION. Bit-field, sign-extension and byte-order helpers: those of R57, on numbers of unbounded width. -/
namespace Sys2Proof

/-- `x[h:l]` of an unbounded natural number (R12). -/
def bitsOf (x h l : Nat) : Nat := (x >>> l) % 2 ^ (h + 1 - l)
/-- Bit `i` of a natural number. -/
def bitAt (x i : Nat) : Bool := x.testBit i
/-- ZeroExtend (R57). -/
def zext (x w : Nat) : Nat := x % 2 ^ w
/-- SignExtend (R57): the low `w` bits read as two's complement. -/
def sext (x w : Nat) : Int :=
  let u := x % 2 ^ w
  if w ≠ 0 ∧ u ≥ 2 ^ (w - 1) then (u : Int) - (2 ^ w : Nat) else (u : Int)
/-- The low `w` bits of an integer: what assigning to a destination of `w` bits keeps (R12). -/
def wrapTo (t : Int) (w : Nat) : Nat := (t % ((2 ^ w : Nat) : Int)).toNat
/-- Mask (R57). -/
def maskOf (w : Nat) : Nat := 2 ^ w - 1
/-- Element `i` of width `e` (R57). -/
def elemAt (v i e : Nat) : Nat := (v >>> (e * i)) % 2 ^ e
/-- The first `n` elements of width `e`, lowest first. -/
def elemsOf (v n e : Nat) : List Nat := (List.range n).map (fun i => elemAt v i e)
/-- Elements of width `e` packed with the first in the low bits (R129). -/
def packElems (e : Nat) : List Nat → Nat
  | [] => 0
  | x :: t => x % 2 ^ e + (packElems e t) <<< e
/-- PopCount of the low `w` bits (R57). -/
def popCount (x : Nat) : Nat → Nat
  | 0 => 0
  | w + 1 => (if x.testBit w then 1 else 0) + popCount x w
/-- LeadingZeros of the low `w` bits; `w` when they are zero (R57). -/
def leadingZeros (x : Nat) : Nat → Nat
  | 0 => 0
  | w + 1 => if x.testBit w then 0 else 1 + leadingZeros x w
/-- BitRev: the `n` low bits of `i` reversed (R203). -/
def bitRev (i : Nat) : Nat → Nat
  | 0 => 0
  | n + 1 => (if i.testBit 0 then 2 ^ n else 0) + bitRev (i >>> 1) n
/-- XorFold: the XOR of the `c`-bit fields of `x`, over `n` fields; 0 when `c` is 0 (R251). -/
def xorFold (x c : Nat) : Nat → Nat
  | 0 => 0
  | n + 1 => if c = 0 then 0 else (x % 2 ^ c) ^^^ xorFold (x >>> c) c n
/-- Bytes, least significant first, read as a number (R9: little-endian). -/
def leNat : List Byte → Nat
  | [] => 0
  | b :: t => b.toNat + 256 * leNat t
/-- The `n` low bytes of a number, least significant first (R9). -/
def leBytes (x : Nat) : Nat → List Byte
  | 0 => []
  | n + 1 => BitVec.ofNat 8 x :: leBytes (x / 256) n
/-- `v` with bits `l + w - 1` down to `l` replaced by the low `w` bits of `x`. -/
def setField (v l w x : Nat) : Nat := v - (bitsOf v (l + w - 1) l) <<< l + (x % 2 ^ w) <<< l
/-- A field of a register. -/
def fld {n : Nat} (x : BitVec n) (h l : Nat) : Nat := bitsOf x.toNat h l
/-- A bit of a register as a truth value. -/
def flag {n : Nat} (x : BitVec n) (i : Nat) : Bool := x.toNat.testBit i
/-- A truth value as a number. -/
def b2n (b : Bool) : Nat := if b then 1 else 0
/-- An address plus a signed count of 8-byte parcels, as an integer (R22). -/
def parcelTarget (h : Nat) (off : Int) : Int := (h : Int) + 8 * off
/-- Ceiling division. -/
def cdiv (a b : Nat) : Nat := (a + b - 1) / b
/-- The smaller truth table: does `p` hold at some number below `n`? -/
def anyBelow (n : Nat) (p : Nat → Bool) : Bool := (List.range n).any p
/-- The least number below `n` with `p`. -/
def firstBelow (n : Nat) (p : Nat → Bool) : Option Nat := (List.range n).find? p

end Sys2Proof
end

