-- ==== Sys2Proof/Machine/Num.lean ====
section
/-! DEFINITION. Number formats and arithmetic rules (spec 06, R129 to R149): exact values, rounding, the tapered
formats, FP26, conversions and the approximation helpers. -/
namespace Sys2Proof

/-- The element formats and bank formats (R26, R116, R129). -/
inductive Fmt where
  | raw | int8 | uint8 | int16 | int32 | int64 | bf16 | fp16 | fp32 | tf8 | tf6 | mod64
  deriving DecidableEq, Repr

namespace Fmt
/-- The format with an ETYPE code; 0x0 is RAW as a bank format and "bank" as an element type (R26). -/
def ofCode : Nat → Option Fmt
  | 0 => some .raw | 1 => some .int8 | 2 => some .uint8 | 3 => some .int16 | 4 => some .int32 | 5 => some .int64
  | 6 => some .bf16 | 7 => some .fp16 | 8 => some .fp32 | 9 => some .tf8 | 10 => some .tf6 | 11 => some .mod64
  | _ => none
/-- The code of a format (R26). -/
def code : Fmt → Nat
  | raw => 0 | int8 => 1 | uint8 => 2 | int16 => 3 | int32 => 4 | int64 => 5
  | bf16 => 6 | fp16 => 7 | fp32 => 8 | tf8 => 9 | tf6 => 10 | mod64 => 11
/-- Element width in bits (R129); RAW moves bytes (R218). -/
def width : Fmt → Nat
  | raw => 8 | int8 => 8 | uint8 => 8 | int16 => 16 | int32 => 32 | int64 => 64
  | bf16 => 16 | fp16 => 16 | fp32 => 32 | tf8 => 8 | tf6 => 6 | mod64 => 64
/-- The two's complement and unsigned integer formats. -/
def isInt : Fmt → Bool
  | int8 | uint8 | int16 | int32 | int64 => true
  | _ => false
/-- BF16, FP16 and FP32 (R130). -/
def isFloat : Fmt → Bool
  | bf16 | fp16 | fp32 => true
  | _ => false
/-- TF8 and TF6 (R132). -/
def isTapered : Fmt → Bool
  | tf8 | tf6 => true
  | _ => false
/-- Exponent bits, fraction bits and bias of an IEEE format (R130). -/
def expBits : Fmt → Nat
  | fp16 => 5
  | _ => 8
def fracBits : Fmt → Nat
  | bf16 => 7 | fp16 => 10 | _ => 23
def expBias : Fmt → Int
  | fp16 => 15
  | _ => 127
/-- The canonical NaN (R130); NaR for the tapered formats (R132). -/
def nanBits : Fmt → Nat
  | bf16 => 0x7FC0 | fp16 => 0x7E00 | fp32 => 0x7FC00000 | tf8 => 0x80 | tf6 => 0x20 | _ => 0
end Fmt

/-- Rounding modes (R27). -/
inductive Rnd where
  | rne | rz | rup | rdn | rna | rodd
  deriving DecidableEq, Repr

/-- The rounding mode of a resolved code; 110 and 111 are no modes (R27, R140). -/
def Rnd.ofCode : Nat → Option Rnd
  | 0 => some .rne | 1 => some .rz | 2 => some .rup | 3 => some .rdn | 4 => some .rna | 5 => some .rodd
  | _ => none

/-- An exact rational number: `num / den`, with `den` above 0. -/
structure Q where
  num : Int
  den : Nat
  deriving DecidableEq, Repr

namespace Q
def ofInt (n : Int) : Q := ⟨n, 1⟩
/-- Lowest terms. -/
def norm (a : Q) : Q :=
  let g := Nat.gcd a.num.natAbs a.den
  if g = 0 then ⟨0, 1⟩ else ⟨a.num / (g : Int), a.den / g⟩
def add (a b : Q) : Q :=
  if a.den = b.den then ⟨a.num + b.num, a.den⟩
  else if a.den % b.den = 0 then ⟨a.num + b.num * ((a.den / b.den : Nat) : Int), a.den⟩
  else if b.den % a.den = 0 then ⟨a.num * ((b.den / a.den : Nat) : Int) + b.num, b.den⟩
  else ⟨a.num * (b.den : Int) + b.num * (a.den : Int), a.den * b.den⟩
def neg (a : Q) : Q := ⟨-a.num, a.den⟩
def abs (a : Q) : Q := ⟨(a.num.natAbs : Int), a.den⟩
def mul (a b : Q) : Q := ⟨a.num * b.num, a.den * b.den⟩
/-- The reciprocal; 0 has none and gives 0. -/
def inv (a : Q) : Q := if a.num < 0 then ⟨-(a.den : Int), a.num.natAbs⟩ else if a.num = 0 then ⟨0, 1⟩ else ⟨a.den, a.num.natAbs⟩
def div (a b : Q) : Q := mul a (inv b)
def lt (a b : Q) : Bool := decide (a.num * (b.den : Int) < b.num * (a.den : Int))
def eq (a b : Q) : Bool := decide (a.num * (b.den : Int) = b.num * (a.den : Int))
def le (a b : Q) : Bool := !lt b a
def isNeg (a : Q) : Bool := decide (a.num < 0)
def isZero (a : Q) : Bool := decide (a.num = 0)
/-- 2 to an integer power. -/
def pow2 (k : Int) : Q := if k ≥ 0 then ⟨((2 ^ k.toNat : Nat) : Int), 1⟩ else ⟨1, 2 ^ (-k).toNat⟩
/-- The greatest integer not above the number. -/
def floor (a : Q) : Int := a.num / (a.den : Int)
/-- The exponent of the binade of a number above 0: `2^e ≤ a < 2^(e+1)`. -/
def binade (a : Q) : Int :=
  let k : Int := (Nat.log2 a.num.natAbs : Int) - (Nat.log2 a.den : Int)
  if le (pow2 k) (abs a) then k else k - 1
end Q

/-- A value read from an element: a NaN (or NaR), an infinity or a zero with its sign, or a non-zero number. -/
inductive Val where
  | nan
  | inf (neg : Bool)
  | zero (neg : Bool)
  | fin (q : Q)
  deriving DecidableEq, Repr

namespace Val
/-- A rational as a value; a zero takes the given sign. -/
def ofQ (q : Q) (neg : Bool := false) : Val := if q.isZero then .zero neg else .fin q
def ofInt (n : Int) : Val := ofQ (Q.ofInt n)
def isNeg : Val → Bool
  | nan => false | inf s => s | zero s => s | fin q => q.isNeg
def isNan : Val → Bool
  | nan => true
  | _ => false
/-- The rational of a finite value, 0 for the others. -/
def toQ : Val → Q
  | fin q => q
  | _ => ⟨0, 1⟩
def isFinite : Val → Bool
  | zero _ | fin _ => true
  | _ => false
/-- Sign inverted (VFNEG, R189). -/
def neg : Val → Val
  | nan => nan | inf s => inf (!s) | zero s => zero (!s) | fin q => fin q.neg
/-- Sign cleared (VFABS, R189). -/
def abs : Val → Val
  | nan => nan | inf _ => inf false | zero _ => zero false | fin q => fin q.abs
/-- The exact sum; an exact zero from operands of opposite sign is −0 when rounding down, else +0 (R137). -/
def add (a b : Val) (rnd : Rnd) : Val :=
  match a, b with
  | nan, _ => nan
  | _, nan => nan
  | inf s, inf t => if s = t then inf s else nan
  | inf s, _ => inf s
  | _, inf t => inf t
  | zero s, zero t => if s = t then zero s else zero (rnd = .rdn)
  | zero _, fin q => fin q
  | fin q, zero _ => fin q
  | fin p, fin q => ofQ (p.add q) (rnd = .rdn)
/-- The exact product (R189): a NaN factor, or zero times infinity, gives NaN. -/
def mul (a b : Val) : Val :=
  match a, b with
  | nan, _ => nan
  | _, nan => nan
  | inf _, zero _ => nan
  | zero _, inf _ => nan
  | inf s, y => inf (s != y.isNeg)
  | x, inf t => inf (x.isNeg != t)
  | zero s, y => zero (s != y.isNeg)
  | x, zero t => zero (x.isNeg != t)
  | fin p, fin q => fin (p.mul q)
/-- `v × 2^k`, exact. -/
def scale (v : Val) (k : Int) : Val :=
  match v with
  | fin q => fin (q.mul (Q.pow2 k))
  | w => w
/-- Numerical order on values that are no NaN; −0 and +0 are equal. -/
def lt : Val → Val → Bool
  | nan, _ => false
  | _, nan => false
  | inf true, inf true => false
  | inf true, _ => true
  | _, inf true => false
  | inf false, _ => false
  | _, inf false => true
  | a, b => a.toQ.lt b.toQ
def eqv : Val → Val → Bool
  | nan, _ => false
  | _, nan => false
  | inf s, inf t => s = t
  | inf _, _ => false
  | _, inf _ => false
  | a, b => a.toQ.eq b.toQ
end Val

/-- A fraction part `f` (0 ≤ f < 1) over the integer `n`, rounded: the integer magnitude that stands (R137, R149). -/
def roundMag (n : Nat) (f : Q) (rnd : Rnd) (neg : Bool) : Nat :=
  if f.isZero then n else
  let half : Q := ⟨1, 2⟩
  match rnd with
  | .rne => if half.lt f || (half.eq f && n % 2 = 1) then n + 1 else n
  | .rna => if f.lt half then n else n + 1
  | .rz => n
  | .rup => if neg then n else n + 1
  | .rdn => if neg then n + 1 else n
  | .rodd => if n % 2 = 0 then n + 1 else n

/-- A positive rational rounded to a multiple of `2^u`: that multiple's count. -/
def roundUnits (q : Q) (u : Int) (rnd : Rnd) (neg : Bool) : Nat :=
  let s := q.mul (Q.pow2 (-u))
  let n := s.floor
  roundMag n.toNat (s.add (Q.ofInt (-n))) rnd neg

/-- RoundToInteger (R149): an exact rational rounded to an integer of unbounded width. -/
def roundToInteger (q : Q) (rnd : Rnd) : Int :=
  let m : Int := roundUnits q.abs 0 rnd q.isNeg
  if q.isNeg then -m else m

/-! ### IEEE formats (R130, R137) -/

/-- The value of the bits of an IEEE element (R130). -/
def decodeIeee (x : Nat) (f : Fmt) : Val :=
  let fb := f.fracBits
  let eb := f.expBits
  let s := x.testBit (fb + eb)
  let ex := (x >>> fb) % 2 ^ eb
  let fr := x % 2 ^ fb
  if ex = 2 ^ eb - 1 then (if fr = 0 then .inf s else .nan)
  else if ex = 0 then
    (if fr = 0 then .zero s
     else .fin ((Q.ofInt (if s then -(fr : Int) else fr)).mul (Q.pow2 (1 - f.expBias - fb))).norm)
  else
    let m : Int := (2 ^ fb + fr : Nat)
    .fin ((Q.ofInt (if s then -m else m)).mul (Q.pow2 ((ex : Int) - f.expBias - fb))).norm

/-- The sign bit of an IEEE element. -/
def signBits (f : Fmt) (neg : Bool) : Nat := if neg then 2 ^ (f.fracBits + f.expBits) else 0

/-- The overflowed result of R137's table. -/
def overflowBits (f : Fmt) (rnd : Rnd) (sat : Bool) (neg : Bool) : Nat :=
  let inf := (2 ^ f.expBits - 1) * 2 ^ f.fracBits
  let toLargest := sat || match rnd with
    | .rne | .rna => false
    | .rz | .rodd => true
    | .rup => neg
    | .rdn => !neg
  signBits f neg + (if toLargest then inf - 1 else inf)

/-- Round into BF16, FP16 or FP32 (R137). -/
def roundIeee (v : Val) (f : Fmt) (rnd : Rnd) (sat : Bool) : Nat :=
  match v with
  | .nan => f.nanBits
  | .inf s => signBits f s + (2 ^ f.expBits - 1) * 2 ^ f.fracBits
  | .zero s => signBits f s
  | .fin q =>
    let neg := q.isNeg
    let a := q.abs.norm
    let emin := 1 - f.expBias
    let e := if a.binade < emin then emin else a.binade
    let n := roundUnits a (e - f.fracBits) rnd neg
    -- `n` units of 2^(e - fracBits); a carry into the next binade keeps the encoding's order
    let ex := (e - emin).toNat
    let code := ex * 2 ^ f.fracBits + n
    if code ≥ (2 ^ f.expBits - 1) * 2 ^ f.fracBits then overflowBits f rnd sat neg
    else signBits f neg + code

/-! ### Tapered formats (R132 to R136) -/

/-- The number of leading bits of the `w`-bit `m` equal to `r`. -/
def leadRun (m : Nat) (r : Bool) : Nat → Nat
  | 0 => 0
  | w + 1 => if m.testBit w = r then 1 + leadRun m r w else 0

/-- The magnitude that a non-zero magnitude code of `w` bits encodes (R133). -/
def tfMag (m w : Nat) : Q :=
  let r := m.testBit (w - 1)
  let k := leadRun m r w
  let regime : Int := if r then (k : Int) - 1 else -(k : Int)
  let rem := w - k - 1
  let e : Int := if rem ≥ 1 ∧ m.testBit (rem - 1) then 1 else 0
  let fb := rem - 1
  (Q.pow2 (2 * regime + e - fb)).mul (Q.ofInt ((2 ^ fb + m % 2 ^ fb : Nat) : Int))

/-- DecodeTF (R133). -/
def decodeTF (x n : Nat) : Val :=
  let w := n - 1
  let s := x.testBit w
  let m := x % 2 ^ w
  if m = 0 then (if s then .nan else .zero false)
  else
    let g := (tfMag m w).norm
    .fin (if s then g.neg else g)

/-- The magnitude of code `c`, with code 0 standing for zero (R135). -/
def tfG (c n : Nat) : Q := if c = 0 then ⟨0, 1⟩ else tfMag c (n - 1)

/-- The greatest code at or below `top` whose magnitude is not above `a` (magnitudes rise with the code). -/
def tfFloor (a : Q) (n : Nat) : Nat → Nat
  | 0 => 0
  | c + 1 => if (tfG (c + 1) n).le a then c + 1 else tfFloor a n c

/-- EncodeTF (R135) of a value already divided by its bank's scale. -/
def encodeTF (v : Val) (n : Nat) (rnd : Rnd) : Nat :=
  match v with
  | .nan => 2 ^ (n - 1)
  | .inf _ => 2 ^ (n - 1)
  | .zero _ => 0
  | .fin q =>
    let neg := q.isNeg
    let a := q.abs
    let top := 2 ^ (n - 1) - 1
    let c :=
      if (tfG top n).le a then top
      else
        let c := tfFloor a n top
        let lo := tfG c n
        if lo.eq a then c
        else
          let below := a.add lo.neg
          let above := (tfG (c + 1) n).add a.neg
          match rnd with
          | .rne => if above.lt below || (above.eq below && c % 2 = 1) then c + 1 else c
          | .rna => if below.lt above then c else c + 1
          | .rz => c
          | .rup => if neg then c else c + 1
          | .rdn => if neg then c + 1 else c
          | .rodd => if c % 2 = 1 then c else c + 1
    if c = 0 then 0 else (if neg then 2 ^ (n - 1) else 0) + c

/-! ### Integer formats, conversions and Value -/

/-- The least and greatest value of an integer format (R137). -/
def intMin (f : Fmt) : Int := if f = .uint8 then 0 else -((2 ^ (f.width - 1) : Nat) : Int)
def intMax (f : Fmt) : Int := if f = .uint8 then 255 else ((2 ^ (f.width - 1) : Nat) : Int) - 1
/-- An integer clamped to a format's range. -/
def clampInt (t : Int) (f : Fmt) : Int :=
  if t > intMax f then intMax f else if t < intMin f then intMin f else t
/-- Round of an integer into an integer format (R137): wrap, or clamp when saturating. -/
def roundInt (t : Int) (f : Fmt) (sat : Bool) : Nat := wrapTo (if sat then clampInt t f else t) f.width
/-- CvtToInt (R138): clamps whatever SAT says; NaN and NaR give 0. -/
def cvtToInt (v : Val) (f : Fmt) (rnd : Rnd) : Nat :=
  match v with
  | .nan => 0
  | .inf s => wrapTo (if s then intMin f else intMax f) f.width
  | .zero _ => 0
  | .fin q => wrapTo (clampInt (roundToInteger q rnd) f) f.width

/-- Value (R149): what an element of a format is, with its bank's scale `b` for the tapered formats (R136). -/
def valueOf (x : Nat) (f : Fmt) (b : Int) : Val :=
  match f with
  | .bf16 | .fp16 | .fp32 => decodeIeee x f
  | .tf8 => (decodeTF x 8).scale b
  | .tf6 => (decodeTF x 6).scale b
  | .uint8 => Val.ofInt (zext x 8)
  | .int8 => Val.ofInt (sext x 8)
  | .int16 => Val.ofInt (sext x 16)
  | .int32 => Val.ofInt (sext x 32)
  | .int64 => Val.ofInt (sext x 64)
  | .mod64 => Val.ofInt (zext x 64)
  | .raw => Val.ofInt (zext x 8)

/-- Round (R137, R139) of a value into a format, `b` the scale of the destination bank. A fractional value for an
integer format is converted under R138. -/
def roundVal (v : Val) (f : Fmt) (rnd : Rnd) (sat : Bool) (b : Int) : Nat :=
  match f with
  | .bf16 | .fp16 | .fp32 => roundIeee v f rnd sat
  | .tf8 => encodeTF (v.scale (-b)) 8 rnd
  | .tf6 => encodeTF (v.scale (-b)) 6 rnd
  | _ => cvtToInt v f rnd

/-- A float element kept bit for bit, but for a NaN, which is written as the canonical NaN (R130, R188, R193). -/
def canonNan (x : Nat) (f : Fmt) : Nat :=
  if f.isFloat ∧ (decodeIeee x f).isNan then f.nanBits else x % 2 ^ f.width

/-- FP32 shorthands. -/
def ofFp32 (x : Nat) : Val := decodeIeee x .fp32
def toFp32 (v : Val) (rnd : Rnd := .rne) (sat : Bool := false) : Nat := roundIeee v .fp32 rnd sat

/-! ### FP26 and the array (R142 to R146) -/

/-- The value of an FP26 partial (R142). -/
def decodeFp26 (x : Nat) : Val :=
  let s := x.testBit 25
  let ex := (x >>> 17) % 256
  let fr := x % 2 ^ 17
  if ex = 255 then (if fr = 0 then .inf s else .nan)
  else if ex = 0 then .zero s
  else
    let m : Int := (2 ^ 17 + fr : Nat)
    .fin ((Q.ofInt (if s then -m else m)).mul (Q.pow2 ((ex : Int) - 144))).norm

/-- RoundFP26 (R142), as its 26 bits: 18 significant bits, RNE, subnormals flushed. -/
def roundFp26 (v : Val) : Nat :=
  let sg := fun (s : Bool) => if s then 2 ^ 25 else 0
  match v with
  | .nan => 0x1FF0000
  | .inf s => sg s + 0x1FE0000
  | .zero s => sg s
  | .fin q =>
    let neg := q.isNeg
    let a := q.abs.norm
    let e := a.binade
    let n := roundUnits a (e - 17) .rne neg
    let e' := if n = 2 ^ 18 then e + 1 else e
    let n' := if n = 2 ^ 18 then 2 ^ 17 else n
    if e' ≥ 128 then sg neg + 0x1FE0000
    else if e' < -126 then sg neg
    else sg neg + (e' + 127).toNat * 2 ^ 17 + (n' - 2 ^ 17)

/-- SliceSum (R144): the exact sum of a slice's products; an exact zero is −0 only when every product is −0. -/
def sliceSum (ps : List Val) : Val :=
  if ps.any Val.isNan then .nan
  else
    let pos := ps.any (fun v => v = .inf false)
    let neg := ps.any (fun v => v = .inf true)
    if pos && neg then .nan
    else if pos then .inf false
    else if neg then .inf true
    else
      let t := ps.foldl (fun (acc : Q) v => acc.add v.toQ) ⟨0, 1⟩
      Val.ofQ t (!ps.isEmpty && ps.all (fun v => v = .zero true))

/-! ### Approximations (R147, R148) -/

/-- FlushRound (R147): `p` significant bits, RNE, then flush and overflow on the rounded value, as FP32 bits. -/
def flushRound (q : Q) (p : Nat) : Nat :=
  if q.isZero then 0 else
  let neg := q.isNeg
  let a := q.abs.norm
  let e := a.binade
  let n := roundUnits a (e - (p - 1)) .rne neg
  let r := (Q.ofInt n).mul (Q.pow2 (e - (p - 1)))
  if r.lt (Q.pow2 (-126)) then signBits .fp32 neg
  else if !(r.lt (Q.pow2 128)) then signBits .fp32 neg + 0x7F800000
  else roundIeee (.fin (if neg then r.neg else r)) .fp32 .rne false

/-- An input subnormal reads as a zero of its sign (R147). -/
def flushIn (v : Val) : Val :=
  match v with
  | .fin q => if q.abs.lt (Q.pow2 (-126)) then .zero q.isNeg else v
  | w => w

/-- The greatest `n` below `2^p` that a monotone test accepts, found bit by bit from the top. -/
def bitSearch (test : Nat → Bool) : Nat → Nat → Nat
  | 0, n => n
  | p + 1, n => bitSearch test p (if test (n + 2 ^ p) then n + 2 ^ p else n)

/-- A positive real in `[2^e, 2^(e+1))`, given by `below c` (it is at least `c`) and `hits c` (it equals `c`), rounded
to `p` significant bits, RNE: the rounded value. -/
def roundReal (below hits : Q → Bool) (e : Int) (p : Nat) : Q :=
  let u := e - ((p : Int) - 1)
  let at' := fun (n : Nat) => (Q.ofInt n).mul (Q.pow2 u)
  let n := bitSearch (fun n => below (at' n)) p 0
  let mid := (Q.ofInt (2 * n + 1)).mul (Q.pow2 (u - 1))
  if hits mid then at' (if n % 2 = 1 then n + 1 else n)
  else if below mid then at' (n + 1) else at' n

/-- RcpApprox (R147). -/
def rcpApprox (x : Nat) : Nat :=
  match flushIn (ofFp32 x) with
  | .nan => Fmt.nanBits .fp32
  | .inf s => signBits .fp32 s
  | .zero s => signBits .fp32 s + 0x7F800000
  | .fin q => flushRound q.inv 12

/-- The integer square root, found bit by bit below `2^n`. -/
def isqrt (x n : Nat) : Nat := bitSearch (fun r => r * r ≤ x) n 0

/-- 1/√q of a positive `q`, rounded to 12 significant bits (RNE). -/
def rsqRound (q : Q) : Q :=
  let b := q.binade
  -- 1/√q lies in (2^(-(b+1)/2), 2^(-b/2)]
  let inv2 := q.inv
  let below := fun (c : Q) => (c.mul c).le inv2
  let hits := fun (c : Q) => (c.mul c).eq inv2
  let e0 : Int := -((b + 1) / 2) - 1
  let e := if below (Q.pow2 (e0 + 2)) then e0 + 2 else if below (Q.pow2 (e0 + 1)) then e0 + 1 else e0
  roundReal below hits e 12

/-- RsqApprox (R147). -/
def rsqApprox (x : Nat) : Nat :=
  match flushIn (ofFp32 x) with
  | .nan => Fmt.nanBits .fp32
  | .inf s => if s then Fmt.nanBits .fp32 else 0
  | .zero s => signBits .fp32 s + 0x7F800000
  | .fin q => if q.isNeg then Fmt.nanBits .fp32 else flushRound (rsqRound q) 12

/-- FlushRound of a step's exact value (R147, R148). R147 defines it for values that are not zero; an exact zero is +0 where x is
positive, and of a sign that the spec does not state where x is negative: free (log 48). -/
def stepRound (q : Q) (a x : Nat) (neg : Bool) : Nat :=
  if q.isZero then signBits .fp32 (neg && Config.stepZero a x) else flushRound q 24
/-- RcpStep (R148): `x × (2 − a × x)`, one rounding. -/
def rcpStep (a x : Nat) : Nat :=
  match flushIn (ofFp32 a), flushIn (ofFp32 x) with
  | .nan, _ => Fmt.nanBits .fp32
  | _, .nan => Fmt.nanBits .fp32
  | _, .zero s => signBits .fp32 s
  | _, .inf s => signBits .fp32 s + 0x7F800000
  | .inf s, _ => signBits .fp32 (!s) + 0x7F800000
  | va, .fin q => stepRound (q.mul ((Q.ofInt 2).add (va.toQ.mul q).neg)) a x q.isNeg

/-- RsqStep (R148): `x × (3 − a × x × x) / 2`, one rounding. -/
def rsqStep (a x : Nat) : Nat :=
  match flushIn (ofFp32 a), flushIn (ofFp32 x) with
  | .nan, _ => Fmt.nanBits .fp32
  | _, .nan => Fmt.nanBits .fp32
  | _, .zero s => signBits .fp32 s
  | _, .inf s => signBits .fp32 s + 0x7F800000
  | .inf s, .fin q => signBits .fp32 (!(s != q.isNeg)) + 0x7F800000
  | va, .fin q => stepRound ((q.mul ((Q.ofInt 3).add ((va.toQ.mul q).mul q).neg)).mul ⟨1, 2⟩) a x q.isNeg

/-- 2 to an FP32 power, rounded to 12 significant bits (VEXP2, R192). The comparisons are exact: `2^a ≥ c` is
`c^(2^j) ≤ 2^k` for `a = k / 2^j`. Where |a| is below 2^−14 the rounded result is 1. -/
def exp2Approx (x : Nat) : Nat :=
  match ofFp32 x with
  | .nan => Fmt.nanBits .fp32
  | .inf s => if s then 0 else 0x7F800000
  | .zero _ => 0x3F800000
  | .fin q0 =>
    let q := q0.norm
    let e := q.floor
    if e ≥ 128 then 0x7F800000
    else if e < -127 then 0
    else if q.abs.lt (Q.pow2 (-14)) then 0x3F800000
    else
      let fr := q.add (Q.ofInt (-e))           -- 0 ≤ fr < 1, with a power of two below it
      let k := fr.num.toNat
      let below := fun (c : Q) => decide (c.num.toNat ^ fr.den ≤ 2 ^ k * c.den ^ fr.den)
      let hits := fun (c : Q) => decide (c.num.toNat ^ fr.den = 2 ^ k * c.den ^ fr.den)
      let r := (roundReal below hits 0 12).mul (Q.pow2 e)
      if r.lt (Q.pow2 (-126)) then 0
      else if !(r.lt (Q.pow2 128)) then 0x7F800000
      else roundIeee (.fin r) .fp32 .rne false

/-- The exact square root of a positive rational, rounded (RNE) to a format: the diagonal of R270. -/
def sqrtRound (q : Q) (f : Fmt) : Nat :=
  let b := q.binade
  let below := fun (c : Q) => (c.mul c).le q
  let hits := fun (c : Q) => (c.mul c).eq q
  let e := b / 2
  roundIeee (.fin (roundReal below hits e (f.fracBits + 1))) f .rne false

/-! ### Float minimum and maximum (R189) -/

/-- The lesser of two values with −0 < +0. -/
def valLess (a b : Val) : Bool := a.lt b || (a.eqv b && a.isNeg && !b.isNeg)
/-- VFMIN: one NaN gives the other operand; two give NaN (R189). -/
def valMin (a b : Val) : Val :=
  match a, b with
  | .nan, y => y
  | x, .nan => x
  | x, y => if valLess y x then y else x
/-- VFMAX, on the same rules (R189). -/
def valMax (a b : Val) : Val :=
  match a, b with
  | .nan, y => y
  | x, .nan => x
  | x, y => if valLess x y then y else x

end Sys2Proof
end

