-- ==== Sys2Proof/Syntax.lean ====
section
/-! DEFINITION. The instructions: one constructor for each of the 305 rows of the opcode table, with the
operands its encoding or its row gives it. -/
namespace Sys2Proof

/-- An operand descriptor (R30). The all-zero descriptor, "unused", is `queue 0 0 false`. -/
inductive Desc where
  | queue (q : BitVec 3) (off : BitVec 4) (last : Bool)
  | vreg (r : BitVec 10)
  | sreg (r : BitVec 6)
  | cbank (boff : BitVec 12)
  | lit (sel : Bool)
  deriving DecidableEq, Repr

/-- The four slots that take control words (R17, R21). -/
inductive Slot where
  | sc | va | vb | xb
  deriving DecidableEq, Repr

/-- The fields of a control word beside its opcode (R25). -/
structure Cw where
  etype : BitVec 4
  rnd : BitVec 3
  sat : BitVec 2
  src1 : Desc
  src2 : Desc
  src3 : Desc
  dst : Desc
  pdst : BitVec 4
  mksel : BitVec 3
  aux : BitVec 8
  lit0 : W64
  lit1 : W64
  deriving DecidableEq, Repr

/-- A 16-bit slot with the control word its index names (R17, R25). -/
structure Part where
  slot : Slot
  guard : BitVec 4
  ar : Bool
  width : BitVec 2
  index : BitVec 9
  cw : Cw
  deriving DecidableEq, Repr

/-- The fields of a copy slot beside COPYOP (R20, R38). -/
structure Cp where
  guard : BitVec 4
  ar : Bool
  addrReg : BitVec 6
  lenReg : BitVec 6
  auxReg : BitVec 6
  dest : Desc
  barReg : BitVec 6
  seq : BitVec 2
  policy : BitVec 3
  spec : BitVec 5
  deriving DecidableEq, Repr

/-- The fields of a micro-op word beside MOP (R40). -/
structure Uop where
  pa : BitVec 3
  pb : BitVec 3
  pc : BitVec 3
  flags : BitVec 4
  imm : BitVec 32
  deriving DecidableEq, Repr

/-- Where a packet stands, and word 0 beside TYPE (R284). -/
structure PktHdr where
  host : BitVec 1
  queue : BitVec 6
  bar : Bool
  tag : BitVec 16
  deriving DecidableEq, Repr

/-- The structures of R310 in which an uncorrectable error is found. -/
inductive ErrPlace where
  | queueSlot | memLine | vreg | acc | aStage | wblock | micro | spadBytes | other
  deriving DecidableEq, Repr

/-- The PCIe AtomicOps of R246. -/
inductive HostOp where
  | fetchAdd | swap | cas
  deriving DecidableEq, Repr

/-- What another device of the load-store domain asks for (R328, R331, R332). -/
inductive RemReq where
  | read (len : Nat)
  | write (data : List Byte)
  | amo (opc : BitVec 4) (len : Nat) (a b : BitVec 128)
  | merged (opc : BitVec 4) (fp : Bool) (len : Nat) (m : W64)
  | contribution (w : BitVec 4) (opc : BitVec 4) (c : W64) (core ctx : Nat)
  deriving DecidableEq, Repr

/-- The instructions and steps of the opcode table, one constructor a row, each family in the table's order. A control
operation carries its guard `g` and its CIMM fields (R24); a control-word operation its part; a copy its slot; a
micro-op its fields; a step of the device the unit it concerns; a packet its words. -/
inductive Instr where
  | nop (g : BitVec 4)
  | br (g : BitVec 4) (off : BitVec 19)
  | brx (g : BitVec 4) (n : BitVec 6)
  | call (g : BitVec 4) (off : BitVec 19)
  | ret (g : BitVec 4)
  | loop (g : BitVec 4) (off : BitVec 13) (n : BitVec 6)
  | lend (g : BitVec 4)
  | mark (g : BitVec 4) (m : BitVec 19)
  | spawn (g : BitVec 4) (off : BitVec 17) (t : BitVec 2)
  | halt (g : BitVec 4)
  | yield (g : BitVec 4)
  | dbar (g : BitVec 4) (lvl : BitVec 3)
  | waitb (g : BitVec 4) (n : BitVec 6)
  | fence (g : BitVec 4) (sc : BitVec 3)
  | ifence (g : BitVec 4)
  | trap (g : BitVec 4) (code : BitVec 8)
  | eret (g : BitVec 4)
  | swapi (g : BitVec 4) (off : BitVec 14)
  | add (p : Part)
  | sub (p : Part)
  | mul (p : Part)
  | mulhs (p : Part)
  | mulhu (p : Part)
  | divs (p : Part)
  | divu (p : Part)
  | rems (p : Part)
  | remu (p : Part)
  | and (p : Part)
  | or (p : Part)
  | xor (p : Part)
  | andn (p : Part)
  | shl (p : Part)
  | shrl (p : Part)
  | shra (p : Part)
  | min (p : Part)
  | max (p : Part)
  | minu (p : Part)
  | maxu (p : Part)
  | mov (p : Part)
  | sel (p : Part)
  | clz (p : Part)
  | popc (p : Part)
  | bfx (p : Part)
  | bfi (p : Part)
  | cmpeq (p : Part)
  | cmpne (p : Part)
  | cmplt (p : Part)
  | cmpltu (p : Part)
  | cmple (p : Part)
  | cmpleu (p : Part)
  | pand (p : Part)
  | por (p : Part)
  | pxor (p : Part)
  | pandn (p : Part)
  | pmov (p : Part)
  | lea (p : Part)
  | aset (p : Part)
  | aget (p : Part)
  | ld (p : Part)
  | st (p : Part)
  | ldsp (p : Part)
  | stsp (p : Part)
  | csrr (p : Part)
  | csrw (p : Part)
  | csrset (p : Part)
  | csrclr (p : Part)
  | amoadd (p : Part)
  | amoand (p : Part)
  | amoor (p : Part)
  | amoxor (p : Part)
  | amomin (p : Part)
  | amomax (p : Part)
  | amominu (p : Part)
  | amomaxu (p : Part)
  | amoswap (p : Part)
  | amocas (p : Part)
  | amold (p : Part)
  | amost (p : Part)
  | qalloc (p : Part)
  | qfree (p : Part)
  | qdeq (p : Part)
  | qsplice (p : Part)
  | qunsplice (p : Part)
  | qresplice (p : Part)
  | qfreeze (p : Part)
  | qthaw (p : Part)
  | qsave (p : Part)
  | qrestore (p : Part)
  | qstat (p : Part)
  | baralloc (p : Part)
  | barref (p : Part)
  | bardrop (p : Part)
  | barinit (p : Part)
  | bartest (p : Part)
  | bararr (p : Part)
  | msload (p : Part)
  | ephbind (p : Part)
  | ephstat (p : Part)
  | rlcgo (p : Part)
  | rlcwait (p : Part)
  | rlcstat (p : Part)
  | rlcabort (p : Part)
  | vadd (p : Part)
  | vsub (p : Part)
  | vmul (p : Part)
  | vmulhs (p : Part)
  | vmulhu (p : Part)
  | vmin (p : Part)
  | vmax (p : Part)
  | vminu (p : Part)
  | vmaxu (p : Part)
  | vand (p : Part)
  | vor (p : Part)
  | vxor (p : Part)
  | vshl (p : Part)
  | vshrl (p : Part)
  | vshra (p : Part)
  | vabs (p : Part)
  | vneg (p : Part)
  | vmov (p : Part)
  | vsel (p : Part)
  | vmad (p : Part)
  | vcmpeq (p : Part)
  | vcmpne (p : Part)
  | vcmplt (p : Part)
  | vcmpltu (p : Part)
  | vcmple (p : Part)
  | vcmpleu (p : Part)
  | vredadd (p : Part)
  | vredmin (p : Part)
  | vredmax (p : Part)
  | vredminu (p : Part)
  | vredmaxu (p : Part)
  | vcompact (p : Part)
  | vexpand (p : Part)
  | vmaskcnt (p : Part)
  | viota (p : Part)
  | vreq (p : Part)
  | vreq8 (p : Part)
  | vfadd (p : Part)
  | vfsub (p : Part)
  | vfmul (p : Part)
  | vfma (p : Part)
  | vfms (p : Part)
  | vfnma (p : Part)
  | vfmin (p : Part)
  | vfmax (p : Part)
  | vfabs (p : Part)
  | vfneg (p : Part)
  | vfcmpeq (p : Part)
  | vfcmplt (p : Part)
  | vfcmple (p : Part)
  | vfcmpun (p : Part)
  | vfredadd (p : Part)
  | vfredmin (p : Part)
  | vfredmax (p : Part)
  | vcvt (p : Part)
  | vfround (p : Part)
  | vfreq (p : Part)
  | vrcp (p : Part)
  | vrsq (p : Part)
  | vrcps (p : Part)
  | vrsqs (p : Part)
  | vexp2 (p : Part)
  | vmadm (p : Part)
  | vmsbm (p : Part)
  | vmulm (p : Part)
  | vmulmc (p : Part)
  | vbfly (p : Part)
  | vibfly (p : Part)
  | vperm (p : Part)
  | vmred (p : Part)
  | vmcent (p : Part)
  | vmodset (p : Part)
  | vmodget (p : Part)
  | xperm (p : Part)
  | xbcast (p : Part)
  | xrot (p : Part)
  | xzip (p : Part)
  | xunzip (p : Part)
  | xtrn (p : Part)
  | mcall (g : BitVec 4) (ar : Bool) (r : BitVec 8) (imm : BitVec 18)
  | cplin (p : Cp)
  | cplinCode (p : Cp)
  | cpstr (p : Cp)
  | cpgath (p : Cp)
  | cpconv (p : Cp)
  | cpver (p : Cp)
  | cpcomp (p : Cp)
  | cpst (p : Cp)
  | cpsts (p : Cp)
  | cpbank (p : Cp)
  | cpwb (p : Cp)
  | cpdisc (p : Cp)
  | cppref (p : Cp)
  | cpcoll (p : Cp)
  | mzero (u : Uop)
  | mlda (u : Uop)
  | mldb (u : Uop)
  | mmac (u : Uop)
  | mpromo (u : Uop)
  | macc (u : Uop)
  | mout (u : Uop)
  | mwbl (u : Uop)
  | msetk (u : Uop)
  | mloop (u : Uop)
  | mend (u : Uop)
  | mbr (u : Uop)
  | mret (u : Uop)
  | pktNop (h : PktHdr)
  | beginBatch (h : PktHdr)
  | commitBatch (h : PktHdr)
  | launchPkt (h : PktHdr) (desc : W64) (sig : W64) (val : W64)
  | graphPkt (h : PktHdr) (desc : W64) (sig : W64) (val : W64)
  | writePkt (h : PktHdr) (dst : W64) (cnt : BitVec 3) (v0 : W64) (v1 : W64) (v2 : W64) (v3 : W64)
  | waitmemPkt (h : PktHdr) (addr : W64) (mask : W64) (val : W64) (op : BitVec 2) (tmo : BitVec 32)
  | pktLoop (h : PktHdr) (body : BitVec 6) (trips : BitVec 16)
  | indirectPkt (h : PktHdr) (buf : W64) (cnt : BitVec 13)
  | signalPkt (h : PktHdr) (addr : W64) (val : W64) (store : Bool) (irq : Bool) (vec : BitVec 8)
  | fetchFence (h : PktHdr)
  | nullifierSkip (core : Nat) (ctx : Nat)
  | bundleUnblock (core : Nat) (ctx : Nat)
  | fenceComplete (core : Nat) (ctx : Nat)
  | ifenceComplete (core : Nat) (ctx : Nat)
  | dbarRelease (core : Nat) (ctx : Nat)
  | haltDrained (core : Nat) (ctx : Nat)
  | launchEndCore (core : Nat)
  | dividerComplete (core : Nat)
  | loadComplete (core : Nat) (ctx : Nat)
  | storePerform (core : Nat) (idx : Nat)
  | atomicComplete (core : Nat) (ctx : Nat)
  | fillLand (core : Nat) (idx : Nat)
  | readComplete (core : Nat) (ctx : Nat) (q : Nat) (pos : Nat)
  | spliceAppendArrive (core : Nat) (idx : Nat)
  | headAdvertise (core : Nat) (idx : Nat)
  | freezeRequest (core : Nat) (idx : Nat)
  | freezeMarker (core : Nat) (idx : Nat)
  | freezeAck (core : Nat) (idx : Nat)
  | thawHandshake (core : Nat) (idx : Nat)
  | barrierArrive (core : Nat) (idx : Nat)
  | barrierFree (core : Nat) (bar : Nat)
  | rlcStep (cluster : Nat)
  | vbSplitStart (core : Nat) (idx : Nat)
  | vectorPartComplete (core : Nat) (idx : Nat)
  | routineStart (core : Nat)
  | stageFetchDone (core : Nat) (idx : Nat)
  | routineRetire (core : Nat) (idx : Nat)
  | copyStart (core : Nat) (idx : Nat)
  | copyLand (core : Nat) (idx : Nat)
  | cpverCommit (core : Nat) (idx : Nat)
  | collectiveComplete (idx : Nat)
  | contribArrive (idx : Nat)
  | entryRead (idx : Nat)
  | entryStart (idx : Nat)
  | entryComplete (idx : Nat) (entry : Nat)
  | ephStallPass (core : Nat) (ctx : Nat)
  | windowBoundary
  | portGrant (die : Nat) (port : Nat)
  | trapEnter (core : Nat) (ctx : Nat)
  | fatalFault (core : Nat)
  | softerr (st : ErrPlace) (core : Nat) (n : Nat)
  | scrubDie (die : Nat)
  | pollSlot (host : BitVec 1) (q : BitVec 6)
  | waitmemTimeout (host : BitVec 1) (q : BitVec 6)
  | launchBind (id : Nat)
  | launchComplete (id : Nat)
  | graphNodeEnd (id : Nat)
  | preemptSave (core : Nat)
  | saveAreaCheck (core : Nat)
  | restore (idx : Nat)
  | createTenant (port : BitVec 1) (asid : BitVec 16)
  | destroyTenant (port : BitVec 1) (asid : BitVec 16)
  | givecore (port : BitVec 1) (asid : BitVec 16)
  | takecore (port : BitVec 1) (asid : BitVec 16)
  | setQuota (port : BitVec 1) (asid : BitVec 16)
  | preemptCore (port : BitVec 1) (asid : BitVec 16)
  | releaseCore (port : BitVec 1) (asid : BitVec 16)
  | badop (port : BitVec 1) (asid : BitVec 16)
  | replayCopy (port : BitVec 1) (core : BitVec 10) (slot : BitVec 3)
  | declineCopy (port : BitVec 1) (core : BitVec 10) (slot : BitVec 3)
  | txinv (port : BitVec 1) (die : BitVec 2) (v : W64)
  | txinvDone (die : BitVec 2)
  | l2Commit (port : BitVec 1) (die : BitVec 2) (v : W64)
  | l2CommitDone (die : BitVec 2)
  | featmaskWrite (port : BitVec 1) (v : W64)
  | redwinWrite (port : BitVec 1) (w : BitVec 4) (word : BitVec 1) (v : W64)
  | pwrctlWrite (port : BitVec 1) (die : BitVec 2) (v : W64)
  | powerChangeDone (die : BitVec 2)
  | iopwrWrite (port : BitVec 1) (v : W64)
  | thermalTrip (die : BitVec 2)
  | thermalResume (die : BitVec 2)
  | attestGo (port : BitVec 1) (v : W64)
  | registerWrite (port : BitVec 1) (blk : BitVec 3) (off : BitVec 12) (v : W64)
  | hostApertureRead (port : BitVec 1) (ap : BitVec 4) (off : BitVec 32) (len : Nat)
  | hostApertureWrite (port : BitVec 1) (ap : BitVec 4) (off : BitVec 32) (data : List Byte)
  | hostAtomic (port : BitVec 1) (ap : BitVec 4) (off : BitVec 32) (op : HostOp) (len : BitVec 5) (a : BitVec 128) (b : BitVec 128)
  | uliTrain (port : BitVec 4) (gen2 : Bool)
  | uliDown (port : BitVec 4)
  | powerGood (fail : BitVec 2) (farmask : BitVec 48)
  | deviceReset
  | spliceRequest (core : Nat) (idx : Nat)
  | unspliceRequest (core : Nat) (idx : Nat)
  | thawReply (core : Nat) (idx : Nat)
  | remoteRequest (dev : BitVec 10) (asid : BitVec 16) (addr : BitVec 42) (req : RemReq)
  | launchAbort (id : Nat)
  deriving DecidableEq, Repr

end Sys2Proof
end

