-- ==== Sys2Proof/Machine/Opcodes.lean ====
section
/-! DEFINITION. Each instruction's number in the encoding tables of the spec (R24, R33 to R36, R39, R41), both ways. -/
namespace Sys2Proof.Machine
open Sys2Proof

/-- What an instruction is to the encoder and the issue checks: a control operation with COP and CIMM, a
control-word operation with its opcode, the matrix slot, a copy with COPYOP, a micro-op with MOP, or a step of
the device, which has no encoding of its own. -/
inductive View where
  | ctl (cop : Nat) (g : BitVec 4) (cimm : Nat)
  | op (opc : Nat) (p : Part)
  | mx (g : BitVec 4) (ar : Bool) (r : BitVec 8) (imm : BitVec 18)
  | cp (cop : Nat) (code : Bool) (p : Cp)
  | uop (mop : Nat) (u : Uop)
  | step
  deriving DecidableEq, Repr

/-- The encoding view of every instruction. -/
def view (i : Instr) : View :=
  match i with
  | .nop g => .ctl 0x0 g (0)
  | .br g off => .ctl 0x1 g (off.toNat)
  | .brx g n => .ctl 0x2 g (n.toNat)
  | .call g off => .ctl 0x3 g (off.toNat)
  | .ret g => .ctl 0x4 g (0)
  | .loop g off n => .ctl 0x5 g (off.toNat * 64 + n.toNat)
  | .lend g => .ctl 0x6 g (0)
  | .mark g m => .ctl 0x7 g (m.toNat)
  | .spawn g off t => .ctl 0x8 g (off.toNat * 4 + t.toNat)
  | .halt g => .ctl 0x9 g (0)
  | .yield g => .ctl 0xa g (0)
  | .dbar g lvl => .ctl 0xb g (lvl.toNat)
  | .waitb g n => .ctl 0xc g (n.toNat)
  | .fence g sc => .ctl 0xd g (sc.toNat)
  | .ifence g => .ctl 0xe g (0)
  | .trap g code => .ctl 0xf g (code.toNat)
  | .eret g => .ctl 0x10 g (0)
  | .swapi g off => .ctl 0x11 g (off.toNat)
  | .add p => .op 0x1 p
  | .sub p => .op 0x2 p
  | .mul p => .op 0x3 p
  | .mulhs p => .op 0x4 p
  | .mulhu p => .op 0x5 p
  | .divs p => .op 0x6 p
  | .divu p => .op 0x7 p
  | .rems p => .op 0x8 p
  | .remu p => .op 0x9 p
  | .and p => .op 0xa p
  | .or p => .op 0xb p
  | .xor p => .op 0xc p
  | .andn p => .op 0xd p
  | .shl p => .op 0xe p
  | .shrl p => .op 0xf p
  | .shra p => .op 0x10 p
  | .min p => .op 0x11 p
  | .max p => .op 0x12 p
  | .minu p => .op 0x13 p
  | .maxu p => .op 0x14 p
  | .mov p => .op 0x15 p
  | .sel p => .op 0x16 p
  | .clz p => .op 0x17 p
  | .popc p => .op 0x18 p
  | .bfx p => .op 0x19 p
  | .bfi p => .op 0x1a p
  | .cmpeq p => .op 0x20 p
  | .cmpne p => .op 0x21 p
  | .cmplt p => .op 0x22 p
  | .cmpltu p => .op 0x23 p
  | .cmple p => .op 0x24 p
  | .cmpleu p => .op 0x25 p
  | .pand p => .op 0x28 p
  | .por p => .op 0x29 p
  | .pxor p => .op 0x2a p
  | .pandn p => .op 0x2b p
  | .pmov p => .op 0x2c p
  | .lea p => .op 0x30 p
  | .aset p => .op 0x31 p
  | .aget p => .op 0x32 p
  | .ld p => .op 0x40 p
  | .st p => .op 0x41 p
  | .ldsp p => .op 0x42 p
  | .stsp p => .op 0x43 p
  | .csrr p => .op 0x50 p
  | .csrw p => .op 0x51 p
  | .csrset p => .op 0x52 p
  | .csrclr p => .op 0x53 p
  | .amoadd p => .op 0x60 p
  | .amoand p => .op 0x61 p
  | .amoor p => .op 0x62 p
  | .amoxor p => .op 0x63 p
  | .amomin p => .op 0x64 p
  | .amomax p => .op 0x65 p
  | .amominu p => .op 0x66 p
  | .amomaxu p => .op 0x67 p
  | .amoswap p => .op 0x68 p
  | .amocas p => .op 0x69 p
  | .amold p => .op 0x6a p
  | .amost p => .op 0x6b p
  | .qalloc p => .op 0x360 p
  | .qfree p => .op 0x361 p
  | .qdeq p => .op 0x362 p
  | .qsplice p => .op 0x363 p
  | .qunsplice p => .op 0x364 p
  | .qresplice p => .op 0x365 p
  | .qfreeze p => .op 0x366 p
  | .qthaw p => .op 0x367 p
  | .qsave p => .op 0x368 p
  | .qrestore p => .op 0x369 p
  | .qstat p => .op 0x36a p
  | .baralloc p => .op 0x380 p
  | .barref p => .op 0x381 p
  | .bardrop p => .op 0x382 p
  | .barinit p => .op 0x383 p
  | .bartest p => .op 0x384 p
  | .bararr p => .op 0x385 p
  | .msload p => .op 0x390 p
  | .ephbind p => .op 0x3a0 p
  | .ephstat p => .op 0x3a1 p
  | .rlcgo p => .op 0x3b0 p
  | .rlcwait p => .op 0x3b1 p
  | .rlcstat p => .op 0x3b2 p
  | .rlcabort p => .op 0x3b3 p
  | .vadd p => .op 0x101 p
  | .vsub p => .op 0x102 p
  | .vmul p => .op 0x103 p
  | .vmulhs p => .op 0x104 p
  | .vmulhu p => .op 0x105 p
  | .vmin p => .op 0x106 p
  | .vmax p => .op 0x107 p
  | .vminu p => .op 0x108 p
  | .vmaxu p => .op 0x109 p
  | .vand p => .op 0x10a p
  | .vor p => .op 0x10b p
  | .vxor p => .op 0x10c p
  | .vshl p => .op 0x10d p
  | .vshrl p => .op 0x10e p
  | .vshra p => .op 0x10f p
  | .vabs p => .op 0x110 p
  | .vneg p => .op 0x111 p
  | .vmov p => .op 0x112 p
  | .vsel p => .op 0x113 p
  | .vmad p => .op 0x114 p
  | .vcmpeq p => .op 0x120 p
  | .vcmpne p => .op 0x121 p
  | .vcmplt p => .op 0x122 p
  | .vcmpltu p => .op 0x123 p
  | .vcmple p => .op 0x124 p
  | .vcmpleu p => .op 0x125 p
  | .vredadd p => .op 0x130 p
  | .vredmin p => .op 0x131 p
  | .vredmax p => .op 0x132 p
  | .vredminu p => .op 0x133 p
  | .vredmaxu p => .op 0x134 p
  | .vcompact p => .op 0x140 p
  | .vexpand p => .op 0x141 p
  | .vmaskcnt p => .op 0x142 p
  | .viota p => .op 0x143 p
  | .vreq p => .op 0x150 p
  | .vreq8 p => .op 0x151 p
  | .vfadd p => .op 0x201 p
  | .vfsub p => .op 0x202 p
  | .vfmul p => .op 0x203 p
  | .vfma p => .op 0x204 p
  | .vfms p => .op 0x205 p
  | .vfnma p => .op 0x206 p
  | .vfmin p => .op 0x207 p
  | .vfmax p => .op 0x208 p
  | .vfabs p => .op 0x209 p
  | .vfneg p => .op 0x20a p
  | .vfcmpeq p => .op 0x220 p
  | .vfcmplt p => .op 0x221 p
  | .vfcmple p => .op 0x222 p
  | .vfcmpun p => .op 0x223 p
  | .vfredadd p => .op 0x230 p
  | .vfredmin p => .op 0x231 p
  | .vfredmax p => .op 0x232 p
  | .vcvt p => .op 0x240 p
  | .vfround p => .op 0x241 p
  | .vfreq p => .op 0x242 p
  | .vrcp p => .op 0x250 p
  | .vrsq p => .op 0x251 p
  | .vrcps p => .op 0x252 p
  | .vrsqs p => .op 0x253 p
  | .vexp2 p => .op 0x254 p
  | .vmadm p => .op 0x301 p
  | .vmsbm p => .op 0x302 p
  | .vmulm p => .op 0x303 p
  | .vmulmc p => .op 0x304 p
  | .vbfly p => .op 0x305 p
  | .vibfly p => .op 0x306 p
  | .vperm p => .op 0x307 p
  | .vmred p => .op 0x308 p
  | .vmcent p => .op 0x309 p
  | .vmodset p => .op 0x30a p
  | .vmodget p => .op 0x30b p
  | .xperm p => .op 0x340 p
  | .xbcast p => .op 0x341 p
  | .xrot p => .op 0x342 p
  | .xzip p => .op 0x343 p
  | .xunzip p => .op 0x344 p
  | .xtrn p => .op 0x345 p
  | .mcall g ar r imm => .mx g ar r imm
  | .cplin p => .cp 0x1 false p
  | .cplinCode p => .cp 0x1 true p
  | .cpstr p => .cp 0x2 false p
  | .cpgath p => .cp 0x3 false p
  | .cpconv p => .cp 0x4 false p
  | .cpver p => .cp 0x5 false p
  | .cpcomp p => .cp 0x6 false p
  | .cpst p => .cp 0x7 false p
  | .cpsts p => .cp 0x8 false p
  | .cpbank p => .cp 0x9 false p
  | .cpwb p => .cp 0xa false p
  | .cpdisc p => .cp 0xb false p
  | .cppref p => .cp 0xc false p
  | .cpcoll p => .cp 0xd false p
  | .mzero u => .uop 0x1 u
  | .mlda u => .uop 0x2 u
  | .mldb u => .uop 0x3 u
  | .mmac u => .uop 0x4 u
  | .mpromo u => .uop 0x5 u
  | .macc u => .uop 0x6 u
  | .mout u => .uop 0x7 u
  | .mwbl u => .uop 0x8 u
  | .msetk u => .uop 0x9 u
  | .mloop u => .uop 0xa u
  | .mend u => .uop 0xb u
  | .mbr u => .uop 0xc u
  | .mret u => .uop 0xd u
  | .pktNop .. => .step
  | .beginBatch .. => .step
  | .commitBatch .. => .step
  | .launchPkt .. => .step
  | .graphPkt .. => .step
  | .writePkt .. => .step
  | .waitmemPkt .. => .step
  | .pktLoop .. => .step
  | .indirectPkt .. => .step
  | .signalPkt .. => .step
  | .fetchFence .. => .step
  | .nullifierSkip .. => .step
  | .bundleUnblock .. => .step
  | .fenceComplete .. => .step
  | .ifenceComplete .. => .step
  | .dbarRelease .. => .step
  | .haltDrained .. => .step
  | .launchEndCore .. => .step
  | .dividerComplete .. => .step
  | .loadComplete .. => .step
  | .storePerform .. => .step
  | .atomicComplete .. => .step
  | .fillLand .. => .step
  | .readComplete .. => .step
  | .spliceAppendArrive .. => .step
  | .headAdvertise .. => .step
  | .freezeRequest .. => .step
  | .freezeMarker .. => .step
  | .freezeAck .. => .step
  | .thawHandshake .. => .step
  | .barrierArrive .. => .step
  | .barrierFree .. => .step
  | .rlcStep .. => .step
  | .vbSplitStart .. => .step
  | .vectorPartComplete .. => .step
  | .routineStart .. => .step
  | .stageFetchDone .. => .step
  | .routineRetire .. => .step
  | .copyStart .. => .step
  | .copyLand .. => .step
  | .cpverCommit .. => .step
  | .collectiveComplete .. => .step
  | .contribArrive .. => .step
  | .entryRead .. => .step
  | .entryStart .. => .step
  | .entryComplete .. => .step
  | .ephStallPass .. => .step
  | .windowBoundary => .step
  | .portGrant .. => .step
  | .trapEnter .. => .step
  | .fatalFault .. => .step
  | .softerr .. => .step
  | .scrubDie .. => .step
  | .pollSlot .. => .step
  | .waitmemTimeout .. => .step
  | .launchBind .. => .step
  | .launchComplete .. => .step
  | .graphNodeEnd .. => .step
  | .preemptSave .. => .step
  | .saveAreaCheck .. => .step
  | .restore .. => .step
  | .createTenant .. => .step
  | .destroyTenant .. => .step
  | .givecore .. => .step
  | .takecore .. => .step
  | .setQuota .. => .step
  | .preemptCore .. => .step
  | .releaseCore .. => .step
  | .badop .. => .step
  | .replayCopy .. => .step
  | .declineCopy .. => .step
  | .txinv .. => .step
  | .txinvDone .. => .step
  | .l2Commit .. => .step
  | .l2CommitDone .. => .step
  | .featmaskWrite .. => .step
  | .redwinWrite .. => .step
  | .pwrctlWrite .. => .step
  | .powerChangeDone .. => .step
  | .iopwrWrite .. => .step
  | .thermalTrip .. => .step
  | .thermalResume .. => .step
  | .attestGo .. => .step
  | .registerWrite .. => .step
  | .hostApertureRead .. => .step
  | .hostApertureWrite .. => .step
  | .hostAtomic .. => .step
  | .uliTrain .. => .step
  | .uliDown .. => .step
  | .powerGood .. => .step
  | .deviceReset => .step
  | .spliceRequest .. => .step
  | .unspliceRequest .. => .step
  | .thawReply .. => .step
  | .remoteRequest .. => .step
  | .launchAbort .. => .step

/-- The control operation of a COP and CIMM (R24); `none` for a reserved COP. -/
def ofCtl (cop : Nat) (g : BitVec 4) (x : Nat) : Option Instr :=
  match cop with
  | 0x0 => some (.nop g)
  | 0x1 => some (.br g (.ofNat 19 x))
  | 0x2 => some (.brx g (.ofNat 6 x))
  | 0x3 => some (.call g (.ofNat 19 x))
  | 0x4 => some (.ret g)
  | 0x5 => some (.loop g (.ofNat 13 (x / 64)) (.ofNat 6 x))
  | 0x6 => some (.lend g)
  | 0x7 => some (.mark g (.ofNat 19 x))
  | 0x8 => some (.spawn g (.ofNat 17 (x / 4)) (.ofNat 2 x))
  | 0x9 => some (.halt g)
  | 0xa => some (.yield g)
  | 0xb => some (.dbar g (.ofNat 3 x))
  | 0xc => some (.waitb g (.ofNat 6 x))
  | 0xd => some (.fence g (.ofNat 3 x))
  | 0xe => some (.ifence g)
  | 0xf => some (.trap g (.ofNat 8 x))
  | 0x10 => some (.eret g)
  | 0x11 => some (.swapi g (.ofNat 14 x))
  | _ => none

/-- The operation of a control-word opcode (R33 to R36); `none` for a reserved one. -/
def ofOp (opc : Nat) (p : Part) : Option Instr :=
  match opc with
  | 0x1 => some (.add p)
  | 0x2 => some (.sub p)
  | 0x3 => some (.mul p)
  | 0x4 => some (.mulhs p)
  | 0x5 => some (.mulhu p)
  | 0x6 => some (.divs p)
  | 0x7 => some (.divu p)
  | 0x8 => some (.rems p)
  | 0x9 => some (.remu p)
  | 0xa => some (.and p)
  | 0xb => some (.or p)
  | 0xc => some (.xor p)
  | 0xd => some (.andn p)
  | 0xe => some (.shl p)
  | 0xf => some (.shrl p)
  | 0x10 => some (.shra p)
  | 0x11 => some (.min p)
  | 0x12 => some (.max p)
  | 0x13 => some (.minu p)
  | 0x14 => some (.maxu p)
  | 0x15 => some (.mov p)
  | 0x16 => some (.sel p)
  | 0x17 => some (.clz p)
  | 0x18 => some (.popc p)
  | 0x19 => some (.bfx p)
  | 0x1a => some (.bfi p)
  | 0x20 => some (.cmpeq p)
  | 0x21 => some (.cmpne p)
  | 0x22 => some (.cmplt p)
  | 0x23 => some (.cmpltu p)
  | 0x24 => some (.cmple p)
  | 0x25 => some (.cmpleu p)
  | 0x28 => some (.pand p)
  | 0x29 => some (.por p)
  | 0x2a => some (.pxor p)
  | 0x2b => some (.pandn p)
  | 0x2c => some (.pmov p)
  | 0x30 => some (.lea p)
  | 0x31 => some (.aset p)
  | 0x32 => some (.aget p)
  | 0x40 => some (.ld p)
  | 0x41 => some (.st p)
  | 0x42 => some (.ldsp p)
  | 0x43 => some (.stsp p)
  | 0x50 => some (.csrr p)
  | 0x51 => some (.csrw p)
  | 0x52 => some (.csrset p)
  | 0x53 => some (.csrclr p)
  | 0x60 => some (.amoadd p)
  | 0x61 => some (.amoand p)
  | 0x62 => some (.amoor p)
  | 0x63 => some (.amoxor p)
  | 0x64 => some (.amomin p)
  | 0x65 => some (.amomax p)
  | 0x66 => some (.amominu p)
  | 0x67 => some (.amomaxu p)
  | 0x68 => some (.amoswap p)
  | 0x69 => some (.amocas p)
  | 0x6a => some (.amold p)
  | 0x6b => some (.amost p)
  | 0x360 => some (.qalloc p)
  | 0x361 => some (.qfree p)
  | 0x362 => some (.qdeq p)
  | 0x363 => some (.qsplice p)
  | 0x364 => some (.qunsplice p)
  | 0x365 => some (.qresplice p)
  | 0x366 => some (.qfreeze p)
  | 0x367 => some (.qthaw p)
  | 0x368 => some (.qsave p)
  | 0x369 => some (.qrestore p)
  | 0x36a => some (.qstat p)
  | 0x380 => some (.baralloc p)
  | 0x381 => some (.barref p)
  | 0x382 => some (.bardrop p)
  | 0x383 => some (.barinit p)
  | 0x384 => some (.bartest p)
  | 0x385 => some (.bararr p)
  | 0x390 => some (.msload p)
  | 0x3a0 => some (.ephbind p)
  | 0x3a1 => some (.ephstat p)
  | 0x3b0 => some (.rlcgo p)
  | 0x3b1 => some (.rlcwait p)
  | 0x3b2 => some (.rlcstat p)
  | 0x3b3 => some (.rlcabort p)
  | 0x101 => some (.vadd p)
  | 0x102 => some (.vsub p)
  | 0x103 => some (.vmul p)
  | 0x104 => some (.vmulhs p)
  | 0x105 => some (.vmulhu p)
  | 0x106 => some (.vmin p)
  | 0x107 => some (.vmax p)
  | 0x108 => some (.vminu p)
  | 0x109 => some (.vmaxu p)
  | 0x10a => some (.vand p)
  | 0x10b => some (.vor p)
  | 0x10c => some (.vxor p)
  | 0x10d => some (.vshl p)
  | 0x10e => some (.vshrl p)
  | 0x10f => some (.vshra p)
  | 0x110 => some (.vabs p)
  | 0x111 => some (.vneg p)
  | 0x112 => some (.vmov p)
  | 0x113 => some (.vsel p)
  | 0x114 => some (.vmad p)
  | 0x120 => some (.vcmpeq p)
  | 0x121 => some (.vcmpne p)
  | 0x122 => some (.vcmplt p)
  | 0x123 => some (.vcmpltu p)
  | 0x124 => some (.vcmple p)
  | 0x125 => some (.vcmpleu p)
  | 0x130 => some (.vredadd p)
  | 0x131 => some (.vredmin p)
  | 0x132 => some (.vredmax p)
  | 0x133 => some (.vredminu p)
  | 0x134 => some (.vredmaxu p)
  | 0x140 => some (.vcompact p)
  | 0x141 => some (.vexpand p)
  | 0x142 => some (.vmaskcnt p)
  | 0x143 => some (.viota p)
  | 0x150 => some (.vreq p)
  | 0x151 => some (.vreq8 p)
  | 0x201 => some (.vfadd p)
  | 0x202 => some (.vfsub p)
  | 0x203 => some (.vfmul p)
  | 0x204 => some (.vfma p)
  | 0x205 => some (.vfms p)
  | 0x206 => some (.vfnma p)
  | 0x207 => some (.vfmin p)
  | 0x208 => some (.vfmax p)
  | 0x209 => some (.vfabs p)
  | 0x20a => some (.vfneg p)
  | 0x220 => some (.vfcmpeq p)
  | 0x221 => some (.vfcmplt p)
  | 0x222 => some (.vfcmple p)
  | 0x223 => some (.vfcmpun p)
  | 0x230 => some (.vfredadd p)
  | 0x231 => some (.vfredmin p)
  | 0x232 => some (.vfredmax p)
  | 0x240 => some (.vcvt p)
  | 0x241 => some (.vfround p)
  | 0x242 => some (.vfreq p)
  | 0x250 => some (.vrcp p)
  | 0x251 => some (.vrsq p)
  | 0x252 => some (.vrcps p)
  | 0x253 => some (.vrsqs p)
  | 0x254 => some (.vexp2 p)
  | 0x301 => some (.vmadm p)
  | 0x302 => some (.vmsbm p)
  | 0x303 => some (.vmulm p)
  | 0x304 => some (.vmulmc p)
  | 0x305 => some (.vbfly p)
  | 0x306 => some (.vibfly p)
  | 0x307 => some (.vperm p)
  | 0x308 => some (.vmred p)
  | 0x309 => some (.vmcent p)
  | 0x30a => some (.vmodset p)
  | 0x30b => some (.vmodget p)
  | 0x340 => some (.xperm p)
  | 0x341 => some (.xbcast p)
  | 0x342 => some (.xrot p)
  | 0x343 => some (.xzip p)
  | 0x344 => some (.xunzip p)
  | 0x345 => some (.xtrn p)
  | _ => none

/-- The copy of a COPYOP (R39); SPEC[0] of CPLIN selects the overlay form (R346). -/
def ofCp (cop : Nat) (p : Cp) : Option Instr :=
  match cop with
  | 0x2 => some (.cpstr p)
  | 0x3 => some (.cpgath p)
  | 0x4 => some (.cpconv p)
  | 0x5 => some (.cpver p)
  | 0x6 => some (.cpcomp p)
  | 0x7 => some (.cpst p)
  | 0x8 => some (.cpsts p)
  | 0x9 => some (.cpbank p)
  | 0xa => some (.cpwb p)
  | 0xb => some (.cpdisc p)
  | 0xc => some (.cppref p)
  | 0xd => some (.cpcoll p)
  | 0x1 => some (if p.spec.getLsbD 0 then .cplinCode p else .cplin p)
  | _ => none

/-- The micro-op of a MOP (R41). -/
def ofUop (mop : Nat) (u : Uop) : Option Instr :=
  match mop with
  | 0x1 => some (.mzero u)
  | 0x2 => some (.mlda u)
  | 0x3 => some (.mldb u)
  | 0x4 => some (.mmac u)
  | 0x5 => some (.mpromo u)
  | 0x6 => some (.macc u)
  | 0x7 => some (.mout u)
  | 0x8 => some (.mwbl u)
  | 0x9 => some (.msetk u)
  | 0xa => some (.mloop u)
  | 0xb => some (.mend u)
  | 0xc => some (.mbr u)
  | 0xd => some (.mret u)
  | _ => none

/-- The guard predicate of a part or control operation (R14, R17, R19, R20). -/
def guardOf (i : Instr) : BitVec 4 :=
  match view i with
  | .ctl _ g _ => g
  | .op _ p => p.guard
  | .mx g _ _ _ => g
  | .cp _ _ p => p.guard
  | .uop _ _ => 0
  | .step => 0

/-- The AR bit of a part; a control field has none (R17, R19, R20). -/
def arOf (i : Instr) : Bool :=
  match view i with
  | .ctl _ _ _ => false
  | .op _ p => p.ar
  | .mx _ ar _ _ => ar
  | .cp _ _ p => p.ar
  | .uop _ _ => false
  | .step => false

/-- Parts as ECAUSE.PART numbers them (R303): 0 control field, 1 SC, 2 VA, 3 VB, 4 XB, 5 MX, 6 CP. -/
def partNo (i : Instr) : Nat :=
  match view i with
  | .ctl _ _ _ => 0
  | .op _ p => match p.slot with
    | .sc => 1
    | .va => 2
    | .vb => 3
    | .xb => 4
  | .mx _ _ _ _ => 5
  | .cp _ _ _ => 6
  | .uop _ _ => 5
  | .step => 0

/-- Is this a part or control field of a bundle? -/
def isPart (i : Instr) : Bool :=
  match view i with
  | .uop _ _ => false
  | .step => false
  | _ => true

end Sys2Proof.Machine
end

