-- ==== Sys2Proof/Machine/Encoding.lean ====
section
/-! DEFINITION. The encoding checks of R43: which values of its fields each opcode accepts (R17 to R32 and the
entries of every instruction), as far as they follow from the encoding alone. -/
namespace Sys2Proof

/-- Kind tag of a descriptor (R30). -/
def Desc.kind (d : Desc) : Nat :=
  match d with
  | .queue .. => 0
  | .vreg .. => 1
  | .sreg .. => 2
  | .cbank .. => 3
  | .lit .. => 3

/-- The all-zero descriptor. -/
def Desc.zero : Desc := .queue 0 0 false

/-- Is the operand a queue? -/
def Desc.isQueue (d : Desc) : Bool := d.kind == 0

end Sys2Proof

namespace Sys2Proof.Machine
open Sys2Proof

/-- What an entry says of one descriptor field: unused and zero, required, or optional with zero for "none" (R28). -/
inductive Opnd where
  | none
  | req (kinds : List Nat)
  | opt (kinds : List Nat)
  deriving DecidableEq, Repr

/-- What an entry says of the fields of its control word (R28). `rnd` and `sat` say whether the field is used. -/
structure OpInfo where
  ety : List Nat
  s1 : Opnd
  s2 : Opnd
  s3 : Opnd
  d : Opnd
  rnd : Bool
  sat : Bool
  pdst : Bool
  mksel : Bool
  deriving DecidableEq, Repr

/-- Scalar source kinds (R122), every source kind (R183), all but a queue, and vector destinations. -/
def kS : List Nat := [2, 3]
def kA : List Nat := [0, 1, 2, 3]
def kN : List Nat := [1, 2, 3]
def kD : List Nat := [0, 1]

/-- An entry with only its element types and operands. -/
def info (ety : List Nat) (s1 s2 s3 d : Opnd) : OpInfo := ⟨ety, s1, s2, s3, d, false, false, false, false⟩

/-- The entry of scalar opcodes (R68, R69, R122, R124, R125, R127, R241). -/
def scalarInfo (o : Nat) : OpInfo :=
  if o = 0x15 ∨ o = 0x17 ∨ o = 0x18 then info [5, 4] (.req kS) .none .none (.req [2])
  else if o = 0x1A then info [5, 4] (.req kS) (.req kS) (.req kS) (.req [2])
  else if o ≤ 0x1A then { info [5, 4] (.req kS) (.req kS) .none (.req [2]) with sat := decide (o ≤ 3) }
  else if o ≤ 0x25 then { info [5, 4] (.req kS) (.req kS) .none .none with pdst := true }
  else if o ≤ 0x2C then { info [0] .none .none .none .none with pdst := true }
  else if o = 0x30 then info [5] (.req kS) (.req kS) (.opt kS) (.req [2])
  else if o = 0x31 then info [5] (.req kS) .none .none .none
  else if o = 0x32 then info [5] .none .none .none (.req [2])
  else if o = 0x40 ∨ o = 0x42 then info [1, 2, 3, 4, 5] (.req [2]) (.req kS) .none (.req [2])
  else if o = 0x41 ∨ o = 0x43 then info [1, 2, 3, 4, 5] (.req [2]) (.req kS) (.req kS) .none
  else if o = 0x50 then info [0] .none .none .none (.req [2])
  else if o ≤ 0x53 then info [0] (.req kS) .none .none (.opt [2])
  else if o ≤ 0x67 then info [4, 5] (.req [2]) (.req kS) (.req kS) (.req [2])
  else if o = 0x68 then info [0, 4, 5] (.req [2]) (.req kS) (.req kS) (.req [2])
  else if o = 0x69 then { info [0, 4, 5] (.req [2]) (.req kS) (.req kS) (.req [2]) with pdst := true }
  else if o = 0x6A then info [0, 4, 5] (.req [2]) (.req kS) .none (.req [2])
  else info [0, 4, 5] (.req [2]) (.req kS) (.req kS) .none

/-- The entry of vector integer opcodes (R185 to R188, R191). -/
def vintInfo (o : Nat) : OpInfo :=
  let ints := [0, 1, 2, 3, 4, 5]
  if o = 0x110 ∨ o = 0x111 ∨ o = 0x112 then
    { info ints (.req kA) .none .none (.req kD) with sat := decide (o ≠ 0x112) }
  else if o = 0x113 then info ints (.req kA) (.req kA) (.req kA) (.req kD)
  else if o = 0x114 then { info ints (.req kA) (.req kA) (.req kA) (.req kD) with sat := true }
  else if o ≤ 0x10F then { info ints (.req kA) (.req kA) .none (.req kD) with sat := decide (o ≤ 0x103) }
  else if o ≤ 0x125 then { info ints (.req kA) (.req kA) .none (.req kD) with pdst := true }
  else if o ≤ 0x134 then { info ints (.req kA) (.opt kN) .none (.req [1, 2]) with sat := decide (o = 0x130) }
  else if o ≤ 0x141 then info [0, 1, 2, 3, 4, 5, 6, 7, 8, 9] (.req kA) (.req kA) .none (.req kD)
  else if o = 0x142 then info ints (.req kA) .none .none (.req [2])
  else if o = 0x143 then info ints (.req kA) .none .none (.req kD)
  else if o = 0x150 then { info [0, 1, 2, 3] (.req kA) (.req kA) (.opt kN) (.req kD) with rnd := true, sat := true }
  else info [0, 1] (.req kA) (.req kA) .none (.req kD)

/-- The entry of vector float opcodes (R186, R187, R189 to R192). -/
def vfloatInfo (o : Nat) : OpInfo :=
  let fl := [0, 6, 7, 8]
  if o = 0x209 ∨ o = 0x20A then { info fl (.req kA) .none .none (.req kD) with rnd := true, sat := true }
  else if o = 0x204 ∨ o = 0x205 ∨ o = 0x206 then
    { info fl (.req kA) (.req kA) (.req kA) (.req kD) with rnd := true, sat := true }
  else if o ≤ 0x208 then { info fl (.req kA) (.req kA) .none (.req kD) with rnd := true, sat := true }
  else if o ≤ 0x223 then { info fl (.req kA) (.req kA) .none (.req kD) with pdst := true }
  else if o ≤ 0x232 then
    { info fl (.req kA) (.opt kN) .none (.req [1, 2]) with rnd := decide (o = 0x230), sat := decide (o = 0x230) }
  else if o = 0x240 then
    { info [0, 1, 2, 3, 4, 5, 6, 7, 8, 9, 10] (.req kA) .none .none (.req kD) with rnd := true, sat := true }
  else if o = 0x241 then { info fl (.req kA) .none .none (.req kD) with rnd := true }
  else if o = 0x242 then
    { info [0, 1, 2, 3, 6, 7, 9, 10] (.req kA) (.req kA) (.opt kN) (.req kD) with rnd := true, sat := true }
  else if o = 0x252 ∨ o = 0x253 then info [0, 8] (.req kA) (.req kA) .none (.req kD)
  else info [0, 8] (.req kA) .none .none (.req kD)

/-- The entry of modular, crossbar and system opcodes (R200 to R205, R193, R194, R101, R226, R177, R264, R274). -/
def sysInfo (o : Nat) : OpInfo :=
  if o ≤ 0x303 ∨ o = 0x305 ∨ o = 0x306 then { info [0, 11] (.req kA) (.req kA) .none (.req kD) with mksel := true }
  else if o = 0x304 then { info [0, 11] (.req kA) (.req kA) (.req kA) (.req kD) with mksel := true }
  else if o = 0x307 then info [0, 5, 11] (.req kA) .none .none (.req kD)
  else if o = 0x308 then { info [11] (.req kA) .none .none (.req kD) with mksel := true }
  else if o = 0x309 then { info [5] (.req kA) .none .none (.req kD) with mksel := true }
  else if o = 0x30A then { info [11] (.req kN) (.opt kN) .none .none with mksel := true }
  else if o = 0x30B then { info [11] .none .none .none (.req [1, 2]) with mksel := true }
  else if o ≤ 0x345 then
    let e := [0, 1, 2, 3, 4, 5, 6, 7, 8, 9, 11]
    if o = 0x340 then info e (.req kA) (.req [3]) (.opt kN) (.req kD)
    else if o = 0x342 then info e (.req kA) (.opt [2]) .none (.req kD)
    else if o = 0x343 ∨ o = 0x344 then info e (.req kA) (.req kA) .none (.req kD)
    else info e (.req kA) .none .none (.req kD)
  else if o = 0x360 then { info [0] (.req kS) (.opt kS) .none (.opt [2]) with pdst := true }
  else if o = 0x362 then info [0] (.req kS) .none .none .none
  else if o = 0x36A then info [0] (.opt kS) .none .none (.opt [2])
  else if o = 0x363 ∨ o = 0x365 ∨ o = 0x368 ∨ o = 0x369 then
    { info [0] (.req kS) .none .none (.opt [2]) with pdst := true }
  else if o ≤ 0x36A ∨ o = 0x380 then { info [0] .none .none .none (.opt [2]) with pdst := true }
  else if o = 0x383 then { info [0] (.req kS) (.req kS) (.req kS) (.opt [2]) with pdst := true }
  else if o = 0x385 then { info [0] (.req kS) (.req kS) (.opt kS) (.opt [2]) with pdst := true }
  else if o ≤ 0x385 ∨ o = 0x390 ∨ o = 0x3B0 then { info [0] (.req kS) .none .none (.opt [2]) with pdst := true }
  else if o = 0x3A0 then { info [0] (.req kS) (.req kS) .none (.opt [2]) with pdst := true }
  else { info [0] .none .none .none (.opt [2]) with pdst := true }

/-- The entry of an opcode. -/
def opInfo (o : Nat) : OpInfo :=
  if o < 0x100 then scalarInfo o else if o < 0x200 then vintInfo o else if o < 0x300 then vfloatInfo o else sysInfo o

/-- Does a slot accept an opcode (R21)? -/
def slotTakes (sl : Slot) (o : Nat) : Bool :=
  match sl with
  | .sc => decide (o < 0x100 ∨ 0x360 ≤ o)
  | .va => decide (0x100 ≤ o ∧ o < 0x340)
  | .vb => decide (0x100 ≤ o ∧ o < 0x340)
  | .xb => decide (0x340 ≤ o ∧ o < 0x360)

/-- The width in bits of a part: 64 in SC, 256, 512 or 1,024 in the vector and crossbar slots (R17, R31). -/
def partWidth (p : Part) : Nat := if p.slot = .sc then 64 else 256 * 2 ^ p.width.toNat

/-- A descriptor that its entry uses, or `none` where it is unused or left out. -/
def Opnd.pick (u : Opnd) (d : Desc) : Option Desc :=
  match u with
  | .none => .none
  | .req _ => some d
  | .opt _ => if d = Desc.zero then .none else some d

/-- The descriptor field obeys its entry (R28). -/
def Opnd.ok (u : Opnd) (d : Desc) : Bool :=
  match u with
  | .none => decide (d = Desc.zero)
  | .req ks => ks.contains d.kind
  | .opt ks => decide (d = Desc.zero) || ks.contains d.kind

/-- The sources an operation reads, in the order SRC1, SRC2, SRC3. -/
def sources (o : Nat) (p : Part) : List Desc :=
  [(opInfo o).s1.pick p.cw.src1, (opInfo o).s2.pick p.cw.src2, (opInfo o).s3.pick p.cw.src3].filterMap id

/-- The destination an operation writes. -/
def destOf (o : Nat) (p : Part) : Option Desc := (opInfo o).d.pick p.cw.dst

/-- A tile operation has a queue operand (R179); scalar and system operations never do. -/
def isTile (o : Nat) (p : Part) : Bool :=
  (sources o p).any Desc.isQueue || ((destOf o p).any Desc.isQueue)

/-- Bits of the container an operation acts on (R183). -/
def container (o : Nat) (p : Part) : Nat := if isTile o p then 32768 else partWidth p

/-- The constant-bank operand of a part is aligned and inside the bank (R31); a crossbar pattern has its own rule (R194). -/
def constOk (w : Nat) (d : Desc) : Bool :=
  match d with
  | .cbank b => decide (b.toNat % Nat.min (w / 8) 32 = 0 ∧ b.toNat + w / 8 ≤ 4096)
  | _ => true

/-- Byte `i` of a literal crossbar pattern, LIT1 holding bytes 0 to 7 (R194). -/
def litPattern (c : Cw) (i : Nat) : Nat := elemAt (c.lit0.toNat * 2 ^ 64 + c.lit1.toNat) i 8

/-- The checks of R193 and R194 that need the element count `n` and no constant-bank contents: XBCAST's index,
XTRN's rows, a literal pattern's length and destinations. -/
def xbCountOk (o : Nat) (c : Cw) (n : Nat) : Bool :=
  if o = 0x341 then decide (c.aux.toNat < n)
  else if o = 0x345 then decide (2 ^ c.aux.toNat ≤ n)
  else if o = 0x340 then
    match c.src2 with
    | .lit _ => decide (n ≤ 16) &&
        (List.range n).all (fun i => bitAt (litPattern c i) 7 || decide (bitsOf (litPattern c i) 6 0 < n))
    | _ => true
  else true

/-- The destination and source format of a conversion with both codes explicit: the PART check of R190. -/
def vcvtPartOk (cBits ed es part : Nat) : Bool := decide (part * (cBits / ed) < cBits / es)

/-- What an opcode's entry says of AUX, and of fields taken together. -/
def extraOk (o : Nat) (p : Part) : Bool :=
  let c := p.cw
  let a := c.aux.toNat
  if o = 0x16 then decide (a < 16)
  else if o = 0x19 then decide (a < 2)
  else if o < 0x20 then a == 0
  else if o < 0x28 then decide (a < 3)
  else if o = 0x2C then decide (a % 16 = 0)
  else if o < 0x2C then true
  else if o < 0x40 then decide (a < 8)
  else if o < 0x44 then decide (a = 0 ∨ a = 1 ∧ (o = 0x40 ∨ o = 0x42) ∧ (c.etype = 3 ∨ c.etype = 4))
  else if o < 0x54 then true
  else if o < 0x6C then
    let ord := a % 4
    let pair := fun (d : Desc) (src : Bool) => match d with
      | .sreg r => decide (r.toNat % 2 = 0) && (!src || decide (r ≠ 0))
      | _ => false
    decide (a < 24) &&
    (decide (o ≠ 0x6A) || decide (ord ≤ 1)) && (decide (o ≠ 0x6B) || decide (ord = 0 ∨ ord = 2)) &&
    (decide (c.etype ≠ 0) ||
      ((decide (o = 0x6A) || pair c.src3 true) && (decide (o ≠ 0x69) || pair c.src2 true) &&
       (decide (o = 0x6B) || pair c.dst false)))
  else if 0x120 ≤ o ∧ o ≤ 0x125 ∨ 0x220 ≤ o ∧ o ≤ 0x223 then decide (a < 2)
  else if o = 0x142 then decide (a < 3)
  else if o = 0x150 ∨ o = 0x151 then decide (a < 64)
  else if o = 0x240 then
    decide (a % 16 ≤ 10) && decide (a < 128) &&
    (match Fmt.ofCode c.etype.toNat, Fmt.ofCode (a % 16) with
     | some fd, some fs => decide (fd = .raw ∨ fs = .raw) ||
         vcvtPartOk (container o p) fd.width fs.width (a / 16)
     | _, _ => true)
  else if o < 0x307 then a == 0
  else if o = 0x307 then
    let s := a / 4
    decide (a % 4 ≠ 3) && decide (a < 64) && decide (2 ^ s < container o p / 64) &&
    (decide (a % 4 ≠ 2) || decide (s = 0))
  else if o = 0x308 then decide (a < 2)
  else if o = 0x309 then a == 0
  else if o = 0x30A then
    (a == 0 && decide (c.src2 ≠ Desc.zero)) || (a == 1 && decide (c.src2 = Desc.zero))
  else if o = 0x30B then decide (a < 32) && (decide (c.dst.kind = 2) || decide (a < 2))
  else if o = 0x340 then
    a == 0 &&
    (match c.src2 with
     | .lit _ => (List.range 16).all (fun i => !bitAt (litPattern c i) 7 || bitsOf (litPattern c i) 6 0 == 0)
     | .cbank b => decide (b.toNat % 16 = 0)
     | _ => true)
  else if o = 0x341 then decide (a < 128)
  else if o = 0x342 then decide (a < 128) && (decide (c.src2 = Desc.zero) || a == 0)
  else if o = 0x343 ∨ o = 0x344 then decide (a < 2)
  else if o = 0x345 then decide (a < 8)
  else if o = 0x360 then decide (a < 16) && (decide (a < 8) == decide (c.src2 ≠ Desc.zero))
  else if o = 0x369 then decide (a < 16)
  else if o = 0x36A then decide (a < 24) && (decide (8 ≤ a ∧ a < 16) == decide (c.src1 ≠ Desc.zero))
  else if o < 0x370 then decide (a < 8)
  else if o = 0x384 then decide (a < 4)
  else if o = 0x3A0 then decide (a < 4)
  else if o = 0x3A1 then decide (a % 8 < 4 ∧ a < 24)
  else a == 0

/-- First and last numbers of the runs of assigned CSRs. -/
def csrRanges : List (Nat × Nat) :=
  [(0x00, 0x01), (0x40, 0x5C), (0x60, 0x74), (0x78, 0x79), (0x80, 0x98), (0xA0, 0xAB), (0xB0, 0xBB), (0xC0, 0xC3),
   (0xD0, 0xD3), (0xD8, 0xDA), (0xE0, 0xE5), (0xF0, 0xF9)]

/-- The CSR numbers that a map of the spec assigns (R67, R114, R116, R118, R119, R128, R178, R195, R207, R229, R247,
R257, R263, R279, R303, R338, and the copy counters). -/
def csrAssigned (n : Nat) : Bool :=
  csrRanges.any (fun r => decide (r.1 ≤ n ∧ n ≤ r.2))

/-- A control word's fields obey its opcode's entry: R26 to R32 as far as the encoding alone decides. -/
def cwOk (o : Nat) (p : Part) : Bool :=
  let c := p.cw
  let u := opInfo o
  let w := partWidth p
  slotTakes p.slot o &&
  decide (p.width ≠ 3) && (decide (p.slot ≠ .sc) || decide (p.width = 0)) &&
  u.ety.contains c.etype.toNat &&
  (if u.rnd then decide (c.rnd.toNat ≤ 5) || (decide (c.rnd = 6) && decide (c.dst.kind = 0)) else decide (c.rnd = 0)) &&
  (if u.sat then decide (c.sat.toNat ≤ 1) || (decide (c.sat = 2) && decide (c.dst.kind = 0)) else decide (c.sat = 0)) &&
  u.s1.ok c.src1 && u.s2.ok c.src2 && u.s3.ok c.src3 && u.d.ok c.dst &&
  (u.pdst || decide (c.pdst = 0)) && (u.mksel || decide (c.mksel = 0)) &&
  constOk w c.src1 && (decide (o = 0x340) || constOk w c.src2) && constOk w c.src3 &&
  (match destOf o p with
   | some (.queue _ k l) => decide (k = 0) && !l
   | _ => true) &&
  (decide (o < 0x100 ∨ 0x360 ≤ o) || decide (0x130 ≤ o ∧ o ≤ 0x134) || decide (0x230 ≤ o ∧ o ≤ 0x232) ||
    decide (o = 0x142) || !(sources o p).any Desc.isQueue || (destOf o p).all Desc.isQueue) &&
  extraOk o p &&
  (decide (o < 0x50 ∨ 0x53 < o) || csrAssigned c.aux.toNat) &&
  (decide (o < 0x340 ∨ 0x345 < o) || decide (c.etype = 0) ||
    (match Fmt.ofCode c.etype.toNat with
     | some f => xbCountOk o c (w / f.width)
     | none => false))

/-- The zero-fields and value ranges of CIMM (R22, R24): an offset of LOOP is not 0, a DBAR level is 1 to 5, a FENCE
scope at most 5. -/
def ctlOk (cop x : Nat) : Bool :=
  if cop = 0 ∨ cop = 4 ∨ cop = 6 ∨ cop = 9 ∨ cop = 10 ∨ cop = 14 ∨ cop = 16 then x == 0
  else if cop = 2 ∨ cop = 12 then decide (x < 64)
  else if cop = 5 then decide (64 ≤ x)
  else if cop = 11 then decide (1 ≤ x ∧ x ≤ 5)
  else if cop = 13 then decide (x ≤ 5)
  else if cop = 15 then decide (x < 256)
  else if cop = 17 then decide (x < 2 ^ 14)
  else decide (cop ≤ 17)

/-- What each copy says of its fields (R20, R38, R212, R219, R346): the kinds DEST may have, whether LENREG and
AUXREG are used, the SPEC codes, and whether POLICY is used. -/
def cpOk (cop : Nat) (code : Bool) (p : Cp) : Bool :=
  let tileIn := match p.dest with
    | .queue _ k l => decide (k = 0) && !l
    | _ => false
  let tileOut := decide (p.dest.kind = 0)
  let noAux := decide (p.auxReg = 0)
  decide (p.seq.toNat ≤ 1) && decide (p.policy.toNat ≤ 3) &&
  (if cop = 1 then noAux && (if code then decide (p.spec = 1) && decide (p.dest.kind = 2) else decide (p.spec = 0) && tileIn)
   else if cop = 2 ∨ cop = 3 ∨ cop = 4 ∨ cop = 6 then decide (p.spec = 0) && tileIn
   else if cop = 5 ∨ cop = 8 then decide (p.spec = 0) && tileOut
   else if cop = 7 then noAux && decide (p.spec = 0) && tileOut
   else if cop = 9 then noAux && decide (p.spec = 0) && tileIn
   else if cop = 10 then noAux && decide (p.spec.toNat ≤ 1) && decide (p.dest = Desc.zero) && decide (p.policy = 0)
   else if cop = 11 then noAux && decide (p.spec = 0) && decide (p.dest = Desc.zero) && decide (p.policy = 0)
   else if cop = 12 then noAux && decide (p.spec.toNat ≤ 1) && decide (p.dest = Desc.zero) && decide (p.policy = 0)
   else decide (cop = 13) && noAux && decide (p.spec = 0) && (tileIn || decide (p.dest = Desc.zero)))

/-- The fields a micro-op uses, and the FLAGS and IMM values it refuses (R41, R168 to R170). -/
def uopOk (mop : Nat) (u : Uop) : Bool :=
  let z (b : Bool) : Bool := b
  let pa0 := z (decide (u.pa = 0))
  let pb0 := z (decide (u.pb = 0))
  let pc0 := z (decide (u.pc = 0))
  let f0 := z (decide (u.flags = 0))
  let f1 := z (decide (u.flags.toNat ≤ 1))
  let i0 := z (decide (u.imm = 0))
  if mop = 1 ∨ mop = 5 then pb0 && pc0 && f0 && i0
  else if mop = 2 then pb0 && pc0 && f1 && i0
  else if mop = 3 then pb0 && pc0 && decide (u.flags.toNat % 4 ≠ 3) && i0
  else if mop = 4 then pc0 && f0 && i0
  else if mop = 6 then pc0 && f1 && i0
  else if mop = 7 then f0 && i0
  else if mop = 8 then pc0 && f1 && i0
  else if mop = 9 then pb0 && pc0 && f1 && (if u.flags = 0 then pa0 && decide (u.imm.toNat < 65536) else i0)
  else if mop = 10 then pa0 && pb0 && pc0 && f0 && decide (1 ≤ u.imm.toNat ∧ u.imm.toNat < 65536)
  else if mop = 11 then pa0 && pb0 && pc0 && f0 && decide (u.imm.toNat < 4096)
  else if mop = 12 then pb0 && pc0 && decide (u.flags.toNat ≤ 3) && decide (u.imm.toNat < 4096)
  else decide (mop = 13) && pa0 && pb0 && pc0 && f0 && i0

/-- Why an encoding is refused (R43, checks 1 and 2; R42 for a micro-op word). -/
inductive EncErr where
  | illBundle | illSlot | badWord
  deriving DecidableEq, Repr

/-- The encoding checks of one part or micro-op. -/
def encErr (i : Instr) : Option EncErr :=
  match view i with
  | .ctl cop _ x => if ctlOk cop x then none else some .illBundle
  | .op o p => if cwOk o p then none else some .illSlot
  | .mx _ _ _ _ => none
  | .cp cop code p => if cpOk cop code p then none else some .illSlot
  | .uop mop u => if uopOk mop u then none else some .badWord
  | .step => none

end Sys2Proof.Machine

namespace Sys2Proof.Machine
open Sys2Proof

/-- The packet fields of R284 and R285 beside the zero bits: alignments and ranges; and, for the other steps, that the
core, context, cluster, die, port, queue or barrier they name exists (R3, R4, R60, R224). -/
def stepOk (i : Instr) : Bool :=
  let al8 := fun (a : W64) => decide (a.toNat % 8 = 0)
  let va := fun (a : W64) => decide (a.toNat < 2 ^ 56)
  let cx := fun (c x : Nat) => decide (c < 640 ∧ x < 4)
  match i with
  | .launchPkt _ d s _ => va d && decide (d.toNat % 256 = 0) && al8 s && va s
  | .graphPkt _ d s _ => va d && al8 s && va s
  | .writePkt _ d n v0 v1 v2 v3 => al8 d && va d && decide (1 ≤ n.toNat ∧ n.toNat ≤ 4) &&
      (decide (2 ≤ n.toNat) || decide (v1 = 0)) && (decide (3 ≤ n.toNat) || decide (v2 = 0)) &&
      (decide (4 ≤ n.toNat) || decide (v3 = 0)) && decide (v0 = v0)
  | .waitmemPkt _ a _ _ _ _ => al8 a && va a
  | .pktLoop _ b _ => decide (1 ≤ b.toNat ∧ b.toNat ≤ 32)
  | .indirectPkt _ b n => decide (b.toNat % 64 = 0) && va b && decide (1 ≤ n.toNat ∧ n.toNat ≤ 4096)
  | .signalPkt _ a _ _ _ _ => al8 a && va a
  | .nullifierSkip c x => cx c x
  | .bundleUnblock c x => cx c x
  | .fenceComplete c x => cx c x
  | .ifenceComplete c x => cx c x
  | .dbarRelease c x => cx c x
  | .haltDrained c x => cx c x
  | .launchEndCore c => decide (c < 640)
  | .dividerComplete c => decide (c < 640)
  | .loadComplete c x => cx c x
  | .storePerform c _ => decide (c < 640)
  | .atomicComplete c x => cx c x
  | .fillLand c _ => decide (c < 640)
  | .readComplete c x q p => cx c x && decide (q < 8 ∧ p < 512)
  | .spliceAppendArrive c _ => decide (c < 640)
  | .headAdvertise c _ => decide (c < 640)
  | .freezeRequest c _ => decide (c < 640)
  | .freezeMarker c _ => decide (c < 640)
  | .freezeAck c _ => decide (c < 640)
  | .thawHandshake c _ => decide (c < 640)
  | .spliceRequest c _ => decide (c < 640)
  | .unspliceRequest c _ => decide (c < 640)
  | .thawReply c _ => decide (c < 640)
  | .barrierArrive c _ => decide (c < 640)
  | .barrierFree c b => decide (c < 640 ∧ b < 64)
  | .rlcStep k => decide (k < 40)
  | .vbSplitStart c _ => decide (c < 640)
  | .vectorPartComplete c _ => decide (c < 640)
  | .routineStart c => decide (c < 640)
  | .stageFetchDone c _ => decide (c < 640)
  | .routineRetire c _ => decide (c < 640)
  | .copyStart c _ => decide (c < 640)
  | .copyLand c _ => decide (c < 640)
  | .cpverCommit c _ => decide (c < 640)
  | .ephStallPass c x => cx c x
  | .portGrant d p => decide (d < 4 ∧ p < 17)
  | .trapEnter c x => cx c x
  | .fatalFault c => decide (c < 640)
  | .softerr p c n => match p with
    | .queueSlot => decide (c < 640 ∧ n < 2 ^ 20)
    | .memLine => decide (c < 640)
    | .vreg => decide (c < 640 ∧ n < 640)
    | .acc => decide (c < 640 ∧ n < 16)
    | .aStage => decide (c < 640 ∧ n < 2)
    | .wblock => decide (c < 640 ∧ n < 64)
    | .micro => decide (c < 640 ∧ n < 4096)
    | .spadBytes => decide (c < 640 ∧ n < 2 ^ 20)
    | .other => cx c n
  | .scrubDie d => decide (d < 4)
  | .preemptSave c => decide (c < 640)
  | .saveAreaCheck c => decide (c < 640)
  | .hostApertureRead _ _ _ n => decide (n ≤ 4096)
  | .hostApertureWrite _ _ _ d => decide (d.length ≤ 4096)
  | .remoteRequest _ _ _ r => match r with
    | .read n => decide (n ≤ 4096)
    | .write d => decide (d.length ≤ 4096)
    | .amo o n _ _ => decide (o.toNat ≤ 11 ∧ (n = 4 ∨ n = 8 ∨ n = 16))
    | .merged o _ n _ => decide (o.toNat ≤ 7 ∧ (n = 4 ∨ n = 8))
    | .contribution _ o _ c x => decide (o.toNat ≤ 7) && cx c x
  | _ => true

end Sys2Proof.Machine
end

