-- ==== Sys2Proof/WellFormed.lean ====
section
/-! DEFINITION. Well-formed instructions: those whose fields pass every encoding check of the spec. -/
namespace Sys2Proof

/-- The encoding checks of R43 pass, a micro-op word passes R42, a packet R284, and the units a step of the device
names exist. -/
def wellFormed (i : Instr) : Bool := (Machine.encErr i).isNone && Machine.stepOk i

end Sys2Proof
end

