-- ==== Sys2Proof/Decode.lean ====
section
/-! DEFINITION. From bits to instructions and back (R13 to R42, R284). Fields are cut out of a word by a list of
their widths, lowest field first, which is the spec's own table read upwards. -/
namespace Sys2Proof
open Machine

/-- The fields of a word, lowest first, by their widths. -/
def unpack : List Nat → Nat → List Nat
  | [], _ => []
  | w :: ws, x => x % 2 ^ w :: unpack ws (x / 2 ^ w)

/-- The word of some fields, lowest first, each with its width. -/
def pack : List (Nat × Nat) → Nat
  | [] => 0
  | f :: t => f.2 % 2 ^ f.1 + 2 ^ f.1 * pack t

/-- The header parcel (R14): VA, SC, CIMM, COP, CGUARD, TEMPLATE. -/
def headerLayout : List Nat := [16, 16, 19, 5, 4, 4]
/-- Parcel X (R16): MX, XB, VB. -/
def xLayout : List Nat := [32, 16, 16]
/-- The 16-bit slot form (R17): INDEX, WIDTH, AR, GUARD. -/
def slotLayout : List Nat := [9, 2, 1, 4]
/-- The matrix slot (R19): IMM, ROUTINE, VALID, AR, GUARD. -/
def mxLayout : List Nat := [18, 8, 1, 1, 4]
/-- The copy slot (R20, R38): SPEC, POLICY, SEQ, BARREG, DEST, AUXREG, LENREG, ADDRREG, COPYOP, VALID, AR, GUARD. -/
def cpLayout : List Nat := [5, 3, 2, 6, 18, 6, 6, 6, 6, 1, 1, 4]
/-- The control word (R25): LIT1, LIT0, reserved, AUX, MKSEL, PDST, DST, SRC3, SRC2, SRC1, SAT, RND, ETYPE, OPC. -/
def cwLayout : List Nat := [64, 64, 22, 8, 3, 4, 18, 18, 18, 18, 2, 3, 4, 10]
/-- The micro-op word (R40): IMM, reserved, FLAGS, PC, PB, PA, MOP. -/
def uopLayout : List Nat := [32, 13, 4, 3, 3, 3, 6]
/-- Word 0 of a packet (R284): TYPE, BAR, zero, TAG, zero. -/
def pktLayout : List Nat := [8, 1, 7, 16, 32]

/-- A descriptor (R30); `none` where a reserved bit is set. -/
def decodeDesc (x : Nat) : Option Desc :=
  match unpack [16, 2] x with
  | [y, 0] => match unpack [8, 1, 4, 3] y with
    | [0, l, k, q] => some (.queue (.ofNat 3 q) (.ofNat 4 k) (l == 1))
    | _ => none
  | [y, 1] => if y < 1024 then some (.vreg (.ofNat 10 y)) else none
  | [y, 2] => if y < 64 then some (.sreg (.ofNat 6 y)) else none
  | [y, 3] =>
    if y < 4096 then some (.cbank (.ofNat 12 y))
    else if y = 0x8000 then some (.lit false)
    else if y = 0x8001 then some (.lit true)
    else none
  | _ => none

/-- The 18 bits of a descriptor (R30). -/
def encodeDesc (d : Desc) : Nat :=
  match d with
  | .queue q k l => pack [(8, 0), (1, b2n l), (4, k.toNat), (3, q.toNat), (2, 0)]
  | .vreg r => pack [(16, r.toNat), (2, 1)]
  | .sreg r => pack [(16, r.toNat), (2, 2)]
  | .cbank b => pack [(16, b.toNat), (2, 3)]
  | .lit s => pack [(16, 0x8000 + b2n s), (2, 3)]

/-- A control word's opcode and fields (R25); `none` where a reserved bit is set. -/
def decodeCw (x : Nat) : Option (Nat × Cw) :=
  match unpack cwLayout x with
  | [l1, l0, 0, aux, mk, pd, d, s3, s2, s1, sat, rnd, et, opc] =>
    match decodeDesc s1, decodeDesc s2, decodeDesc s3, decodeDesc d with
    | some s1, some s2, some s3, some d =>
      some (opc, ⟨.ofNat 4 et, .ofNat 3 rnd, .ofNat 2 sat, s1, s2, s3, d, .ofNat 4 pd, .ofNat 3 mk, .ofNat 8 aux,
        .ofNat 64 l0, .ofNat 64 l1⟩)
    | _, _, _, _ => none
  | _ => none

/-- The 256 bits of a control word (R25). -/
def encodeCw (opc : Nat) (c : Cw) : W256 :=
  .ofNat 256 (pack [(64, c.lit1.toNat), (64, c.lit0.toNat), (22, 0), (8, c.aux.toNat), (3, c.mksel.toNat),
    (4, c.pdst.toNat), (18, encodeDesc c.dst), (18, encodeDesc c.src3), (18, encodeDesc c.src2),
    (18, encodeDesc c.src1), (2, c.sat.toNat), (3, c.rnd.toNat), (4, c.etype.toNat), (10, opc)])

/-- An instruction kept if its encoding checks pass. -/
def checked (i : Instr) : Except EncErr (Option Instr) :=
  match encErr i with
  | none => .ok (some i)
  | some e => .error e

/-- The operation a 16-bit slot holds, with the control word its index names: `none` for an empty slot (R17, R21, R25). -/
def decodeSlot (sl : Slot) (w : BitVec 16) (cw : W256) : Except EncErr (Option Instr) :=
  match unpack slotLayout w.toNat with
  | [idx, 3, ar, g] => if idx = 0 ∧ ar = 0 ∧ g = 0 then .ok none else .error .illSlot
  | [idx, wd, ar, g] =>
    match decodeCw cw.toNat with
    | none => .error .illSlot
    | some (opc, c) =>
      match ofOp opc ⟨sl, .ofNat 4 g, ar == 1, .ofNat 2 wd, .ofNat 9 idx, c⟩ with
      | none => .error .illSlot
      | some i => checked i
  | _ => .error .illSlot

/-- The matrix slot (R19). -/
def decodeMx (w : BitVec 32) : Except EncErr (Option Instr) :=
  match unpack mxLayout w.toNat with
  | [imm, r, 1, ar, g] => checked (.mcall (.ofNat 4 g) (ar == 1) (.ofNat 8 r) (.ofNat 18 imm))
  | [0, 0, 0, 0, 0] => .ok none
  | _ => .error .illSlot

/-- The copy slot (R20). -/
def decodeCp (w : W64) : Except EncErr (Option Instr) :=
  match unpack cpLayout w.toNat with
  | [spec, pol, seq, bar, dest, aux, len, addr, cop, 1, ar, g] =>
    match decodeDesc dest with
    | none => .error .illSlot
    | some d =>
      match ofCp cop ⟨.ofNat 4 g, ar == 1, .ofNat 6 addr, .ofNat 6 len, .ofNat 6 aux, d, .ofNat 6 bar, .ofNat 2 seq,
          .ofNat 3 pol, .ofNat 5 spec⟩ with
      | none => .error .illSlot
      | some i => checked i
  | [0, 0, 0, 0, 0, 0, 0, 0, 0, 0, 0, 0] => .ok none
  | _ => .error .illSlot

/-- The control field of a header parcel (R22, R24). -/
def decodeCtl (hdr : W64) : Except EncErr (Option Instr) :=
  match unpack headerLayout hdr.toNat with
  | [_, _, cimm, cop, g, _] =>
    if ctlOk cop cimm then
      match ofCtl cop (.ofNat 4 g) cimm with
      | none => .error .illBundle
      | some i => checked i
    else .error .illBundle
  | _ => .error .illBundle

/-- A micro-op word (R40 to R42). -/
def decodeUop (w : W64) : Except EncErr (Option Instr) :=
  match unpack uopLayout w.toNat with
  | [imm, 0, fl, pc, pb, pa, mop] =>
    match ofUop mop ⟨.ofNat 3 pa, .ofNat 3 pb, .ofNat 3 pc, .ofNat 4 fl, .ofNat 32 imm⟩ with
    | none => .error .badWord
    | some i => checked i
  | _ => .error .badWord

/-- Parcels of a bundle by TEMPLATE; `none` for a reserved one (R15). -/
def parcelsOf (template : Nat) : Option Nat :=
  match template with
  | 0 => some 1
  | 1 => some 2
  | 2 => some 2
  | 3 => some 3
  | _ => none

/-- Parcels of the bundle a header parcel opens (R15). -/
def bundleParcels (hdr : W64) : Option Nat := parcelsOf (bitsOf hdr.toNat 63 60)

/-- A refused bundle: the check that failed and the part that failed it, as ECAUSE numbers parts (R43, R303). -/
structure DecErr where
  err : EncErr
  part : Nat
  deriving DecidableEq, Repr

/-- Parts decoded one after the other; the first error in their order names the trap (R43). -/
def decodeAll : List (Nat × Except EncErr (Option Instr)) → Except DecErr (List Instr)
  | [] => .ok []
  | (n, .error e) :: _ => .error ⟨e, n⟩
  | (_, .ok none) :: t => decodeAll t
  | (_, .ok (some i)) :: t =>
    match decodeAll t with
    | .ok l => .ok (i :: l)
    | .error e => .error e

/-- A whole bundle from its parcels, with the context's control-word table: its control operation and its non-empty
slots, in the order control field, SC, VA, VB, XB, MX, CP (R13 to R21). -/
def decodeBundle (parcels : List W64) (table : Nat → W256) : Except DecErr (List Instr) :=
  match parcels with
  | [] => .error ⟨.illBundle, 0⟩
  | hdr :: rest =>
    let s := fun (sl : Slot) (x : Nat) => decodeSlot sl (.ofNat 16 x) (table (x % 512))
    match unpack headerLayout hdr.toNat with
    | [va, sc, _, _, _, tpl] =>
      let head := [(0, decodeCtl hdr), (1, s .sc sc), (2, s .va va)]
      let xs := fun (x : W64) => match unpack xLayout x.toNat with
        | [mx, xb, vb] => [(3, s .vb vb), (4, s .xb xb), (5, decodeMx (.ofNat 32 mx))]
        | _ => []
      match tpl, rest with
      | 0, [] => decodeAll head
      | 1, [x] => decodeAll (head ++ xs x)
      | 2, [c] => decodeAll (head ++ [(6, decodeCp c)])
      | 3, [x, c] => decodeAll (head ++ xs x ++ [(6, decodeCp c)])
      | _, _ => .error ⟨.illBundle, 0⟩
    | _ => .error ⟨.illBundle, 0⟩

/-- Why a packet is refused: the codes of R286 that one packet's own bits decide. -/
inductive PktErr where
  | badType | badField
  deriving DecidableEq, Repr

/-- A packet from its eight words (R284). -/
def decodePkt (host : BitVec 1) (q : BitVec 6) (ws : List W64) : Except PktErr Instr :=
  match ws with
  | [w0, w1, w2, w3, w4, w5, w6, w7] =>
    match unpack pktLayout w0.toNat with
    | [ty, b, z0, tag, z1] =>
      let h : PktHdr := ⟨host, q, b == 1, .ofNat 16 tag⟩
      let zero := fun (l : List W64) => l.all (· == 0)
      let fin := fun (ok : Bool) (i : Instr) =>
        if z0 = 0 ∧ z1 = 0 ∧ ok = true ∧ stepOk i = true then Except.ok i else .error PktErr.badField
      match ty with
      | 0x0 => fin (zero [w1, w2, w3, w4, w5, w6, w7]) (.pktNop h)
      | 0x1 => fin (zero [w1, w2, w3, w4, w5, w6, w7]) (.beginBatch h)
      | 0x2 => fin (zero [w1, w2, w3, w4, w5, w6, w7]) (.commitBatch h)
      | 0x3 => fin (zero [w4, w5, w6, w7]) (.launchPkt h w1 w2 w3)
      | 0x4 => fin (zero [w4, w5, w6, w7]) (.graphPkt h w1 w2 w3)
      | 0x5 => fin (zero [w7] && decide (w2.toNat < 8)) (.writePkt h w1 (.ofNat 3 w2.toNat) w3 w4 w5 w6)
      | 0x6 => match unpack [2, 30, 32] w4.toNat with
        | [op, 0, tmo] => fin (zero [w5, w6, w7]) (.waitmemPkt h w1 w2 w3 (.ofNat 2 op) (.ofNat 32 tmo))
        | _ => .error .badField
      | 0x7 => fin (zero [w3, w4, w5, w6, w7] && decide (w1.toNat < 64 ∧ w2.toNat < 65536))
          (.pktLoop h (.ofNat 6 w1.toNat) (.ofNat 16 w2.toNat))
      | 0x8 => fin (zero [w3, w4, w5, w6, w7] && decide (w2.toNat < 8192)) (.indirectPkt h w1 (.ofNat 13 w2.toNat))
      | 0x9 => match unpack [1, 1, 6, 8, 48] w3.toNat with
        | [st, irq, 0, vec, 0] => fin (zero [w4, w5, w6, w7]) (.signalPkt h w1 w2 (st == 1) (irq == 1) (.ofNat 8 vec))
        | _ => .error .badField
      | 0xA => fin (zero [w1, w2, w3, w4, w5, w6, w7]) (.fetchFence h)
      | _ => .error .badType
    | _ => .error .badField
  | _ => .error .badField

/-- The words of an instruction where the hardware stores them. -/
inductive Words where
  | header (w : W64)
  | slot (sl : Slot) (w : BitVec 16) (cw : W256)
  | matrix (w : BitVec 32)
  | copy (w : W64)
  | micro (w : W64)
  | packet (host : BitVec 1) (q : BitVec 6) (ws : List W64)
  | none
  deriving DecidableEq, Repr

/-- The words of a packet (R284). -/
def encodePkt (h : PktHdr) (ty : Nat) (ws : List W64) : Words :=
  .packet h.host h.queue (.ofNat 64 (pack [(8, ty), (1, b2n h.bar), (7, 0), (16, h.tag.toNat), (32, 0)]) :: ws)

/-- ENCODER: the words of an instruction, from the same tables. A control operation is given as a header parcel with
TEMPLATE 0 and both slots empty; a step of the device that is no packet has no words. -/
def encode (i : Instr) : Words :=
  match view i with
  | .ctl cop g x => .header (.ofNat 64 (pack [(16, 0x0600), (16, 0x0600), (19, x), (5, cop), (4, g.toNat), (4, 0)]))
  | .op o p => .slot p.slot
      (.ofNat 16 (pack [(9, p.index.toNat), (2, p.width.toNat), (1, b2n p.ar), (4, p.guard.toNat)])) (encodeCw o p.cw)
  | .mx g ar r imm => .matrix
      (.ofNat 32 (pack [(18, imm.toNat), (8, r.toNat), (1, 1), (1, b2n ar), (4, g.toNat)]))
  | .cp cop _ p => .copy (.ofNat 64 (pack [(5, p.spec.toNat), (3, p.policy.toNat), (2, p.seq.toNat),
      (6, p.barReg.toNat), (18, encodeDesc p.dest), (6, p.auxReg.toNat), (6, p.lenReg.toNat), (6, p.addrReg.toNat),
      (6, cop), (1, 1), (1, b2n p.ar), (4, p.guard.toNat)]))
  | .uop mop u => .micro (.ofNat 64 (pack [(32, u.imm.toNat), (13, 0), (4, u.flags.toNat), (3, u.pc.toNat),
      (3, u.pb.toNat), (3, u.pa.toNat), (6, mop)]))
  | .step =>
    match i with
    | .pktNop h => encodePkt h 0 [0, 0, 0, 0, 0, 0, 0]
    | .beginBatch h => encodePkt h 1 [0, 0, 0, 0, 0, 0, 0]
    | .commitBatch h => encodePkt h 2 [0, 0, 0, 0, 0, 0, 0]
    | .launchPkt h d s v => encodePkt h 3 [d, s, v, 0, 0, 0, 0]
    | .graphPkt h d s v => encodePkt h 4 [d, s, v, 0, 0, 0, 0]
    | .writePkt h d n v0 v1 v2 v3 => encodePkt h 5 [d, .ofNat 64 n.toNat, v0, v1, v2, v3, 0]
    | .waitmemPkt h a m v op t =>
      encodePkt h 6 [a, m, v, .ofNat 64 (pack [(2, op.toNat), (30, 0), (32, t.toNat)]), 0, 0, 0]
    | .pktLoop h b t => encodePkt h 7 [.ofNat 64 b.toNat, .ofNat 64 t.toNat, 0, 0, 0, 0, 0]
    | .indirectPkt h b n => encodePkt h 8 [b, .ofNat 64 n.toNat, 0, 0, 0, 0, 0]
    | .signalPkt h a v st irq vec =>
      encodePkt h 9 [a, v, .ofNat 64 (pack [(1, b2n st), (1, b2n irq), (6, 0), (8, vec.toNat), (48, 0)]), 0, 0, 0, 0]
    | .fetchFence h => encodePkt h 0xA [0, 0, 0, 0, 0, 0, 0]
    | _ => .none

/-- Decoding of words wherever they stand. -/
def decodeWords (w : Words) : Option Instr :=
  match w with
  | .header w => match decodeCtl w with
    | .ok r => r
    | .error _ => Option.none
  | .slot sl w cw => match decodeSlot sl w cw with
    | .ok r => r
    | .error _ => Option.none
  | .matrix w => match decodeMx w with
    | .ok r => r
    | .error _ => Option.none
  | .copy w => match decodeCp w with
    | .ok r => r
    | .error _ => Option.none
  | .micro w => match decodeUop w with
    | .ok r => r
    | .error _ => Option.none
  | .packet h q ws => match decodePkt h q ws with
    | .ok i => some i
    | .error _ => Option.none
  | .none => Option.none

/-- The instruction whose bits are `w` as the opcode table numbers them. The one row the table gives bits is MCALL, in
the 32 bits of the matrix slot (R19). -/
def decodeTableWord (nbits w : Nat) : Option Instr :=
  if nbits = 32 then
    match decodeMx (.ofNat 32 w) with
    | .ok r => r
    | .error _ => none
  else none

end Sys2Proof
end

