-- ==== Sys2Proof/Machine/State.lean ====
section
/-! DEFINITION. The state of the module as plain data, the reasons a step can stop, and the state after reset. -/
namespace Sys2Proof.Machine
open Sys2Proof

/-- Why the machine stops. Raised by `exec` alone. -/
inductive Fault where
  /-- A step of the device names a core, context, cluster, die, port, queue or barrier that the module does not
  have (R3, R4, R60, R224), or an operand size it has not (R326, R328). No program raises it; safe: nothing is
  claimed of such a step. -/
  | noSuchUnit
  deriving DecidableEq, Repr

/-- Why an instruction has no meaning. -/
inductive Refusal where
  /-- The instruction of that mnemonic has no meaning yet: raised by its arm in `exec`; safe. -/
  | notModelled (mnemonic : String)
  deriving DecidableEq, Repr

/-- Context states (R59). -/
inductive CState where
  | unbound | idle | ready | issuing | blocked | halting
  deriving DecidableEq, Repr

/-- Why a bundle blocks (R63); `mark` is the ephemeris stall, which counts under none of them (R262). -/
inductive Cause where
  | queueFull | presence | barrier | engine | fence | mark
  deriving DecidableEq, Repr

/-- States of a queue position (R84). -/
inductive PSt where
  | free | empty | present | void | poison | consumed
  deriving DecidableEq, Repr

/-- A queue's role in a splice (R83). -/
inductive Role where
  | loc | producer | target
  deriving DecidableEq, Repr

/-- One position: its state, its MARKED bit, and how many issued reads of it are not complete (R84, R89); `owner` is the bundle that
reserved it, by which a part that runs again knows its own positions (R92, R318). -/
structure PosRec where
  st : PSt
  marked : Bool
  reads : Nat
  owner : Option Nat
  deriving DecidableEq, Repr

/-- A queue descriptor with its positions (R83). HEAD, IHEAD, TAIL and SHEAD count modulo 4 times the capacity.
`ftail` is the final tail a freeze marker brought (R96); `held` says that a context's QFREEZE or QSAVE made the freeze of the splice,
which only a QTHAW ends (R97). -/
structure Queue where
  alloc : Bool
  base : BitVec 8
  logcap : BitVec 3
  head : Nat
  ihead : Nat
  tail : Nat
  shead : Nat
  role : Role
  frozen : Bool
  freezing : Bool
  pfrz : Bool
  partner : BitVec 15
  pos : Tab PosRec
  ftail : Option Nat
  held : Bool
  deriving DecidableEq, Repr

/-- The registers a bundle reads as they stood before it: scalars, predicates, parameter registers, modulus and
reduction-constant registers (R44, R120, R196). -/
structure Regs where
  s : Tab W64
  p : BitVec 16
  a : Tab W64
  m : Tab VReg
  k : Tab VReg
  deriving DecidableEq, Repr

/-- A queue source a part resolved at issue (R87). -/
structure ReadRes where
  part : Nat
  q : Nat
  off : Nat
  pos : Nat
  last : Bool
  deriving DecidableEq, Repr

/-- A position a part reserved at issue (R87). -/
structure DestRes where
  part : Nat
  q : Nat
  pos : Nat
  deriving DecidableEq, Repr

/-- A bundle that has issued: what its parts read, resolved and reserved (R44, R87, R305). `pre` and `csr` are the registers
and the stored CSRs of its context as they stood before it (R70, R127); `next` is where its context
goes on; `kcsr` the stored CSRs of its core as they stood then; `win` that its atomic is merged in a reduction window (R243); `ord` its place among its context's accesses to one byte, which a re-execution takes anew (R232); `abr` the barrier an AR part arrives on; `redo` marks a re-execution by ERET; `entered` that the bundle's
TRAP enters the handler (R79); `split`
that its VB starts after its VA (R180). -/
structure Issue where
  ctx : Nat
  h : W64
  size : Nat
  seq : Nat
  asid : Nat
  pre : Regs
  csr : Tab W64
  vpool : Tab VReg
  fmt : Tab W64
  reads : List ReadRes
  dests : List DestRes
  abr : Option Nat
  next : W64
  redo : Bool
  ord : Nat
  swtrap : Option Nat
  split : Bool
  kcsr : Tab W64
  win : Bool
  deriving DecidableEq, Repr

/-- A part at work after its bundle issued. -/
structure Flight where
  i : Instr
  iss : Issue
  deriving DecidableEq, Repr

/-- The selected B operand of a routine (R162). -/
structure Bsel where
  blk : Nat
  part : Nat
  mode : Nat
  cb : Nat
  masks : List Byte
  deriving DecidableEq, Repr

/-- A routine in the routine queue (R152 to R154, R174). -/
structure Routine where
  fl : Flight
  seq : Nat
  routine : Nat
  upc : Nat
  regs : Tab W64
  metaWord : W64
  loops : List Nat
  kcount : Nat
  mp : Nat
  bsel : Option Bsel
  resv : List DestRes
  pend : Option ReadRes
  void : Bool
  started : Bool
  mret : Bool
  ctrl : Bool
  deriving DecidableEq, Repr

/-- A faulting part with what it needs to run again (R305, R174). -/
structure FaultPart where
  fl : Flight
  routine : Option Routine
  deriving DecidableEq, Repr

/-- A fault record (R305); `inner` says that the handler was running when it formed, so that execution goes on afterwards
where that handler returns to. -/
structure FaultRec where
  bundle : W64
  next : W64
  mask : BitVec 7
  code : Nat
  part : Nat
  kind : Bool
  info : W64
  eaddr : W64
  seq : Nat
  parts : List FaultPart
  inner : Bool
  deriving DecidableEq, Repr

/-- A DBAR that holds back its context: its level and whether the arrival has been made (R81, R82). -/
structure DbarWait where
  level : Nat
  arrived : Bool
  deriving DecidableEq, Repr

/-- What held back a context when it entered its handler, and holds it back again after ERET (R305). -/
structure Waits where
  dbar : Option DbarWait
  fence : Option Nat
  ifence : Bool
  mark : Option Flight
  deriving DecidableEq, Repr

/-- One hardware context. `csr` holds the registers of the CSR maps that are stored under their numbers (the trap
registers, MDPC, GUARDST, ABR, SLOTIDX, EPHPOL, CURMARK, the loop registers and the context counters); the others are
computed when read. `hold` names the context that spawned it and the bundles whose accesses its first bundle waits for
(R75); `markWait` the MARK it is stalled at (R262); `susp` what it will wait for again once its handler returns; `recent` the
predicates that each of its last three issued bundles writes, the last bundle first, and `latePreds` those whose write ac is
the next issue (R65, R273); `blkOn` the counters that its block
moves beside its cause's own (R114, R178, R195, R229, R247, R279). -/
structure Ctx where
  st : CState
  pc : W64
  regs : Regs
  cwt : Tab W256
  cbank : Tile
  vbase : Nat
  vcount : Nat
  abase : Nat
  acount : Nat
  dommask : BitVec 4
  phase1 : Bool
  domid : Tab W64
  csr : Tab W64
  inh : Bool
  queues : Tab Queue
  handling : Option FaultRec
  waiting : List FaultRec
  blk : Option Cause
  blkOn : List Nat
  fence : Option Nat
  ifence : Bool
  dbar : Option DbarWait
  wait : Option Flight
  answer : Option W64
  collSeq : Tab Nat
  markWait : Option Flight
  hold : Option (Nat × Nat)
  susp : Option Waits
  recent : List (List Nat)
  latePreds : List Nat
  deriving DecidableEq, Repr

/-- A transaction barrier (R224). -/
structure Barrier where
  alloc : Bool
  gen : Nat
  armed : Bool
  ovr : Bool
  epoch : Nat
  exparr : Nat
  arrcnt : Nat
  expb : Nat
  xtrab : Nat
  landb : Nat
  refcnt : Nat
  fault : Bool
  faddr : Nat
  oorcnt : Nat
  vfail : Nat
  deriving DecidableEq, Repr

/-- A routine table entry (R151). -/
structure REntry where
  valid : Bool
  ctrl : Bool
  start : Nat
  nwords : Nat
  outa : Nat
  outac : Nat
  outb : Nat
  outbc : Nat
  deriving DecidableEq, Repr

/-- An A stage: its tiles with the bank register each came under, its tag, sealed or not (R150, R161). -/
structure Stage where
  tiles : List (Tile × W64)
  tag : Nat
  isSealed : Bool
  deriving DecidableEq, Repr

/-- A tile on its way into a stage or a weight-buffer block (R161, R167, R172), with the read it makes; a void one writes
nothing (R173). `tag` is the context of the routine. -/
structure Fetch where
  seq : Nat
  stage : Option Nat
  block : Nat
  books : Bool
  tag : Nat
  fmt : W64
  data : Tile
  read : ReadRes
  void : Bool
  deriving DecidableEq, Repr

/-- What a vector or crossbar part writes when its result is in place (R181). -/
inductive VWrite where
  | vreg (idx w : Nat) (v : Nat)
  | sreg (r : Nat) (v : W64)
  | pred (p : Nat) (b : Bool)
  | fill (q pos : Nat) (st : PSt) (t : Tile)
  | pair (i : Nat) (m k : VReg)
  deriving DecidableEq, Repr

/-- A vector, modular or crossbar part that has issued; `waiting` is a split VB that has not started (R180). -/
structure VPart where
  fl : Flight
  waiting : Bool
  writes : List VWrite
  deriving DecidableEq, Repr

/-- A posted store (R126). -/
structure PStore where
  fl : Flight
  va : Nat
  n : Nat
  val : Nat
  deriving DecidableEq, Repr

/-- A fill on its way into its slot (R90); `seq` is the routine it belongs to, if one. -/
structure FillRec where
  ctx : Nat
  q : Nat
  pos : Nat
  st : PSt
  data : Tile
  seq : Option Nat
  deriving DecidableEq, Repr

/-- A copy in the engine (R208): started or not; its place in issue order; the barriers it counts and arrives on; the
collective it has joined with its place among the members (R335); whether it moves through the slot table's ports (R211);
whether it runs again after a fault (R318); the tile out it has taken before it was parked, with the bytes of it in error (R221);
the bytes it counts in all; whether it has found the collective sequencer full (R337); and its number among the collectives of its
context at its level, once its descriptor has been read (R335). -/
structure Copy where
  fl : Flight
  active : Bool
  seq : Nat
  bar : Option Nat
  arr : Option Nat
  coll : Option (Nat × Nat)
  port : Bool
  rerun : Bool
  data : Option Tile
  bad : List Nat
  total : Nat
  waited : Bool
  turn : Option Nat
  deriving DecidableEq, Repr

/-- The address of a queue anywhere in the module (R101). -/
structure QAddr where
  core : Nat
  ctx : Nat
  q : Nat
  deriving DecidableEq, Repr

/-- Messages between queue ends (R93 to R97, R105, R106). `again` marks the fill of a part that runs again, which replaces what its
fault left (R92, R318); `copied` that of a copy. -/
inductive Msg where
  | append (dst src : QAddr) (seq pos : Nat) (st : PSt) (t : Tile) (again copied : Bool)
  | head (dst : QAddr) (v : Nat)
  | freezeReq (dst src : QAddr)
  | marker (dst src : QAddr) (tail : Nat)
  | ack (dst : QAddr)
  | thaw (dst src : QAddr) (role : Role) (cap tail : Nat)
  | thawReply (dst : QAddr) (ok : Bool) (head : Nat)
  | splice (dst src : QAddr) (asid : Nat) (cap : Nat)
  | unsplice (dst src : QAddr)
  deriving DecidableEq, Repr

/-- A core: its contexts, engines and the operations they have at work (R3, R59, R115 to R121, R150, R208, R224). `poisoned`
names its structures with an uncorrectable error (R310), `away` the positions of its splice targets whose copies are parked
at the producer's core (R319), `rlcVec` the vector step of its cluster's controller, with its lane groups, waiting or, if true,
started (R267, R372), `raced` the bytes of the operand scratchpad that an STSP wrote while an operation on their
position was at work: address, count, and the tick of the race (R115, R184). -/
structure Core where
  owner : Option Nat
  lastUser : Option Nat
  launch : Option Nat
  lindex : Nat
  ispad : Tab W64
  spad : Tab Tile
  lap : Tab Nat
  csr : Tab W64
  vpool : Tab VReg
  acc : Tab Tile
  part : Tab (BitVec 26)
  partAcc : Nat
  partP : Nat
  partN : Nat
  stages : Tab (Option Stage)
  blocks : Tab Tile
  wtags : Tab W64
  books : Tab W256
  ustore : Tab W64
  rtab : Tab REntry
  rq : List Routine
  fetches : List Fetch
  cq : List Copy
  parked : Tab (Option Copy)
  bars : Tab Barrier
  vparts : List VPart
  divider : Option Flight
  loads : List Flight
  atomics : List Flight
  stores : List PStore
  fills : List FillRec
  arrivals : List Nat
  out : List Msg
  selected : Option Nat
  fatal : Option (Nat × Nat × W64)
  issue : Option Issue
  seq : Nat
  rlcSlots : Option Nat
  rlcVec : Option (Bool × Nat)
  poisoned : List (ErrPlace × Nat)
  away : List (Nat × Nat × Nat)
  raced : List (Nat × Nat × Nat)
  ctxs : Tab Ctx
  deriving DecidableEq, Repr

/-- A context record of a launch descriptor (R290). -/
structure CtxRec where
  bind : Bool
  entry : Bool
  mask : BitVec 4
  pc : W64
  vcount : Nat
  acount : Nat
  dom : List W64
  members : Nat
  args : List W64
  deriving DecidableEq, Repr

/-- One core of a launch (R289). -/
structure LCore where
  core : Nat
  ctxs : List CtxRec
  deriving DecidableEq, Repr

/-- What validation has read of a launch descriptor and its kernel record (R286, R289, R290, R342): class, completion
record, save base, the chosen image descriptor's eight words, its launch table, the cores. -/
structure Plan where
  cls : Nat
  comp : Nat
  save : Nat
  img : List W64
  ltab : List W64
  cores : List LCore
  deriving DecidableEq, Repr

/-- A node of a task graph (R293). -/
structure GNode where
  plan : Plan
  branch : Nat
  succ : List Nat
  deriving DecidableEq, Repr

/-- What validation has read of a graph descriptor (R293). -/
structure GPlan where
  nodes : List GNode
  entry : Nat
  maxruns : Nat
  status : Nat
  deriving DecidableEq, Repr

/-- How far a launch has come (R291, R292). -/
inductive LStat where
  | waiting | bound | done
  deriving DecidableEq, Repr

/-- A launch (R289 to R292): its packet's queue, index and signal; the cores that have ended it; what its completion record
will say; whether it has found a core it needs held (R299). -/
structure Launch where
  id : Nat
  asid : Nat
  host : Nat
  queue : Nat
  pidx : Nat
  graph : Option Nat
  plan : Plan
  sig : W64
  val : W64
  stat : LStat
  ended : List Nat
  status : Nat
  fcause : Nat
  fcore : Nat
  fctx : Nat
  fepc : W64
  guard : Option (Nat × Nat × W64)
  uncollected : Option Nat
  saves : Nat
  maxns : W64
  late : Bool
  deriving DecidableEq, Repr

/-- A running task graph (R293). -/
structure Graph where
  id : Nat
  asid : Nat
  host : Nat
  queue : Nat
  pidx : Nat
  plan : GPlan
  node : Nat
  runs : Nat
  sig : W64
  val : W64
  deriving DecidableEq, Repr

/-- A packet of a validated batch: the index and TAG of the packet in the ring that it is, or that brought it; the tenant it was
validated for; the index of its batch's first packet; the buffer and place it was read from if an INDIRECT brought it; how many
buffers it came through, and whether it runs in a loop body; and what it asks for (R282, R283, R286). -/
structure RunPkt where
  idx : Nat
  tag : Nat
  asid : Nat
  batch : Nat
  buf : Option (Nat × Nat)
  lvl : Nat
  looped : Bool
  i : Instr
  deriving DecidableEq, Repr

/-- A command queue at the front end (R283 to R288): the next index to fetch, the read index, packets fetched and not
validated, validated packets still to begin, indices begun and not completed; the buffers and descriptors validation has
read, under their batch and address; the launch whose binding holds the queue; when the WAITMEM at the head began. -/
structure FeQueue where
  tail : Nat
  ridx : Nat
  raw : List (Nat × List W64)
  run : List RunPkt
  live : List Nat
  bufs : List (Nat × Nat × Nat × List Instr)
  plans : List (Nat × Nat × Plan)
  graphs : List (Nat × Nat × GPlan)
  holds : Option Nat
  since : Option Nat
  deriving DecidableEq, Repr

/-- One ephemeris entry as read (R258); once started, whether it asked for a port, and whether it has waited for a core being saved
(R261, R263). -/
structure EphEntry where
  idx : Nat
  src : Nat
  off : Nat
  lcore : Nat
  len : Nat
  action : Nat
  tier : Nat
  start : Nat
  due : Nat
  port : Bool
  held : Bool
  deriving DecidableEq, Repr

/-- A binding of a tier engine (R259 to R264) to the domain `dom` of its level. -/
structure Binding where
  num : Nat
  die : Nat
  asid : Nat
  launch : Option Nat
  level : Nat
  dom : Nat × Nat
  table : Nat
  count : Nat
  next : Nat
  read : Option EphEntry
  prevStart : Nat
  started : List EphEntry
  dones : List Nat
  err : Nat
  erridx : Nat
  unbinding : Bool
  deriving DecidableEq, Repr

/-- A refinement loop controller (R266 to R275): its state, owner and command block; the bundle that started it; where the
run stands (`phase` 0 factors, from column `col`, 1 forms the first residual, 2 iterates); the FMT values it found; x, r, the factor
and PERM as WORK holds them. `prog` says how far the work up to the next change of WORK has come: 0 its transfers are still to be
made, 1 at a step boundary with `steps` to take, 2 the first of these waits for the array or for lane groups, 3 it runs (R372). A
step is a routine call or a vector run (true), with its number of lane groups less one or its routine's number. -/
structure Rlc where
  st : Nat
  core : Nat
  ctx : Nat
  asid : Nat
  blk : Nat
  words : List W64
  seq : Nat
  phase : Nat
  rung : Nat
  k : Nat
  q : Nat
  hasQ : Bool
  hasX : Bool
  exit : Nat
  trappend : Bool
  faddr : Nat
  escalated : Bool
  toprung : Bool
  abort : Bool
  fmt0 : W64
  fmt1 : W64
  x : List Nat
  r : List Nat
  fac : List (List Nat)
  perm : List Nat
  col : Nat
  prog : Nat
  steps : List (Bool × Nat)
  deriving DecidableEq, Repr

/-- A core to be saved (R295, R296): whether a host PREEMPT ordered it, whether its issue has stopped, whether the fault
record of its save area has been written. -/
structure SaveReq where
  core : Nat
  byHost : Bool
  stopped : Bool
  noted : Bool
  deriving DecidableEq, Repr

/-- A saved core (R296 to R298): the core as it stood, its number, its launch, its launch core index, the order of its save,
whether a host PREEMPT holds it, its controller, and whether the fault record of its save area has been written. -/
structure Saved where
  core : Core
  num : Nat
  launch : Nat
  lindex : Nat
  order : Nat
  held : Bool
  rlc : Option Rlc
  noted : Bool
  deriving DecidableEq, Repr

/-- A member's contribution to a collective (R335): its device, core and context as they rank it (R331); the launch, launch core index
and bundle that brought it, by which it is known on another core too (R298, R337). -/
structure CollMember where
  dev : Nat
  core : Nat
  ctx : Nat
  launch : Option Nat
  lindex : Nat
  seq : Nat
  desc : List W64
  data : List Byte
  bad : Bool
  deriving DecidableEq, Repr

/-- A collective (R334 to R337). -/
structure Coll where
  id : Nat
  asid : Nat
  level : Nat
  ident : Nat
  phase : Bool
  k : Nat
  count : Nat
  members : List CollMember
  isOver : Bool
  deriving DecidableEq, Repr

/-- A contribution to a reduction window (R330, R331); `seq` is the bundle of the atomic that waits on this device for its
acceptance, `waited` that it has found the home's round buffers full (R332). -/
structure Contrib where
  seq : Option Nat
  waited : Bool
  win : Nat
  ordered : Bool
  fp : Bool
  count : Nat
  dev : Nat
  core : Nat
  ctx : Nat
  space : Nat
  addr : Nat
  opc : Nat
  len : Nat
  val : W64
  deriving DecidableEq, Repr

/-- A request waiting at a port of a die's slot table (R256): its tenant, its units left, and the copy or engine entry
it belongs to. -/
structure PortReq where
  die : Nat
  port : Nat
  asid : Nat
  units : Nat
  core : Nat
  tag : Nat
  deriving DecidableEq, Repr

/-- A translation that an agent may hold, one agent to each L2 strip of a die (R316). -/
structure TlbEntry where
  agent : Nat
  asid : Nat
  page : Nat
  size : Nat
  leaf : W64
  deriving DecidableEq, Repr

/-- A staged far page with its frame of near DRAM (R255, R261). -/
structure Staged where
  die : Nat
  asid : Nat
  page : Nat
  launch : Option Nat
  frame : Nat
  deriving DecidableEq, Repr

/-- All memory: local physical bytes as an access reads them, the two hosts' memories, remote devices' memory, poisoned 64-byte
lines. The lines that L2 slices hold, and those of the memory-side caches with their retained marks; what lies under the dirty
lines of each (R219, R254); the far-DRAM contents under lines that a staging frame holds newer, the staged pages (R255); the L2
domain registers in effect (R252); the count of fills, the model's own (R373). -/
structure Mem where
  loc : Tab Byte
  h0 : Tab Byte
  h1 : Tab Byte
  rem : Tab Byte
  poison : Tab Bool
  dirty : List (Nat × Line)
  frames : List (Nat × Line)
  l2 : List Nat
  msc : List (Nat × Bool)
  mdirty : List (Nat × Line)
  staged : List Staged
  l2act : Tab W64
  fills : Nat
  deriving DecidableEq, Repr

/-- Everything of the module that is not memory; `deviceNo` its number in the load-store domain (R328); `l2next` the domain registers
that a running commit installs (R252); `asked` the transfers, by holder and tag, whose requests at the ports have been made (R256); `reports` the splice ends whose handshake failed after a restore, with the host that is told
(R98; log 34). The last four fields are the model's own: the steps to come, the
counter of fresh free values, and the core and context in focus (log 1, log 6). -/
structure Mach where
  minor : BitVec 8
  stepping : BitVec 8
  cores : Tab Core
  dieRegs : Tab W64
  slots : Tab W64
  portRegs : Tab W64
  usec : Nat
  portLast : Tab Nat
  portReqs : List PortReq
  asked : List (Nat × Nat)
  tlb : List TlbEntry
  tenants : Tab (Option Nat)
  quotas : Tab Nat
  deviceNo : Nat
  l2next : Tab W64
  bindings : List Binding
  rlcs : Tab Rlc
  launches : List Launch
  graphs : List Graph
  fe : Tab FeQueue
  saved : List Saved
  saves : List SaveReq
  tripped : Tab Bool
  colls : List Coll
  contribs : List Contrib
  rounds : List Contrib
  msix : List (Nat × Nat)
  reports : List (Nat × QAddr)
  hostData : List Byte
  nextId : Nat
  agenda : List Instr
  tick : Nat
  focusCore : Nat
  focusCtx : Nat
  deriving DecidableEq, Repr

/-- The state of the machine. -/
structure State where
  mach : Mach
  mem : Mem
  deriving DecidableEq, Repr

/-- A position never filled (R84). -/
def PosRec.zero : PosRec := ⟨.free, false, 0, none⟩
/-- An unallotted queue reads as all zero (R83). -/
def Queue.zero : Queue := ⟨false, 0, 0, 0, 0, 0, 0, .loc, false, false, false, 0, [], none, false⟩
/-- The registers of a context nothing has written (R120; log 5). -/
def Regs.zero : Regs := ⟨[], 0, [], [], []⟩
/-- A context as reset leaves it: UNBOUND (R59, R67). -/
def Ctx.zero : Ctx :=
  ⟨.unbound, 0, Regs.zero, [], 0, 0, 0, 0, 0, 0, false, [], [], false, [], none, [], none, [], none, false, none, none, none,
   [], none, none, none, [], []⟩
/-- A free barrier (R224). -/
def Barrier.zero : Barrier := ⟨false, 0, false, false, 0, 0, 0, 0, 0, 0, 0, false, 0, 0, 0⟩
/-- A routine entry that is not VALID (R151). -/
def REntry.zero : REntry := ⟨false, false, 0, 0, 0, 0, 0, 0⟩
/-- A core as reset leaves it (R347: every location zero). -/
def Core.zero : Core :=
  ⟨none, none, none, 0, [], [], [], [], [], [], [], 0, 0, 0, [], [], [], [], [], [], [], [], [], [], [], [], none, [], [],
   [], [], [], [], none, none, none, 0, none, none, [], [], [], []⟩
/-- A FREE controller (R266). -/
def Rlc.zero : Rlc := ⟨0, 0, 0, 0, 0, [], 0, 0, 0, 0, 0, false, false, 0, false, 0, false, false, false, 0, 0, [], [], [], [], 0, 0, []⟩
/-- A command queue with nothing fetched. -/
def FeQueue.zero : FeQueue := ⟨0, 0, [], [], [], [], [], [], none, none⟩
/-- Reset values of the die registers that are not zero, for one die (R252): five domains of sixteen slices, every
hash mask all ones, regions dealt to the domains in turn. -/
def dieReset (d : Nat) : Tab W64 :=
  [(d * 0x1000 + 0x100, 0x600), (d * 0x1000 + 0x108, 0x610), (d * 0x1000 + 0x110, 0x620),
   (d * 0x1000 + 0x118, 0x630), (d * 0x1000 + 0x120, 0x640)] ++
  (List.range 8).map (fun n => (d * 0x1000 + 0x140 + 8 * n, 0x3FFFFFFFFFFF)) ++
  (List.range 3).map (fun k => (d * 0x1000 + 0x180 + 8 * k,
    BitVec.ofNat 64 ((List.range (if k = 2 then 10 else 21)).foldl
      (fun a i => a + ((21 * k + i) % 5) * 2 ^ (3 * i)) 0)))

/-- Memory as bring-up leaves it: nothing listed, so every byte reads zero (R347; log 4); the domains of R252. -/
def Mem.zero : Mem := ⟨[], [], [], [], [], [], [], [], [], [], [], dieReset 0 ++ dieReset 1 ++ dieReset 2 ++ dieReset 3, 0⟩

/-- Reset values of the port registers that are not zero: HPSTAT.PORT and .MGMT (log 21), FESTAT.FRAME (R281, R324). -/
def portReset : Tab W64 := [(0x0000, 0x2), (0x0408, 8000), (0x1000, 0x1), (0x1408, 8000)]

/-- The module right after reset, before bring-up (R10, R347): every field at the value the spec states for reset or,
where it states none, at the value its log entry names. -/
def State.reset : State :=
  { mach :=
      { minor := 1, stepping := 0, cores := [], dieRegs := dieReset 0 ++ dieReset 1 ++ dieReset 2 ++ dieReset 3,
        slots := [], portRegs := portReset, usec := 0,
        portLast := [], portReqs := [], asked := [], tlb := [], tenants := [], quotas := [], deviceNo := 0, l2next := [], bindings := [], rlcs := [],
        launches := [], graphs := [], fe := [], saved := [], saves := [], tripped := [], colls := [], contribs := [],
        rounds := [], msix := [], reports := [], hostData := [], nextId := 0, agenda := [], tick := 0, focusCore := 0, focusCtx := 0 }
    mem := Mem.zero }

end Sys2Proof.Machine
end

