-- ==== Sys2Proof/Machine/Caches.lean ====
section
/-! DEFINITION. Local memory and its tiers: the map of R249, the home slices of R251, the lines that the L2 slices and the
memory-side caches hold (R248, R254, R373), what lies under their dirty lines, and the staging frames (R255). No value that a
program reads depends on placement but through a discard (R219, R373). -/
namespace Sys2Proof.Machine
open Sys2Proof

/-! ### The map (R249) -/

/-- Is a local physical address mapped (R249)? -/
def localMapped (a : Nat) : Bool :=
  decide (a < 0x2000000000) || decide (0x10000000000 ≤ a ∧ a < 0x10000000000 + 4 * 0x6000000000)
/-- Is a local physical address far DRAM (R249)? -/
def isFar (a : Nat) : Bool := decide (0x10000000000 ≤ a)
/-- The home die of a local physical address (R249). -/
def homeDie (a : Nat) : Nat := if isFar a then (a - 0x10000000000) / 0x6000000000 else a / 0x800000000
/-- The region of a local address within its die (R249). -/
def regionOf (a : Nat) : Nat :=
  if isFar a then 4 + (a - 0x10000000000) % 0x6000000000 / 0x200000000 else a % 0x800000000 / 0x200000000

/-! ### Bytes of a table -/

/-- Bytes of a table written from `a` on. -/
def writeTab (t : Tab Byte) (a : Nat) : List Byte → Tab Byte
  | [] => t
  | b :: bs => writeTab (Tab.set 0 t a b) (a + 1) bs
/-- Local line `l` as it reads, its poison bit with it: a tier holds both (R311). -/
def Mem.line (m : Mem) (l : Nat) : Line :=
  ⟨BitVec.ofNat 512 (leNat ((List.range 64).map (fun i => Tab.get 0 m.loc (64 * l + i)))), Tab.get false m.poison l⟩
/-- A local line replaced. -/
def Mem.setLine (m : Mem) (l : Nat) (v : Line) : Mem :=
  { m with loc := writeTab m.loc (64 * l) (leBytes v.data.toNat 64), poison := Tab.set false m.poison l v.poison }

/-! ### Home slices (R251) -/

/-- A domain register in effect. -/
def Mem.l2reg (m : Mem) (d off : Nat) : W64 := Tab.get 0 m.l2act (d * 0x1000 + off)
/-- The domain of region `r` under a set of domain registers, given by offset; the one in effect. -/
def selIn (f : Nat → W64) (r : Nat) : Nat := fld (f (0x180 + 8 * (r / 21))) (3 * (r % 21) + 2) (3 * (r % 21))
def Mem.l2sel (m : Mem) (d r : Nat) : Nat := selIn (m.l2reg d) r
/-- The home slice of a local address on its die (R251). -/
def Mem.homeSlice (m : Mem) (a : Nat) : Nat :=
  let d := homeDie a
  let n := m.l2sel d (regionOf a)
  let w := m.l2reg d (0x100 + 8 * n)
  fld w 6 0 + xorFold ((a / 64) &&& fld (m.l2reg d (0x140 + 8 * n)) 45 0) (fld w 9 7) 46

/-! ### What a tier holds -/

/-- Sets of a slice and of a memory-side cache (R248). -/
def l2Sets : Nat := Config.sliceBytes / 64 / Config.cacheWays
def mscSets : Nat := Config.mscBytes / 64 / Config.cacheWays
/-- Do two lines share a set of one slice, or of one memory-side cache? Which set of it a line takes is the implementation's
(R373; log 44). -/
def Mem.sameL2 (m : Mem) (a b : Nat) : Bool :=
  decide (homeDie (64 * a) = homeDie (64 * b) ∧ m.homeSlice (64 * a) = m.homeSlice (64 * b) ∧
    Config.l2Index a % l2Sets = Config.l2Index b % l2Sets)
def sameMsc (a b : Nat) : Bool :=
  decide (homeDie (64 * a) = homeDie (64 * b) ∧ Config.mscIndex a % mscSets = Config.mscIndex b % mscSets)
/-- One of some lines, by a free choice (R373). -/
def Mem.choose (m : Mem) (l : List Nat) : Option Nat := l[Config.victim m.fills % l.length]?
/-- Does the memory-side cache hold a line? -/
def Mem.inMsc (m : Mem) (l : Nat) : Bool := m.msc.any (fun e => e.1 == l)
/-- Is a line's far page staged (R255)? -/
def Mem.isStaged (m : Mem) (l : Nat) : Bool := m.staged.any (fun g => g.page == l / 1024)
/-- The entry of a line in a list of older contents. -/
def older (t : List (Nat × Line)) (l : Nat) : Option Line := (t.find? (fun e => e.1 == l)).map (·.2)
def without (t : List (Nat × Line)) (l : Nat) : List (Nat × Line) := t.filter (fun e => e.1 ≠ l)
/-- Older contents noted, if the line has none yet. -/
def noteOlder (t : List (Nat × Line)) (l : Nat) (v : Option Line) : List (Nat × Line) :=
  match v with
  | none => t
  | some b => if (older t l).isSome then t else (l, b) :: t
/-- What DRAM, or the frame of a staged page, holds of a line whose cached value is newer. -/
def Mem.dramOf (m : Mem) (l : Nat) : Option Line := (older m.mdirty l).orElse (fun _ => older m.dirty l)
/-- A write reaches DRAM under a line: of a staged page it is the frame that takes it, over the older far contents (R255). -/
def Mem.framed (m : Mem) (l : Nat) (v : Option Line) : List (Nat × Line) :=
  if m.isStaged l then noteOlder m.frames l v else m.frames

/-! ### Write-backs -/

/-- A dirty line of the slice is written back one tier down: into the memory-side cache if that holds the line, else to DRAM. -/
def Mem.l2Down (m : Mem) (l : Nat) : Mem :=
  if m.inMsc l then { m with dirty := without m.dirty l, mdirty := noteOlder m.mdirty l (older m.dirty l) }
  else { m with dirty := without m.dirty l, frames := m.framed l (older m.dirty l) }
/-- A dirty line of the memory-side cache is written to DRAM. -/
def Mem.mscDown (m : Mem) (l : Nat) : Mem := { m with mdirty := without m.mdirty l, frames := m.framed l (older m.mdirty l) }
/-- A line is written back from both tiers (R219). -/
def Mem.toDram (m : Mem) (l : Nat) : Mem :=
  { m with dirty := without m.dirty l, mdirty := without m.mdirty l, frames := m.framed l (m.dramOf l) }
/-- A line leaves a slice; a line leaves the memory-side cache. -/
def Mem.dropL2 (m : Mem) (l : Nat) : Mem := { m with l2 := m.l2.filter (· ≠ l) }
def Mem.dropMsc (m : Mem) (l : Nat) : Mem := { m with msc := m.msc.filter (fun e => e.1 ≠ l) }

/-! ### Fills (R254) -/

/-- The line that a fill of a slice displaces: one of the sixteen of its set. -/
def Mem.l2Victim (m : Mem) (l : Nat) : Option Nat :=
  if m.l2.length < Config.cacheWays then none
  else
    let ws := m.l2.filter (m.sameL2 l)
    if ws.length < Config.cacheWays then none else m.choose ws
/-- A line is filled into its home slice. -/
def Mem.l2Fill (m : Mem) (l : Nat) : Mem :=
  if m.l2.contains l then m
  else
    let m := match m.l2Victim l with
      | some v => (m.l2Down v).dropL2 v
      | none => m
    { m with l2 := l :: m.l2, fills := m.fills + 1 }
/-- The line that a fill of the memory-side cache displaces: a retained one only by a retained fill that finds twelve retained
lines in the set, else one that is not retained when the set is full (R254). -/
def Mem.mscVictim (m : Mem) (l : Nat) (ret : Bool) : Option Nat :=
  if m.msc.length < Config.retainedWays then none
  else
    let ws := m.msc.filter (fun e => e.1 ≠ l && sameMsc l e.1)
    let kept := (ws.filter (·.2)).map (·.1)
    if ret ∧ kept.length ≥ Config.retainedWays then m.choose kept
    else if ws.length ≥ Config.cacheWays then m.choose ((ws.filter (fun e => !e.2)).map (·.1))
    else none
/-- A line is filled into the memory-side cache of its home die, marked retained or not; a mark that stands stays. -/
def Mem.mscFill (m : Mem) (l : Nat) (ret : Bool) : Mem :=
  if m.msc.contains (l, true) || (m.inMsc l && !ret) then m
  else
    let m := match m.mscVictim l ret with
      | some v => (m.mscDown v).dropMsc v
      | none => m
    { m with msc := (l, ret) :: m.msc.filter (fun e => e.1 ≠ l), fills := m.fills + 1 }
/-- An access under a POLICY takes up its line (R254): 1 streaming, 2 retained, 3 bypass, else both tiers allocate. -/
def Mem.touch (m : Mem) (pol l : Nat) : Mem :=
  let hit := m.l2.contains l
  let m := if pol = 1 ∧ hit = false then m else m.l2Fill l
  if pol = 2 then m.mscFill l true else if hit = true ∨ pol = 3 then m else m.mscFill l false
/-- Is an access served without going to DRAM: from the slice, or from the memory-side cache, which a bypass asks for dirty lines
alone (R254)? -/
def Mem.hits (m : Mem) (pol l : Nat) : Bool :=
  m.l2.contains l || (m.inMsc l && (decide (pol ≠ 3) || (older m.mdirty l).isSome))
/-- A write under a POLICY takes up its line and makes it dirty (R219, R254): in the slice, or, where streaming misses there, in
the memory-side cache. -/
def Mem.soil (m : Mem) (pol l : Nat) : Mem :=
  let v := m.line l
  let around := decide (pol = 1) && !m.l2.contains l
  let m := m.touch pol l
  if around then { m with mdirty := noteOlder m.mdirty l (some v) } else { m with dirty := noteOlder m.dirty l (some v) }

/-! ### Discards (R219) -/

/-- The slice's copy of a line is dropped: the line reads as below it, or as after a write-back already accepted (log 7). -/
def Mem.l2Discard (m : Mem) (t l : Nat) : Mem :=
  match older m.dirty l with
  | none => m.dropL2 l
  | some b =>
    if Config.discardKeeps (2 * (t + l)) then (m.l2Down l).dropL2 l
    else ({ m with dirty := without m.dirty l }.setLine l b).dropL2 l
/-- The memory-side cache's copy of a line is dropped; a copy in the slice stays, over what DRAM holds. -/
def Mem.mscDiscard (m : Mem) (t l : Nat) : Mem :=
  match older m.mdirty l with
  | none => m.dropMsc l
  | some b =>
    if Config.discardKeeps (2 * (t + l) + 1) then (m.mscDown l).dropMsc l
    else
      let m := { m with mdirty := without m.mdirty l }.dropMsc l
      if m.l2.contains l then { m with dirty := (l, b) :: without m.dirty l } else m.setLine l b

/-! ### Ranges -/

/-- Is a line in one of the runs? -/
def inRuns (rs : List (Nat × Nat)) (line : Nat) : Bool := rs.any (fun (a, n) => decide (a ≤ 64 * line ∧ 64 * line < a + n))
/-- The cached lines of the runs, in the slices and in the memory-side caches. -/
def Mem.l2In (m : Mem) (rs : List (Nat × Nat)) : List Nat := m.l2.filter (inRuns rs)
def Mem.mscIn (m : Mem) (rs : List (Nat × Nat)) : List Nat := (m.msc.map (·.1)).filter (inRuns rs)
/-- Dirty lines of the runs written back to DRAM, their lines invalidated if asked (R219). -/
def Mem.writeBack (m : Mem) (inv : Bool) (rs : List (Nat × Nat)) : Mem :=
  (m.l2In rs ++ m.mscIn rs).foldl (fun m l => if inv then ((m.toDram l).dropL2 l).dropMsc l else m.toDram l) m
/-- Every line of the runs invalidated without write-back (R219; log 7). -/
def Mem.discard (m : Mem) (t : Nat) (rs : List (Nat × Nat)) : Mem :=
  (m.mscIn rs).foldl (fun m l => m.mscDiscard t l) ((m.l2In rs).foldl (fun m l => m.l2Discard t l) m)
/-- The lines of the runs filled, into the slices or into the memory-side caches as retained lines or not (R219, R261). -/
def Mem.fillRuns (m : Mem) (msc ret : Bool) (rs : List (Nat × Nat)) : Mem :=
  rs.foldl (fun m (a, n) => (List.range (n / 64)).foldl (fun m i =>
    if msc then m.mscFill (a / 64 + i) ret else m.l2Fill (a / 64 + i)) m) m

/-! ### Staging frames (R255) -/

/-- The lowest free frame of a die's staging area, which begins at frame `first` and has `count` frames. -/
def Mem.freeFrame (m : Mem) (d first count : Nat) : Option Nat :=
  ((List.range count).map (· + first)).find? (fun f => !m.staged.any (fun g => g.die == d && g.frame == f))
/-- What a frame holds of a line of its page. -/
def Mem.inFrame (m : Mem) (l : Nat) : Line := (m.dramOf l).getD (m.line l)
/-- The near bytes of a frame follow the lines of the runs that it holds (log 44), their poison with them (R311). -/
def Mem.mirror (m : Mem) (rs : List (Nat × Nat)) : Mem :=
  m.staged.foldl (fun m g => (List.range 1024).foldl (fun m i =>
    let l := g.page * 1024 + i
    if inRuns rs l then
      m.setLine ((g.die * 0x80000 + g.frame) * 1024 + i) (m.inFrame l)
    else m) m) m
/-- The frames of the runs written to far DRAM (R255, R261). -/
def Mem.frameBack (m : Mem) (rs : List (Nat × Nat)) : Mem := { m with frames := m.frames.filter (fun e => !inRuns rs e.1) }
/-- What DRAM holds under a line goes back to older contents: under its cached copies if it has any, else as it reads. -/
def Mem.revert (m : Mem) (e : Nat × Line) : Mem :=
  if (older m.mdirty e.1).isSome then { m with mdirty := (e.1, e.2) :: without m.mdirty e.1 }
  else if (older m.dirty e.1).isSome then { m with dirty := (e.1, e.2) :: without m.dirty e.1 }
  else m.setLine e.1 e.2
/-- The frames of the runs dropped (R261), by R219's rule. -/
def Mem.frameDrop (m : Mem) (t : Nat) (rs : List (Nat × Nat)) : Mem :=
  (m.frames.filter (fun e => inRuns rs e.1)).foldl (fun m e => if Config.discardKeeps (2 * (t + e.1)) then m else m.revert e)
    (m.frameBack rs)
/-- The pages of the runs are staged no longer. -/
def Mem.unstage (m : Mem) (rs : List (Nat × Nat)) : Mem := { m with staged := m.staged.filter (fun g => !inRuns rs (g.page * 1024)) }

end Sys2Proof.Machine
end

