-- ==== Sys2Proof/Machine/Ops.lean ====
section
/-! DEFINITION. The named operations over cores, contexts, registers and memory; address translation; the issue unit's
choice of a context; taking an exception and returning from one. -/
namespace Sys2Proof.Machine
open Sys2Proof

/-- What a step answers. -/
abbrev Out := Host.Outcome State Fault Refusal

/-! ### Cores and contexts -/

/-- Core `c` of the module. -/
def Mach.core (m : Mach) (c : Nat) : Core := Tab.get Core.zero m.cores c
/-- Core `c` replaced. -/
def Mach.setCore (m : Mach) (c : Nat) (k : Core) : Mach := { m with cores := Tab.set Core.zero m.cores c k }
/-- Core `c` changed by `f`. -/
def Mach.upd (m : Mach) (c : Nat) (f : Core → Core) : Mach := m.setCore c (f (m.core c))
/-- Context `x` of a core. -/
def Core.ctx (k : Core) (x : Nat) : Ctx := Tab.get Ctx.zero k.ctxs x
/-- Context `x` replaced. -/
def Core.setCtx (k : Core) (x : Nat) (c : Ctx) : Core := { k with ctxs := Tab.set Ctx.zero k.ctxs x c }
/-- Context `x` changed by `f`. -/
def Core.upd (k : Core) (x : Nat) (f : Ctx → Ctx) : Core := k.setCtx x (f (k.ctx x))
/-- The core changed by `f`, all else as it stands. -/
def State.onCore (s : State) (c : Nat) (f : Core → Core) : State := { s with mach := s.mach.upd c f }
/-- The four contexts of a core (R59). -/
def ctxNums : List Nat := [0, 1, 2, 3]
/-- The die of a core (R3). -/
def dieOf (c : Nat) : Nat := c / 160
/-- The cluster of a core: 4 columns by 4 rows of the die's 20 by 8 cores (R3, R4). -/
def clusterOf (c : Nat) : Nat :=
  let x := c % 160 % 20
  let y := c % 160 / 20
  dieOf c * 10 + y / 4 * 5 + x / 4

/-! ### Registers -/

/-- Scalar register `n`; S0 reads zero (R120). -/
def Regs.rS (r : Regs) (n : Nat) : W64 := if n = 0 then 0 else Tab.get 0 r.s n
/-- Scalar register `n` written; S0 ignores writes (R120). -/
def Regs.wS (r : Regs) (n : Nat) (v : W64) : Regs := if n = 0 then r else { r with s := Tab.set 0 r.s n v }
/-- Predicate `n`; P0 reads true (R120). -/
def Regs.rP (r : Regs) (n : Nat) : Bool := if n = 0 then true else r.p.getLsbD n
/-- Predicate `n` written; P0 ignores writes (R120). -/
def Regs.wP (r : Regs) (n : Nat) (b : Bool) : Regs :=
  if n = 0 then r else { r with p := BitVec.ofNat 16 (setField r.p.toNat n 1 (b2n b)) }
/-- Parameter register `n` (R120). -/
def Regs.rA (r : Regs) (n : Nat) : W64 := Tab.get 0 r.a n
/-- Parameter register `n` written. -/
def Regs.wA (r : Regs) (n : Nat) (v : W64) : Regs := { r with a := Tab.set 0 r.a n v }
/-- Modulus register `n` (R196). -/
def Regs.rM (r : Regs) (n : Nat) : VReg := Tab.get 0 r.m n
/-- Reduction-constant register `n` (R196). -/
def Regs.rK (r : Regs) (n : Nat) : VReg := Tab.get 0 r.k n
/-- A modulus pair written (R205). -/
def Regs.wMK (r : Regs) (n : Nat) (m k : VReg) : Regs := { r with m := Tab.set 0 r.m n m, k := Tab.set 0 r.k n k }

/-- A stored CSR of a context. -/
def Ctx.rC (x : Ctx) (n : Nat) : W64 := Tab.get 0 x.csr n
/-- A stored CSR of a context written. -/
def Ctx.wC (x : Ctx) (n : Nat) (v : W64) : Ctx := { x with csr := Tab.set 0 x.csr n v }
/-- A counter of a context raised by `d`; counters wrap (R67). -/
def Ctx.inc (x : Ctx) (n : Nat) (d : W64) : Ctx := x.wC n (x.rC n + d)
/-- The registers of a context changed. -/
def Ctx.onRegs (x : Ctx) (f : Regs → Regs) : Ctx := { x with regs := f x.regs }
/-- A stored CSR of the core. -/
def Core.rC (k : Core) (n : Nat) : W64 := Tab.get 0 k.csr n
/-- A stored CSR of the core written. -/
def Core.wC (k : Core) (n : Nat) (v : W64) : Core := { k with csr := Tab.set 0 k.csr n v }
/-- A core counter raised by `d`; counters wrap (R67). -/
def Core.inc (k : Core) (n : Nat) (d : W64) : Core := k.wC n (k.rC n + d)
/-- The free count of ac by which counter `n` advances in a step (log 2): timing is not modelled. -/
def acOf (t n : Nat) : W64 := Config.waitAc (t * 4096 + n)
/-- A core counter of ac advanced by its free count. -/
def Core.incAc (k : Core) (t n : Nat) : Core := k.inc n (acOf t n)
/-- A context counter of ac advanced by its free count. -/
def Ctx.incAc (x : Ctx) (t n : Nat) : Ctx := x.inc n (acOf t n)

/-- The CSRs that are one register per core (R67, R114, R128, R178, R195, R207, R229, R247, R279). -/
def isCoreCsr (n : Nat) : Bool :=
  decide (0x50 ≤ n ∧ n ≤ 0x54 ∨ 0x71 ≤ n ∧ n ≤ 0x74 ∨ 0x79 ≤ n ∧ n ≤ 0x97 ∨ 0xA0 ≤ n ∧ n ≤ 0xAB ∨ 0xB1 ≤ n ∧ n ≤ 0xC1 ∨
    n = 0xC3 ∨ 0xE0 ≤ n ∧ n ≤ 0xE4)
/-- Counter `n`, of the core or of its context `x`, raised by `d`. -/
def Core.incAny (k : Core) (x n : Nat) (d : W64) : Core := if isCoreCsr n then k.inc n d else k.upd x (fun c => c.inc n d)
/-- A core counter of ac advanced by the free count of a wait that the core's own work ends (log 2). -/
def Core.incFree (k : Core) (n : Nat) : Core := k.inc n (Config.coreAc k.seq n)
/-- Accesses that found their scratchpad bank taken are counted, by a free number (R115, R128; log 2). -/
def Core.bankWait (k : Core) : Core := k.incFree 0x79
/-- A stored CSR of the context as it stood before the bundle (R70, R127). -/
def Issue.rC (b : Issue) (n : Nat) : W64 := Tab.get 0 b.csr n

/-- The numbers of the trap registers and other CSRs that operations name (R67, R118, R178, R229, R263, R303). -/
def csrLOOPST : Nat := 0x48
def csrCURMARK : Nat := 0x4F
def csrGUARDST : Nat := 0x78
def csrMDPC : Nat := 0x98
def csrABR : Nat := 0xB0
def csrEPHPOL : Nat := 0xD0
def csrSLOTIDX : Nat := 0xD8
def csrEVEC : Nat := 0xF0
def csrECAUSE : Nat := 0xF1
def csrEADDR : Nat := 0xF2
def csrEPC : Nat := 0xF3
def csrENEXT : Nat := 0xF4
def csrESLOTS : Nat := 0xF5
def csrTRAPS : Nat := 0xF9

/-- A die register (R252, R255, R256, R263, R321, R348). -/
def Mach.dieReg (m : Mach) (d off : Nat) : W64 := Tab.get 0 m.dieRegs (d * 0x1000 + off)
/-- A die register written. -/
def Mach.setDieReg (m : Mach) (d off : Nat) (v : W64) : Mach :=
  { m with dieRegs := Tab.set 0 m.dieRegs (d * 0x1000 + off) v }
/-- A port register (R281, R320, R324). -/
def Mach.portReg (m : Mach) (p off : Nat) : W64 := Tab.get 0 m.portRegs (p * 0x1000 + off)
/-- A port register written. -/
def Mach.setPortReg (m : Mach) (p off : Nat) (v : W64) : Mach :=
  { m with portRegs := Tab.set 0 m.portRegs (p * 0x1000 + off) v }
/-- A counter of a port block raised. -/
def Mach.incPort (m : Mach) (p off : Nat) (d : W64) : Mach := m.setPortReg p off (m.portReg p off + d)
/-- A counter of a die block raised. -/
def Mach.incDie (m : Mach) (d off : Nat) (v : W64) : Mach := m.setDieReg d off (m.dieReg d off + v)
/-- The port with the management plane (R323). -/
def Mach.mgmtPort (m : Mach) : Nat := if flag (m.portReg 0 0) 1 then 0 else 1
/-- Features masked by FEATMASK (R339). -/
def Mach.featMask (m : Mach) : Nat := fld (m.portReg m.mgmtPort 0x060) 2 0

/-! ### Memory -/

/-- The memories an access can reach: local, a remote device, host 0, host 1 (R314's TGT). -/
def Mem.tab (m : Mem) (sp : Nat) : Tab Byte :=
  match sp with
  | 0 => m.loc
  | 1 => m.rem
  | 2 => m.h0
  | _ => m.h1
/-- One of the memories replaced. -/
def Mem.setTab (m : Mem) (sp : Nat) (t : Tab Byte) : Mem :=
  match sp with
  | 0 => { m with loc := t }
  | 1 => { m with rem := t }
  | 2 => { m with h0 := t }
  | _ => { m with h1 := t }
/-- One byte; an address nothing has written reads zero (R347; log 4). -/
def Mem.byte (m : Mem) (sp a : Nat) : Byte := Tab.get 0 (m.tab sp) a
/-- `n` bytes from `a`. -/
def Mem.bytes (m : Mem) (sp a n : Nat) : List Byte := (List.range n).map (fun i => m.byte sp (a + i))
/-- `n` bytes read as a little-endian number (R9). -/
def Mem.read (m : Mem) (sp a n : Nat) : Nat := leNat (m.bytes sp a n)
/-- The 64-byte line of a local address as a key of the poison bits; the other memories carry theirs apart. -/
def lineKey (sp a : Nat) : Nat := sp * 2 ^ 60 + a / 64
/-- Is the line poisoned (R311)? -/
def Mem.poisoned (m : Mem) (sp a : Nat) : Bool := Tab.get false m.poison (lineKey sp a)
/-- The line's poison bit written. -/
def Mem.setPoison (m : Mem) (sp a : Nat) (b : Bool) : Mem := { m with poison := Tab.set false m.poison (lineKey sp a) b }
/-- Does any line of `n` bytes from `a` carry poison? -/
def Mem.anyPoison (m : Mem) (sp a n : Nat) : Bool :=
  (List.range ((63 + (n + a)) / 64 - a / 64)).any (fun i => m.poisoned sp (a / 64 * 64 + 64 * i))
/-- Every line of a range taken up by a write and made dirty. -/
def Mem.soilRange (m : Mem) (pol a n : Nat) : Mem :=
  (List.range ((63 + (n + a)) / 64 - a / 64)).foldl (fun m i => m.soil pol (a / 64 + i)) m
/-- The poison bits of the lines that `n` bytes from `a` cover whole are cleared (R311). -/
def Mem.cleanRange (m : Mem) (sp a n : Nat) : Mem :=
  (List.range ((63 + (n + a)) / 64 - a / 64)).foldl
    (fun m i => let l := a / 64 * 64 + 64 * i
      if a ≤ l ∧ l + 64 ≤ a + n then m.setPoison sp l false else m) m
/-- Bytes stored from `a` on, under a POLICY (R254): the one operation that changes a byte of memory, discards and staging
apart. -/
def Mem.store (m : Mem) (sp a : Nat) (bs : List Byte) (pol : Nat := 0) : Mem :=
  let m := if sp = 0 then m.soilRange pol a bs.length else m
  (m.setTab sp (writeTab (m.tab sp) a bs)).cleanRange sp a bs.length
/-- A number stored in `n` bytes, little-endian (R9). -/
def Mem.write (m : Mem) (sp a n v : Nat) : Mem := m.store sp a (leBytes v n)
/-- The lines of a local range are taken up by a read under a POLICY (R254). -/
def Mem.touchRange (m : Mem) (pol a n : Nat) : Mem :=
  (List.range ((63 + (n + a)) / 64 - a / 64)).foldl (fun m i => m.touch pol (a / 64 + i)) m
/-- A read of a place takes up its lines, if it is local. -/
def Mem.readAt (m : Mem) (sp pol a n : Nat) : Mem := if sp = 0 then m.touchRange pol a n else m

/-- The form every memory keeps: addresses strictly rising, no listed byte equal to what an unlisted one reads as; and the
same of the poison bits. -/
def Mem.wf (m : Mem) : Bool :=
  Tab.canon 0 m.loc && Tab.canon 0 m.h0 && Tab.canon 0 m.h1 && Tab.canon 0 m.rem && Tab.canon false m.poison

/-! ### Address translation (R313 to R316) -/

/-- What an access wants of a page. -/
structure Acc where
  rd : Bool
  wr : Bool
  atomic : Bool
  code : Bool
  deriving DecidableEq, Repr

/-- A plain read, a plain write, an atomic, a copy into the instruction scratchpad. -/
def accRead : Acc := ⟨true, false, false, false⟩
def accWrite : Acc := ⟨false, true, false, false⟩
def accAtomic : Acc := ⟨true, true, true, false⟩
def accAmold : Acc := ⟨true, false, true, false⟩
def accCode : Acc := ⟨true, false, false, true⟩

/-- A translation: a memory and an address in it (a remote address carries its device above bit 42), with the
system-atomic attribute; or the reason of a failure: 0 NOTPRESENT, 1 PERMISSION, 2 MALFORMED, 3 RANGE (R315). -/
inductive Tr where
  | ok (sp addr : Nat) (sa : Bool)
  | fail (reason : Nat)
  deriving DecidableEq, Repr

/-- The bits of a page-table entry that make it malformed at a level (R314, R315). -/
def pteBad (p : W64) (lvl : Nat) : Bool :=
  let leaf := flag p 1
  let tgt := fld p 6 5
  flag p 7 || decide (fld p 63 62 ≠ 0) || (flag p 3 && !flag p 2) || (leaf && decide (lvl = 3)) ||
  (!leaf && decide (lvl = 0)) || (!leaf && decide (tgt ≠ 0)) || (decide (tgt ≠ 1) && decide (fld p 61 52 ≠ 0)) ||
  (!leaf && decide (fld p 51 42 ≠ 0)) ||
  (leaf && decide (tgt = 0) && decide (fld p 51 42 ≠ 0)) ||
  (if leaf then decide (p.toNat / 256 % 2 ^ 44 * 256 % (if lvl = 2 then 2 ^ 30 else if lvl = 1 then 2 ^ 21 else 2 ^ 16) ≠ 0)
   else decide (p.toNat / 256 % 2 ^ 44 * 256 % (if lvl = 3 then 65536 else if lvl = 2 then 4096 else 256) ≠ 0))

/-- The VA bits that index a level, and the size a leaf there maps (R313). -/
def lvlIndex (va lvl : Nat) : Nat :=
  match lvl with
  | 3 => bitsOf va 55 43
  | 2 => bitsOf va 42 30
  | 1 => bitsOf va 29 21
  | _ => bitsOf va 20 16
def leafSize (lvl : Nat) : Nat :=
  match lvl with
  | 2 => 2 ^ 30
  | 1 => 2 ^ 21
  | _ => 2 ^ 16

/-- The walk from table `t` down through `fuel` levels (R315): the leaf with the size it maps, or the reason. An entry in a
poisoned line is never read as data (R311): the walk fails for a reason `soft` that the spec does not state (log 26). -/
def walk (m : Mem) (soft t va : Nat) : Nat → Except Nat (W64 × Nat)
  | 0 => .error 2
  | lvl + 1 =>
    let p := BitVec.ofNat 64 (m.read 0 (t + 8 * lvlIndex va lvl) 8)
    if m.poisoned 0 (t + 8 * lvlIndex va lvl) then .error soft
    else if !flag p 0 then .error 0
    else if pteBad p lvl then .error 2
    else if flag p 1 then .ok (p, leafSize lvl)
    else walk m soft (p.toNat / 256 % 2 ^ 44 * 256) va lvl

/-- The permission and range tests at a leaf (R315, R326): `host` is the tenant's own host, `own` this device's number once a port
has trained: a leaf that names it lies in this device's own memory (R328; log 18). -/
def leafCheck (leaf : W64) (size va : Nat) (a : Acc) (host own : Option Nat) : Tr :=
  let t := fld leaf 6 5
  let dev := fld leaf 61 52
  let tgt := if t = 1 ∧ own = some dev then 0 else t
  let pa := leaf.toNat / 256 % 2 ^ 44 * 256 + va % size
  let pa := if t = 1 then pa % 2 ^ 42 else pa
  if (a.rd && !flag leaf 2) || (a.wr && !flag leaf 3) then .fail 1
  else if tgt = 0 ∧ localMapped pa = false then .fail 3
  else if tgt ≥ 2 ∧ (a.atomic || a.code) = true then .fail 3
  else if tgt ≥ 2 ∧ host ≠ some (tgt - 2) then .fail 3
  else .ok tgt (if tgt = 1 then dev * 2 ^ 42 + pa else pa) (flag leaf 4)

/-- Is Uli port `p` trained (R324, R327)? Both ports' blocks show it. -/
def Mach.uliUp (m : Mach) (p : Nat) : Bool := flag (m.portReg 0 (0x200 + 8 * p)) 0
/-- This device's number, once the switches have given one (R328). -/
def Mach.ownNo (m : Mach) : Option Nat := if (List.range 16).any m.uliUp then some m.deviceNo else none
/-- The reason of a walk that meets a poisoned line: free (R311; log 26). -/
def State.softReason (s : State) : Nat := (Config.freeWord s.mach.tick).toNat % 4

/-- The agent that serves a core: the L2 strip beside its row (R5, R316). Agents 0 to 15 are those of the strips, four to a die. -/
def agentOf (c : Nat) : Nat := dieOf c * 4 + c % 160 / 40
/-- The front end's own walks in the tables of die 0, which leave no entry (log 23), and a tier engine's, which any agent of its die
may serve, each for its strip's lines (R316). -/
def feAgent : Nat := 16
def engineAgent (die : Nat) : Nat := 20 + die
/-- The die in whose tables an agent walks. -/
def agentDie (g : Nat) : Nat := if g < 16 then g / 4 else g % 4
/-- May an access through agent `g` be served by this entry? -/
def TlbEntry.serves (e : TlbEntry) (g : Nat) : Bool :=
  if g < 16 then e.agent == g else decide (20 ≤ g) && e.agent / 4 == g % 4
/-- A device virtual address translated for an access through agent `g` (R315). An agent may still hold an entry
that an earlier walk brought; whether it does is a free value (R316; log 8). -/
def translate (s : State) (g asid va : Nat) (a : Acc) : Tr :=
  let host := Tab.get none s.mach.tenants asid
  let die := agentDie g
  if va ≥ 2 ^ 56 then .fail 3
  else if !flag (s.mach.dieReg die 0x300) 0 then .fail 0
  else
    match s.mach.tlb.find? (fun e => e.serves g && e.asid == asid && e.page == va / e.size) with
    | some e =>
      if Config.agentHolds s.mach.tick then leafCheck e.leaf e.size va a host s.mach.ownNo else walked die host
    | none => walked die host
where
  /-- The walk from the context table. -/
  walked (die : Nat) (host : Option Nat) : Tr :=
    let ctb := fld (s.mach.dieReg die 0x300) 41 16 * 65536
    let e := BitVec.ofNat 64 (s.mem.read 0 (ctb + 16 * asid) 8)
    if s.mem.poisoned 0 (ctb + 16 * asid) then .fail s.softReason
    else if !flag e 0 then .fail 0
    else match walk s.mem s.softReason (fld e 41 16 * 65536) va 4 with
      | .error r => .fail r
      | .ok (leaf, size) => leafCheck leaf size va a host s.mach.ownNo

/-- What a walk for this address brings into agent `g` (R316). -/
def tlbEntry (s : State) (g asid va : Nat) : Option TlbEntry :=
  let die := agentDie g
  let ctb := fld (s.mach.dieReg die 0x300) 41 16 * 65536
  let e := BitVec.ofNat 64 (s.mem.read 0 (ctb + 16 * asid) 8)
  if va ≥ 2 ^ 56 ∨ flag (s.mach.dieReg die 0x300) 0 = false ∨ s.mem.poisoned 0 (ctb + 16 * asid) = true ∨ flag e 0 = false then none
  else match walk s.mem s.softReason (fld e 41 16 * 65536) va 4 with
    | .error _ => none
    | .ok (leaf, size) => some ⟨g, asid, va / size, size, leaf⟩

/-- An agent takes up an entry; of its 2,048 it gives up the one it took first (R316; log 8). -/
def takeTlb (e : TlbEntry) (l : List TlbEntry) : List TlbEntry :=
  if l.contains e then l
  else if (l.filter (fun x => x.agent == e.agent)).length < 2048 then e :: l
  else e :: ((l.reverse.eraseP (fun x => x.agent == e.agent)).reverse)
/-- Agent `g` takes up the translation of an address (R316). -/
def noteTlb (s : State) (g asid va : Nat) (m : Mach) : Mach :=
  match tlbEntry s g asid va with
  | none => m
  | some e => { m with tlb := takeTlb e m.tlb }

/-- The bytes of a virtual range, each translated on its own page; `none` where one has no translation. -/
def readVa (s : State) (g asid va n : Nat) (a : Acc) : Except (Nat × Nat) (List Byte) :=
  go n 0
where
  /-- Byte by byte. -/
  go : Nat → Nat → Except (Nat × Nat) (List Byte)
    | 0, _ => .ok []
    | n + 1, i =>
      let v := (va + i) % 2 ^ 64
      match translate s g asid v a with
      | .fail r => .error (v, r)
      | .ok sp ad _ => match go n (i + 1) with
        | .ok bs => .ok (s.mem.byte sp ad :: bs)
        | .error e => .error e

/-- The first address of a virtual range without a translation for the access, page by page. -/
def firstUnmapped (s : State) (g asid va n : Nat) (a : Acc) : Option (Nat × Nat) :=
  (List.range ((65535 + (n + va)) / 65536 - va / 65536)).findSome? (fun i =>
    let v := if i = 0 then va else va / 65536 * 65536 + 65536 * i
    match translate s g asid v a with
    | .fail r => some (v, r)
    | .ok _ _ _ => none)

/-- A 64-bit word at a virtual address, zero where it has no translation. -/
def wordVa (s : State) (g asid va : Nat) : Nat :=
  match readVa s g asid va 8 accRead with
  | .ok bs => leNat bs
  | .error _ => 0

/-- Bytes stored at a virtual range; a byte without a translation for writing is not stored. -/
def storeVa (s : State) (g asid va : Nat) (bs : List Byte) (pol : Nat := 0) : Mem :=
  go bs 0 s.mem
where
  /-- In runs that do not cross a 64-byte granule, so that a run that covers its line whole clears its poison. -/
  go : List Byte → Nat → Mem → Mem
    | [], _, m => m
    | b :: t, i, m =>
      let v := (va + i) % 2 ^ 64
      match translate s g asid v accWrite with
      | .fail _ => go t (i + 1) m
      | .ok sp ad _ =>
        let m := m.store sp ad [b] pol
        go t (i + 1) (if v % 64 = 63 ∧ 63 ≤ i then m.setPoison sp ad false else m)

/-! ### The issue unit's choice (R62) -/

/-- The first READY context after `c`, in the order c + 1, c + 2, c + 3 (mod 4). -/
def Core.nextReady (k : Core) (c : Nat) : Option Nat :=
  [(c + 1) % 4, (c + 2) % 4, (c + 3) % 4].find? (fun x => decide ((k.ctx x).st = .ready))
/-- The issue unit takes context `x`; how long it stood READY is counted in RDYWAIT (R67). -/
def Core.selectCtx (k : Core) (x : Nat) : Core :=
  { k.upd x (fun c => { (if c.st = .ready then c.inc 0x5C (Config.coreAc k.seq 0x5C) else c) with st := .issuing }) with
    selected := some x }
/-- Is no context of the core ISSUING or READY (R67, IDLEAC)? -/
def Core.resting (k : Core) : Bool := ctxNums.all (fun x => decide ((k.ctx x).st ≠ .issuing ∧ (k.ctx x).st ≠ .ready))
/-- The issue unit moves if its context cannot issue and another is READY; with none selected the lowest-numbered
READY context is taken (R62). -/
def Core.reselect (k : Core) : Core :=
  match k.selected with
  | some c =>
    if (k.ctx c).st = .issuing then k
    else match k.nextReady c with
      | some y => k.selectCtx y
      | none => if (k.ctx c).st = .blocked then k else { k with selected := none }
  | none => match ctxNums.find? (fun x => decide ((k.ctx x).st = .ready)) with
    | some y => k.selectCtx y
    | none => k
/-- Contexts are about to become READY: the time in which none was ISSUING or READY is counted in IDLEAC (R67). -/
def Core.noteIdle (k : Core) : Core := if k.resting then k.incFree 0x52 else k
/-- A context becomes READY, or takes the issue unit when it is free for it (R62). -/
def Core.makeReady (k : Core) (x : Nat) : Core :=
  let k := k.noteIdle
  if k.selected = some x then k.selectCtx x else (k.upd x (fun c => { c with st := .ready })).reselect
/-- A context blocks for a cause, with the further counters `on` that the block moves; the issue unit goes to the next READY
context with one penalty ac, or stays (R62). -/
def Core.block (k : Core) (x : Nat) (cause : Cause) (on : List Nat) : Core :=
  let k := k.upd x (fun c => { c with st := .blocked, blk := some cause, blkOn := on })
  match k.nextReady x with
  | some y => (k.selectCtx y).inc 0x51 1
  | none => k
/-- The counter of a cause (R63). -/
def causeCounter (c : Cause) : Option Nat :=
  match c with
  | .queueFull => some 0x56
  | .presence => some 0x57
  | .barrier => some 0x58
  | .engine => some 0x59
  | .fence => some 0x5A
  | .mark => some 0xD2
/-- The counters that every ac of the context's block moves: its cause's own, and the others it is for. -/
def Ctx.blockCounters (x : Ctx) : List Nat := (x.blk.bind causeCounter).toList ++ x.blkOn
/-- `d` ac of a block are counted, the same number in each of its counters (R63, R114). -/
def Core.countBlock (k : Core) (x : Nat) (d : W64) : Core := (k.ctx x).blockCounters.foldl (fun k n => k.incAny x n d) k
/-- The block of a context is over after `d` ac. -/
def Core.endBlock (k : Core) (x : Nat) (d : W64) : Core :=
  (k.countBlock x d).upd x (fun c => { c with blk := none, blkOn := [] })
/-- The free number of ac of a block that ends at tick `t`. -/
def blockAc (t x : Nat) : W64 := acOf t (0x100 + x)
/-- A blocked context's cause has cleared (R62). -/
def Core.unblock (k : Core) (x t : Nat) : Core :=
  if (k.ctx x).st = .blocked then (k.endBlock x (blockAc t x)).makeReady x else k

/-! ### Taking an exception and returning (R303 to R309) -/

/-- A fault as an engine or a check finds it: code, part, slot fault or not, INFO and EADDR (R303, R304). -/
structure Trap where
  code : Nat
  part : Nat
  kind : Bool
  info : Nat
  eaddr : Nat
  deriving DecidableEq, Repr

/-- The codes of R302. -/
def cILLBUNDLE : Nat := 0x01
def cILLSLOT : Nat := 0x02
def cEXPERIMENTAL : Nat := 0x03
def cVRANGE : Nat := 0x04
def cFMTCLASH : Nat := 0x05
def cWRCONFLICT : Nat := 0x06
def cXBCOLL : Nat := 0x07
def cQBEYOND : Nat := 0x08
def cALIGN : Nat := 0x09
def cXLATE : Nat := 0x0A
def cSPAWNBUSY : Nat := 0x0B
def cGUARD : Nat := 0x0C
def cBAROVR : Nat := 0x0D
def cQLAP : Nat := 0x10
def cQPOISON : Nat := 0x11
def cRLCEXIT : Nat := 0x12
def cEPHMISS : Nat := 0x13
def cSOFTERR : Nat := 0x14
def cSWTRAP : Nat := 0x20
def cHDOUBLE : Nat := 0x30
def cNOVEC : Nat := 0x31
def cFETCHERR : Nat := 0x32

/-- ECAUSE of a fault (R303); INFO is given as the ECAUSE bits of R304. -/
def ecauseWord (code part : Nat) (kind : Bool) (info : Nat) : W64 :=
  BitVec.ofNat 64 (code % 256 + part % 8 * 256 + b2n kind * 2048 + info / 65536 * 65536)

/-- The first fatal fault of a core is kept (R309). -/
def Core.fatalFault (k : Core) (x code : Nat) (epc : W64) : Core :=
  if k.fatal.isSome then k else { k with fatal := some (x, code, epc) }

/-- TAKING AN EXCEPTION (R306, Enter): with no handler installed the fault is fatal; otherwise the trap registers
receive the record and the handler's first bundle is next. What held the context back does so again after ERET (R305). -/
def Core.enter (k : Core) (x : Nat) (r : FaultRec) : Core :=
  let c := k.ctx x
  if !flag (c.rC csrEVEC) 0 then k.fatalFault x cNOVEC r.bundle
  else
    let c := ((((c.wC csrECAUSE (ecauseWord r.code r.part r.kind r.info.toNat)).wC csrEADDR r.eaddr).wC csrEPC
      (BitVec.ofNat 64 (r.bundle.toNat % 2 ^ 18))).wC csrENEXT (BitVec.ofNat 64 (r.next.toNat % 2 ^ 18))).wC csrESLOTS
      (BitVec.ofNat 64 r.mask.toNat)
    let c := if r.code = cEPHMISS then c.inc 0xD1 1 else c
    let pc := BitVec.ofNat 64 (fld (c.rC csrEVEC) 17 3 * 8)
    let w : Waits := ⟨c.dbar, c.fence, c.ifence, c.markWait⟩
    k.setCtx x { (c.inc csrTRAPS 1) with inh := true, handling := some { r with seq := k.seq }, pc := pc, susp := some w, dbar := none, fence := none, ifence := false, markWait := none }

/-- An issue fault, an imprecise fault or a software trap of the bundle at `epc` (R301, R305, R307): it yields to a
waiting record; inside the handler it is fatal. -/
def Core.issueFault (k : Core) (x : Nat) (t : Trap) (epc : W64) : Core :=
  let c := k.ctx x
  if c.inh then k.fatalFault x cHDOUBLE epc
  else k.enter x ⟨epc, epc, 0, t.code, t.part, false, BitVec.ofNat 64 t.info, BitVec.ofNat 64 t.eaddr, 0, [], false⟩

/-- Records in issue order: a later fault of another part of one bundle joins its record, which keeps the cause of the first
(R303, R305). -/
def joinRec (r : FaultRec) : List FaultRec → List FaultRec
  | [] => [r]
  | w :: t =>
    if w.seq = r.seq ∧ w.bundle = r.bundle then
      { w with mask := w.mask ||| r.mask, parts := w.parts ++ r.parts } :: t
    else if r.seq < w.seq then r :: w :: t
    else w :: joinRec r t

/-- A slot fault of a part (R301, R305): it forms or joins a record. A context BLOCKED, whose
time of that is counted (R63), or HALTING becomes READY. Of a
part the handler issued it is fatal (R307). -/
def Core.slotFault (k : Core) (fl : Flight) (rt : Option Routine) (t : Trap) : Core :=
  let x := fl.iss.ctx
  let c := k.ctx x
  let since := match c.handling with
    | some r => decide (r.seq ≤ fl.iss.seq)
    | none => true
  if c.inh ∧ since = true ∧ fl.iss.redo = false then k.fatalFault x cHDOUBLE fl.iss.h
  else
    let r : FaultRec := ⟨fl.iss.h, if fl.iss.redo then fl.iss.next else c.pc, BitVec.ofNat 7 (2 ^ t.part), t.code, t.part,
      true, BitVec.ofNat 64 t.info, BitVec.ofNat 64 t.eaddr, fl.iss.seq, [⟨fl, rt⟩], c.inh && !fl.iss.redo⟩
    let wait := match c.wait with
      | some w => if partNo w.i = t.part ∧ w.iss.seq = fl.iss.seq then none else some w
      | none => none
    let k := k.setCtx x { c with waiting := joinRec r c.waiting, wait := wait }
    if c.inh then k
    else match c.st with
    | .blocked => (k.endBlock x (Config.coreAc fl.iss.seq (0x100 + x))).makeReady x
    | .halting => k.makeReady x
    | _ => k

/-- Where ERET goes on, from the CSRs as they stood before its bundle: at EPC after a fault of KIND 0, at ENEXT after a slot
fault (R70, R79, R306). -/
def eretNext (csr : Tab W64) : W64 :=
  if flag (Tab.get 0 csr csrECAUSE) 11 then Tab.get 0 csr csrENEXT else Tab.get 0 csr csrEPC
/-- RETURNING (R306) to the address `pc`: INH clears. The parts to re-execute and to abandon are the record's, by the bits still set in ESLOTS. A record formed meanwhile
goes on there too (R305). -/
def Core.eret (k : Core) (x : Nat) (pc : W64) : Core :=
  let c := k.ctx x
  let w := c.susp.getD ⟨none, none, false, none⟩
  let later := c.waiting.map (fun r => if r.inner then { r with next := pc, inner := false } else r)
  k.setCtx x { c with inh := false, handling := none, pc := pc, waiting := later, susp := none, dbar := w.dbar, fence := w.fence, ifence := w.ifence, markWait := w.mark }

/-- The parts of the record being handled that ERET re-executes, and those it abandons, by the bits that ESLOTS held before
ERET's bundle (R79, R92, R127, R306). -/
def Ctx.residue (c : Ctx) (eslots : W64) : List FaultPart × List FaultPart :=
  match c.handling with
  | none => ([], [])
  | some r =>
    let set := fun (fp : FaultPart) => flag eslots (partNo fp.fl.i)
    (r.parts.filter set, r.parts.filter (fun fp => !set fp))
/-- The parts that the records of a context hold, each with whether its AR bit is still to arrive (R228). -/
def Ctx.heldParts (c : Ctx) : List (Bool × FaultPart) :=
  (c.handling.toList.flatMap (fun r => r.parts.map (fun fp => (flag (c.rC csrESLOTS) (partNo fp.fl.i), fp)))) ++
  c.waiting.flatMap (fun r => r.parts.map (fun fp => (true, fp)))
/-- The parts whose work is still owed: the handler has not cleared their bits (R303). -/
def Ctx.owed (c : Ctx) : List FaultPart := (c.heldParts.filter (·.1)).map (·.2)
/-- A save has stopped the core (R296). -/
def Mach.saving (m : Mach) (c : Nat) : Bool := m.saves.any (fun r => r.core == c && r.stopped)

end Sys2Proof.Machine
end

