-- ==== Sys2Proof/Machine/Queues.lean ====
section
/-! DEFINITION. Operand queues: the helpers of R85, reading, filling and reclaiming positions (R87 to R92), the
messages of a splice (R93 to R97), and the operand scratchpad with its guard granules (R115, R118). -/
namespace Sys2Proof.Machine
open Sys2Proof

/-! ### R85 -/

/-- Capacity in slots. -/
def Queue.cap (q : Queue) : Nat := 2 ^ q.logcap.toNat
/-- Positions count modulo 4 times the capacity. -/
def Queue.wrap (q : Queue) (x : Nat) : Nat := x % (4 * q.cap)
/-- The number of positions from `a` up to `b`. -/
def Queue.dist (q : Queue) (a b : Nat) : Nat := (b + 4 * q.cap - a % (4 * q.cap)) % (4 * q.cap)
/-- The slot of a position. -/
def Queue.slotOf (q : Queue) (p : Nat) : Nat := q.base.toNat + p % q.cap
/-- The lap of a position. -/
def Queue.lapOf (q : Queue) (p : Nat) : Nat := p / q.cap
/-- How many positions offsets may name. -/
def Queue.readable (q : Queue) : Nat :=
  if !q.alloc then 0
  else match q.role with
    | .loc => q.dist q.ihead q.tail
    | .target => q.cap
    | .producer => 0
/-- Where room is counted from. -/
def Queue.roomHead (q : Queue) : Nat := if q.role = .producer then q.shead else q.ihead
/-- The record of a position. -/
def Queue.cell (q : Queue) (p : Nat) : PosRec := Tab.get PosRec.zero q.pos p
/-- The record of a position replaced. -/
def Queue.setRec (q : Queue) (p : Nat) (r : PosRec) : Queue := { q with pos := Tab.set PosRec.zero q.pos p r }
/-- The state of a position (R84): FREE outside HEAD to TAIL, EMPTY until filled. -/
def Queue.stateAt (q : Queue) (p : Nat) : PSt :=
  if q.dist q.head p < q.dist q.head q.tail then
    (if (q.cell p).st = .free then .empty else (q.cell p).st)
  else .free
/-- State codes (R84). -/
def PSt.code (s : PSt) : Nat :=
  match s with
  | .free => 0
  | .empty => 1
  | .present => 2
  | .void => 3
  | .poison => 4
  | .consumed => 5
/-- The state of a code; 6 and 7 are never held. -/
def PSt.ofCode (n : Nat) : PSt :=
  match n with
  | 1 => .empty
  | 2 => .present
  | 3 => .void
  | 4 => .poison
  | 5 => .consumed
  | _ => .free
/-- Role codes (R83). -/
def Role.code (r : Role) : Nat :=
  match r with
  | .loc => 0
  | .producer => 1
  | .target => 2

/-- Queue `n` of a context. -/
def Ctx.queue (x : Ctx) (n : Nat) : Queue := Tab.get Queue.zero x.queues n
/-- Queue `n` replaced. -/
def Ctx.setQueue (x : Ctx) (n : Nat) (q : Queue) : Ctx := { x with queues := Tab.set Queue.zero x.queues n q }
/-- Queue `n` of context `x` of a core. -/
def Core.queue (k : Core) (x n : Nat) : Queue := (k.ctx x).queue n
/-- Queue `n` of context `x` changed. -/
def Core.onQueue (k : Core) (x n : Nat) (f : Queue → Queue) : Core := k.upd x (fun c => c.setQueue n (f (c.queue n)))

/-! ### Issue: marks and reservations (R87) -/

/-- IHEAD moves over marked positions (R87, step 2). -/
def Queue.passMarks (q : Queue) : Nat → Queue
  | 0 => q
  | f + 1 => if (q.cell q.ihead).marked then { q with ihead := q.wrap (q.ihead + 1) }.passMarks f else q
/-- A source at position `p` is taken up: one more read is outstanding, and a last-use mark sets MARKED. -/
def Queue.takeRead (q : Queue) (p : Nat) (last : Bool) : Queue :=
  let r := q.cell p
  q.setRec p { r with reads := r.reads + 1, marked := r.marked || last }
/-- One position reserved at the tail by bundle `seq`; it reads EMPTY until filled. A producer end counts in the target's positions and
holds none of its own (R93), but knows whose they are. -/
def Queue.reserve (seq : Nat) (q : Queue) : Queue :=
  let p := q.tail
  let q := q.setRec p ⟨if q.role = .producer then .free else .empty, false, 0, some seq⟩
  { q with tail := q.wrap (p + 1) }
/-- Is there room for `n` appends (R87)? -/
def Queue.hasRoom (q : Queue) (n : Nat) : Bool :=
  decide (n = 0) ||
  (decide (q.dist q.roomHead q.tail + n ≤ q.cap) && !(decide (q.role = .producer) && (q.frozen || q.freezing)))

/-! ### Reading and reclaiming (R89) -/

/-- What a read of a position finds. -/
inductive Rd where
  | wait
  | lap
  | poison (code addr : Nat)
  | void
  | data (t : Tile)
  deriving DecidableEq, Repr

/-- ReadSlot up to taking the data (R89). A POISON slot's record is its first 16 bytes (R91). -/
def Core.peek (k : Core) (x n p : Nat) : Rd :=
  let q := k.queue x n
  let s := q.slotOf p
  let st := (q.cell p).st
  let d := (Tab.get 0 k.spad s).toNat
  if q.stateAt p = .empty ∨ q.role = .target ∧ q.dist q.head p ≥ q.dist q.head q.tail then .wait
  else if Tab.get 0 k.lap s ≠ q.lapOf p then .lap
  else match st with
    | .poison => .poison (bitsOf d 7 0) (bitsOf d 127 64)
    | .void => .void
    | _ => .data (Tab.get 0 k.spad s)
/-- One read of a position is complete. -/
def Core.doneRead (k : Core) (x n p : Nat) : Core :=
  k.onQueue x n (fun q => let r := q.cell p; q.setRec p { r with reads := r.reads - 1 })
/-- AdvanceHead without its message (R89). -/
def Queue.passConsumed (q : Queue) : Nat → Queue
  | 0 => q
  | f + 1 =>
    if q.dist q.head q.ihead > 0 ∧ (q.cell q.head).st = .consumed then
      { q.setRec q.head PosRec.zero with head := q.wrap (q.head + 1) }.passConsumed f
    else q
/-- A queue address as the 15 bits of its word (R101). -/
def QAddr.word (a : QAddr) : Nat := a.core % 1024 + a.ctx % 4 * 1024 + a.q % 8 * 4096
/-- The queue a partner word names. -/
def QAddr.ofWord (w : Nat) : QAddr := ⟨bitsOf w 9 0, bitsOf w 11 10, bitsOf w 14 12⟩
/-- The target advertises its HEAD to the producer end (R95). -/
def Core.advertise (k : Core) (x n : Nat) : Core :=
  let q := k.queue x n
  if q.role = .target ∧ q.frozen = false ∧ q.freezing = false then
    Core.inc { k with out := k.out ++ [Msg.head (QAddr.ofWord q.partner.toNat) q.head] } 0x73 1
  else k
/-- AdvanceHead (R89): SHEAD of a queue that is no producer end equals HEAD (R83). -/
def Core.advanceHead (k : Core) (x n : Nat) : Core :=
  let q := k.queue x n
  let q' := q.passConsumed (4 * q.cap)
  let k := k.onQueue x n (fun _ => if q.role = .producer then q' else { q' with shead := q'.head })
  if q'.head = q.head then k else k.advertise x n
/-- A marked read of a position completes: it becomes CONSUMED and the head advances (R89). -/
def Core.consume (k : Core) (x n p : Nat) : Core :=
  (k.onQueue x n (fun q => let r := q.cell p; q.setRec p { r with st := .consumed })).advanceHead x n
/-- May the marked position become CONSUMED: filled, and every read of it complete? -/
def Queue.canConsume (q : Queue) (p : Nat) : Bool :=
  let r := q.cell p
  q.alloc && r.marked && decide (r.reads = 0) && decide (q.dist q.head p < q.dist q.head q.tail) &&
  decide (r.st = .present ∨ r.st = .void ∨ r.st = .poison)

/-! ### Filling (R90, R93) -/

/-- The poison record of R91. -/
def poisonTile (code addr : Nat) : Tile := BitVec.ofNat 32768 (code % 256 + addr % 2 ^ 64 * 2 ^ 64)
/-- TAIL of a target moves over landed positions, strictly in order (R93); the count of released ones is kept. -/
def Queue.release (q : Queue) : Nat → Queue × Nat
  | 0 => (q, 0)
  | f + 1 =>
    let st := (q.cell q.tail).st
    if q.dist q.head q.tail < q.cap ∧ (st = .present ∨ st = .void ∨ st = .poison) then
      let r := { q with tail := q.wrap (q.tail + 1) }.release f
      (r.1, r.2 + 1)
    else (q, 0)
/-- May a fill of `p` land: is the slot's earlier position free (R90)? -/
def Queue.canFill (q : Queue) (p : Nat) : Bool := decide (q.dist q.head p < q.cap)
/-- Bytes of a tile replaced by the low ones of `v`. -/
def putBytes (t : Tile) (a n v : Nat) : Tile := BitVec.ofNat 32768 (setField t.toNat (a % 4096 * 8) (8 * n) v)
/-- The races over bytes of slot `s`. -/
def Core.racesAt (k : Core) (s : Nat) : List (Nat × Nat × Nat) := k.raced.filter (fun r => decide (r.1 / 4096 = s))
/-- A tile that lands in slot `s`: bytes over which an STSP raced are undefined, hence free (R115; log 6). -/
def Core.landed (k : Core) (s : Nat) (t : Tile) : Tile :=
  (k.racesAt s).foldl (fun t r => putBytes t r.1 r.2.1 (Config.lateTile r.2.2 0).toNat) t
/-- The bytes of slot `s` are written anew: they are sound again (R310; log 26). -/
def Core.soundSlot (k : Core) (s : Nat) : Core :=
  { k with poisoned := k.poisoned.filter (fun e => !(e.1 == .spadBytes && e.2 / 4096 == s)) }
/-- Fill (R90): data into the slot, lap tag and state. The MARKED bit and outstanding reads stand. -/
def Core.land (k : Core) (x n p : Nat) (st : PSt) (t : Tile) : Core :=
  let q := k.queue x n
  let s := q.slotOf p
  let k := if st = .present ∨ st = .poison then { k.soundSlot s with spad := Tab.set 0 k.spad s (k.landed s t) } else k
  let k := { k with raced := k.raced.filter (fun r => decide (r.1 / 4096 ≠ s)) }
  ({ k with lap := Tab.set 0 k.lap s (q.lapOf p) }).onQueue x n
    (fun q => let r := q.cell p; q.setRec p { r with st := st })
/-- An append's fill: at a producer end it leaves for the target (R93); else it lands at once if its slot is free, and
waits otherwise (R90). A fill of a freed queue is dropped (R99). -/
def Core.fill (k : Core) (core x n p : Nat) (st : PSt) (t : Tile) (seq : Nat) (rt : Option Nat) : Core :=
  let q := k.queue x n
  if q.role = .producer then
    let m := Msg.append (QAddr.ofWord q.partner.toNat) ⟨core, x, n⟩ seq p st (if st = .void then 0 else t) false false
    Core.inc { k with out := k.out ++ [m] } 0x71 1
  else if q.canFill p then k.land x n p st t
  else { k with fills := k.fills ++ [⟨x, n, p, st, t, rt⟩] }

/-! ### The operand scratchpad (R115, R118) -/

/-- Bytes of the operand scratchpad. -/
def Core.spBytes (k : Core) (a n : Nat) : List Byte :=
  (List.range n).map (fun i => BitVec.ofNat 8 (elemAt (Tab.get 0 k.spad ((a + i) / 4096)).toNat ((a + i) % 4096) 8))
/-- Bits of the operand scratchpad counted from a bank's start: `w` bits from bit `b`. -/
def Core.spBits (k : Core) (bank b w : Nat) : Nat :=
  leNat (k.spBytes (bank * 0x10000 + b / 8) ((b % 8 + w + 7) / 8)) / 2 ^ (b % 8) % 2 ^ w
/-- Bytes stored into the operand scratchpad; positions, states and lap tags stand (R115). A byte written anew is sound
again (R310; log 26). -/
def Core.spStore (k : Core) (a : Nat) : List Byte → Core
  | [] => k
  | b :: bs =>
    let s := a / 4096
    { k with spad := Tab.set 0 k.spad s (putBytes (Tab.get 0 k.spad s) a 1 b.toNat), poisoned := k.poisoned.filter (fun e => e != (ErrPlace.spadBytes, a)) }.spStore (a + 1) bs
/-- The slots of positions that operations at work fill or, in tile operations, read: fills that wait, vector and crossbar
parts, copies in (R115, R184). -/
def Core.slotsAtWork (k : Core) : List Nat :=
  let slot := fun (x q p : Nat) => let z := k.queue x q; if z.role = .producer then [] else [z.slotOf p]
  k.fills.flatMap (fun f => slot f.ctx f.q f.pos) ++
  k.vparts.flatMap (fun v => let n := partNo v.fl.i
    (v.fl.iss.reads.filter (fun r => r.part == n)).flatMap (fun r => slot v.fl.iss.ctx r.q r.pos) ++
    (v.fl.iss.dests.filter (fun d => d.part == n)).flatMap (fun d => slot v.fl.iss.ctx d.q d.pos)) ++
  k.cq.flatMap (fun c => (c.fl.iss.dests.filter (fun d => d.part == 6)).flatMap (fun d => slot c.fl.iss.ctx d.q d.pos))
/-- The slots of core `c` that appends of other cores on their way to a target end fill (R93, R115). -/
def Mach.slotsAwaited (m : Mach) (c : Nat) : List Nat :=
  m.cores.flatMap (fun e => e.2.out.filterMap (fun g => match g with
    | .append dst _ _ pos _ _ _ _ =>
      let q := (m.core c).queue dst.ctx dst.q
      if dst.core = c ∧ q.alloc = true then some (q.slotOf pos) else none
    | _ => none))
/-- Does a run of bytes meet one of some slots? -/
def meetsSlot (l : List Nat) (a n : Nat) : Bool := l.any (fun s => decide (s * 4096 < a + n ∧ a < s * 4096 + 4096))

/-- The allotments of a core: context, first slot, slots (R86); a controller's run is context 4 (R267). -/
def Core.allotments (k : Core) : List (Nat × Nat × Nat) :=
  (ctxNums.flatMap (fun x => (List.range 8).filterMap (fun n =>
    let q := k.queue x n
    if q.alloc then some (x, q.base.toNat, q.cap) else none))) ++
  (match k.rlcSlots with
   | some b => [(4, b, 32)]
   | none => [])
/-- Does slot `s` belong to an allotment? -/
def Core.slotTaken (k : Core) (s : Nat) : Bool := k.allotments.any (fun a => decide (a.2.1 ≤ s ∧ s < a.2.1 + a.2.2))
/-- Is a byte in an armed guard granule (R86, R118)? A controller's run arms none. -/
def Core.guarded (k : Core) (a : Nat) : Bool :=
  k.allotments.any (fun (x, b, n) => decide (x < 4) &&
    (decide (b > 0 ∧ b * 4096 - 64 ≤ a ∧ a < b * 4096) ||
     decide (b + n < 256 ∧ (b + n) * 4096 ≤ a ∧ a < (b + n) * 4096 + 64)))
/-- Does an access lie wholly inside the context's own allotments (R118)? -/
def Core.ownSlots (k : Core) (x a n : Nat) : Bool :=
  (List.range n).all (fun i => k.allotments.any (fun (y, b, c) =>
    decide (y = x ∧ b * 4096 ≤ a + i ∧ a + i < (b + c) * 4096)))
/-- The first byte of an access that touches an armed granule, if the access is flagged (R118). -/
def Core.flagged (k : Core) (x a n : Nat) : Option Nat :=
  if k.ownSlots x a n then none
  else ((List.range n).find? (fun i => k.guarded (a + i))).map (· + a)
/-- A flagged access is recorded in GUARDST (R118). -/
def Core.noteGuard (k : Core) (x a n : Nat) (wr : Bool) : Core :=
  match k.flagged x a n with
  | none => k
  | some b => k.upd x (fun c =>
    let g := c.rC csrGUARDST
    let g1 : Nat := if flag g 20 then g.toNat % 2 ^ 32 else
      b / 0x10000 + b % 0x10000 * 16 + 2 ^ 20 + b2n wr * 2 ^ 21
    let cnt := if flag g 20 then Nat.min 0xFFFF (fld g 47 32 + 1) else 1
    c.wC csrGUARDST (BitVec.ofNat 64 (g1 + cnt * 2 ^ 32)))

/-- FMTn (R116). -/
def Core.fmtReg (k : Core) (n : Nat) : W64 := k.rC (0x80 + n)
/-- The bank register under a queue's slots (R86: one format over the allotment). An unallotted queue, which has no banks, is read as
one at slot 0 (R117; log 49); check 8 refuses what names it. -/
def Core.queueFmt (k : Core) (x n : Nat) : W64 := k.fmtReg ((k.queue x n).base.toNat / 16)
/-- The value of every FMT register. -/
def Core.fmts (k : Core) : Tab W64 := (List.range 16).map (fun n => (n, k.fmtReg n))
/-- The format of a bank register (R116). -/
def fmtOf (r : W64) : Fmt := (Fmt.ofCode (fld r 3 0)).getD .raw
/-- The BIAS of a bank register, signed (R116). -/
def biasOf (r : W64) : Int := sext (fld r 11 4) 8

/-! ### Finding and freeing runs (R86, R102) -/

/-- Is a run of slots free and of one format? -/
def Core.runFree (k : Core) (b n : Nat) : Bool := (List.range n).all (fun i => !k.slotTaken (b + i))
def Core.runOneFmt (k : Core) (b n : Nat) : Bool :=
  (List.range n).all (fun i => k.fmtReg ((b + i) / 16) == k.fmtReg (b / 16))
/-- The lowest aligned free run with one format (R102). -/
def Core.lowestRun (k : Core) (n : Nat) : Option Nat :=
  ((List.range (256 / n)).map (· * n)).find? (fun b => k.runFree b n && k.runOneFmt b n)

end Sys2Proof.Machine
end

