-- ==== Sys2Proof/Machine/Bars.lean ====
section
/-! DEFINITION. Transaction barriers: handles, landings, arrivals and phases (R224, R225, R228). -/
namespace Sys2Proof.Machine
open Sys2Proof

/-- Barrier `n` of a core. -/
def Core.bar (k : Core) (n : Nat) : Barrier := Tab.get Barrier.zero k.bars n
/-- Barrier `n` replaced. -/
def Core.setBar (k : Core) (n : Nat) (b : Barrier) : Core := { k with bars := Tab.set Barrier.zero k.bars n b }
/-- The pending byte count (R224). -/
def Barrier.pending (b : Barrier) : Nat := b.expb + b.xtrab - b.landb
/-- Check(b): a phase completes (R225). -/
def Barrier.check (b : Barrier) : Barrier :=
  if b.armed ∧ b.arrcnt = b.exparr ∧ b.landb = b.expb + b.xtrab then
    { b with epoch := (b.epoch + 1) % 65536, arrcnt := 0, landb := 0, xtrab := 0 }
  else b
/-- Land(b, n): a copy's bytes (R225). -/
def Barrier.land (b : Barrier) (n : Nat) : Barrier :=
  if b.ovr then b
  else if b.landb + n > b.expb + b.xtrab then { b with landb := b.expb + b.xtrab, ovr := true }
  else { b with landb := b.landb + n }.check
/-- Arrive(b, n): AR bits and BARARR (R225). -/
def Barrier.arrive (b : Barrier) (n : Nat) : Barrier :=
  if b.ovr then b
  else if b.arrcnt + n > b.exparr then { b with arrcnt := b.exparr, ovr := true }
  else { b with arrcnt := b.arrcnt + n }.check
/-- Reached(b, h): the phase the handle names is complete (R225). -/
def Barrier.reached (b : Barrier) (wepoch : Nat) : Bool := decide ((b.epoch + 65536 - wepoch % 65536) % 65536 < 2 ^ 15)

/-- A handle (R224). -/
def handleWord (n gen wepoch : Nat) : W64 := BitVec.ofNat 64 (n + gen * 64 + 2 ^ 22 + wepoch * 2 ^ 23)
/-- WEPOCH of a handle. -/
def wepochOf (h : W64) : Nat := fld h 38 23
/-- The barrier a handle names, if the handle is valid (R224). -/
def Core.handle (k : Core) (h : W64) : Option Nat :=
  let b := k.bar (fld h 5 0)
  if fld h 63 39 = 0 ∧ flag h 22 = true ∧ b.alloc = true ∧ b.gen = fld h 21 6 ∧ b.refcnt > 0 then some (fld h 5 0) else none
/-- A barrier changed; one that enters OVERRUN is counted (R229). -/
def Core.onBar (k : Core) (n : Nat) (f : Barrier → Barrier) : Core :=
  let b := k.bar n
  let b' := f b
  let k := k.setBar n b'
  if !b.ovr && b'.ovr then k.inc 0xBB 1 else k
/-- Bytes of a copy count on its barrier (R221). -/
def Core.landOn (k : Core) (bar : Option Nat) (n : Nat) : Core :=
  match bar with
  | none => k
  | some b => k.onBar b (fun x => x.land n)
/-- The first translation fault of a copy is recorded on its barrier (R221). -/
def Core.faultOn (k : Core) (bar : Option Nat) (va : Nat) : Core :=
  match bar with
  | none => k
  | some b => k.onBar b (fun x => if x.fault then x else { x with fault := true, faddr := va % 2 ^ 56 })
/-- OutOfRange(m): saturating (R215). -/
def Core.outOfRange (k : Core) (bar : Option Nat) (m : Nat) : Core :=
  match bar with
  | none => k
  | some b => k.onBar b (fun x => { x with oorcnt := Nat.min 0xFFFF (x.oorcnt + m) })
/-- VFAIL of a CPVER's barrier (R217). -/
def Core.verFail (k : Core) (bar : Option Nat) : Core :=
  match bar with
  | none => k
  | some b => k.onBar b (fun x => { x with vfail := Nat.min 0xFFFF (x.vfail + 1) })
/-- An AR part retires: its arrival waits to be made (R228). -/
def Core.retireAr (k : Core) (bar : Option Nat) : Core :=
  match bar with
  | none => k
  | some b => { k with arrivals := k.arrivals ++ [b] }
/-- A part of a bundle retires; its AR bit arrives on the barrier ABR named at issue (R17, R228). -/
def Core.retire (k : Core) (fl : Flight) : Core := if arOf fl.i then k.retireAr fl.iss.abr else k
/-- The barrier BARREG of a CP part named when it issued (R209). -/
def cpBarOf (f : Flight) : Option Nat :=
  match view f.i with
  | .cp _ _ p => if p.barReg = 0 then none else some (fld (f.iss.pre.rS p.barReg.toNat) 5 0)
  | _ => none
/-- Does some issued copy or AR part still name the barrier (R224)? -/
def Core.barNamed (k : Core) (n : Nat) : Bool :=
  let ar := fun (f : Flight) => (arOf f.i && f.iss.abr == some n) || cpBarOf f == some n
  let cp := fun (c : Copy) => c.bar == some n || c.arr == some n
  k.cq.any cp || (List.range 8).any (fun i => ((Tab.get none k.parked i).map cp).getD false) || k.arrivals.contains n ||
  k.vparts.any (fun v => ar v.fl) || k.rq.any (fun r => ar r.fl) || k.loads.any ar || k.atomics.any ar ||
  k.stores.any (fun p => ar p.fl) || (k.divider.map ar).getD false ||
  ctxNums.any (fun x => let c := k.ctx x
    (c.wait.map ar).getD false || c.waiting.any (fun r => r.parts.any (fun p => ar p.fl)) ||
    (c.handling.map (fun r => r.parts.any (fun p => ar p.fl))).getD false)
/-- A barrier without references that nothing issued names frees: its generation rises (R224, R226). -/
def Core.freeBar (k : Core) (n : Nat) : Core :=
  let b := k.bar n
  if b.alloc ∧ b.refcnt = 0 ∧ k.barNamed n = false then k.setBar n { Barrier.zero with gen := (b.gen + 1) % 65536 } else k
def Core.freeBars (k : Core) : Core := (k.bars.map (·.1)).foldl Core.freeBar k
/-- Free barriers of the pool (R229). -/
def Core.barsFree (k : Core) : Nat := ((List.range 64).filter (fun n => !(k.bar n).alloc)).length

end Sys2Proof.Machine
end

