-- ==== Sys2Proof/Machine/Flags.lean ====
section
/-! DEFINITION. What the machine has in place of flags: the compares that write predicates and masks (R68, R69, R186). -/
namespace Sys2Proof.Machine
open Sys2Proof

/-- The six integer compares in code order EQ, NE, LT, LTU, LE, LEU, of two values of width `w` (R68); `uns` reads the
signed ones as unsigned, as UINT8 has it (R186). -/
def intCmp (op : Nat) (x y w : Nat) (uns : Bool) : Bool :=
  let sx : Int := if uns then (zext x w : Int) else sext x w
  let sy : Int := if uns then (zext y w : Int) else sext y w
  match op with
  | 0 => decide (zext x w = zext y w)
  | 1 => decide (zext x w ≠ zext y w)
  | 2 => decide (sx < sy)
  | 3 => decide (zext x w < zext y w)
  | 4 => decide (sx ≤ sy)
  | _ => decide (zext x w ≤ zext y w)

/-- The four float compares in code order EQ, LT, LE, UN (R186). -/
def floatCmp (op : Nat) (a b : Val) : Bool :=
  match op with
  | 0 => a.eqv b
  | 1 => a.lt b
  | 2 => a.lt b || a.eqv b
  | _ => a.isNan || b.isNan

/-- COMB of the scalar compares: replace, AND into or OR into the predicate's old value (R68). -/
def combine (comb : Nat) (old t : Bool) : Bool :=
  match comb with
  | 1 => t && old
  | 2 => t || old
  | _ => t

/-- The predicate operations PAND, POR, PXOR, PANDN, PMOV in code order (R69). -/
def predOp (op : Nat) (a b : Bool) : Bool :=
  match op with
  | 0 => a && b
  | 1 => a || b
  | 2 => a != b
  | 3 => a && !b
  | _ => a

/-- A mask element (R186). -/
def maskElem (t : Bool) (e : Nat) : Nat := if t then 2 ^ e - 1 else 0

end Sys2Proof.Machine
end

