-- ==== Sys2Proof/Machine/Operands.lean ====
section
/-! DEFINITION. Operand forms: scalar sources (R31), vector and crossbar sources and destinations (R183), element types
and bank formats (R116, R117), rounding and saturation (R27, R140). -/
namespace Sys2Proof.Machine
open Sys2Proof

/-! ### Scalar operands -/

/-- Bits of the constant bank: `w` bits from byte `b`, read as consecutive bytes (R31). -/
def constBits (bank : Tile) (b w : Nat) : Nat := bank.toNat / 2 ^ (8 * b) % 2 ^ w

/-- A 64-bit scalar operand as it stood before the bundle: a scalar, 8 bytes of the constant bank, or a literal (R31). -/
def scalarOp (r : Regs) (bank : Tile) (c : Cw) (d : Desc) : W64 :=
  match d with
  | .sreg n => r.rS n.toNat
  | .cbank b => BitVec.ofNat 64 (constBits bank b.toNat 64)
  | .lit false => c.lit0
  | .lit true => c.lit1
  | .vreg _ => 0
  | .queue .. => 0

/-- An optional scalar operand; left out it is zero (R124, R226). -/
def scalarOpt (r : Regs) (bank : Tile) (c : Cw) (d : Desc) : W64 :=
  if d = Desc.zero then 0 else scalarOp r bank c d

/-- The scalar a destination names; a queue system operation may leave it out (R101). -/
def dstReg (d : Desc) : Nat :=
  match d with
  | .sreg n => n.toNat
  | _ => 0

/-! ### Element types and bank formats (R117) -/

/-- The queue a descriptor names. -/
def queueOf (d : Desc) : Option Nat :=
  match d with
  | .queue q _ _ => some q.toNat
  | _ => none
/-- Does ETYPE govern the sources, and does it govern the destination (R117)? A mask source and the second type of a
conversion stand apart. -/
def governed (o : Nat) (p : Part) : List Desc :=
  let dst := (destOf o p).toList
  if o = 0x240 ∨ o = 0x150 ∨ o = 0x151 ∨ o = 0x242 ∨ o = 0x308 ∨ o = 0x309 then dst
  else if 0x120 ≤ o ∧ o ≤ 0x125 ∨ 0x220 ≤ o ∧ o ≤ 0x223 then sources o p
  else if 0x140 ≤ o ∧ o ≤ 0x143 then (sources o p).drop 1 ++ dst
  else sources o p ++ dst
/-- The banks' format of a queue of the context. -/
def bankFmt (k : Core) (x q : Nat) : Fmt := fmtOf (k.queueFmt x q)
/-- The operation's element type; `none` is FMTCLASH (R117). -/
def opFmt (k : Core) (x o : Nat) (p : Part) : Option Fmt :=
  let fs := (governed o p).filterMap (fun d => (queueOf d).map (bankFmt k x))
  if p.cw.etype ≠ 0 then
    match Fmt.ofCode p.cw.etype.toNat with
    | some f => if fs.all (· = f) then some f else none
    | none => none
  else match fs with
    | [] => none
    | f :: t => if f ≠ .raw ∧ t.all (· = f) ∧ (opInfo o).ety.contains f.code then some f else none
/-- The source format of VCVT (R190); `none` is FMTCLASH. -/
def cvtSrcFmt (k : Core) (x : Nat) (p : Part) : Option Fmt :=
  let code := p.cw.aux.toNat % 16
  let q := (queueOf p.cw.src1).map (bankFmt k x)
  if code ≠ 0 then
    match Fmt.ofCode code, q with
    | some f, none => some f
    | some f, some b => if f = b then some f else none
    | none, _ => none
  else match q with
    | some b => if b ≠ .raw ∧ b ≠ .mod64 then some b else none
    | none => none
/-- An integer format of element width `e`. -/
def isIntOfWidth (f : Fmt) (e : Nat) : Bool := f.isInt && f.width == e
/-- The formats that the queue operands ETYPE does not govern must hold (R186, R188, R190, R191, R204). -/
def othersOk (k : Core) (x o : Nat) (p : Part) (f : Fmt) : Bool :=
  let want := fun (d : Desc) (ok : Fmt → Bool) => ((queueOf d).map (fun q => ok (bankFmt k x q))).getD true
  let srcs := fun (ok : Fmt → Bool) => (sources o p).all (fun d => want d ok)
  if o = 0x240 then (cvtSrcFmt k x p).isSome
  else if o = 0x150 ∨ o = 0x151 then srcs (· = .int32)
  else if o = 0x242 then srcs (· = .fp32)
  else if o = 0x308 then srcs (fun b => b = .int64 ∨ b = .mod64)
  else if o = 0x309 then srcs (· = .mod64)
  else if 0x120 ≤ o ∧ o ≤ 0x125 ∨ 0x220 ≤ o ∧ o ≤ 0x223 then want p.cw.dst (fun b => isIntOfWidth b f.width)
  else if 0x140 ≤ o ∧ o ≤ 0x143 then want p.cw.src1 (fun b => isIntOfWidth b f.width)
  else true
/-- Check 5 of R43 for a vector or crossbar operation passes. -/
def fmtsOk (k : Core) (x o : Nat) (p : Part) : Bool :=
  match opFmt k x o p with
  | none => false
  | some f => othersOk k x o p f
/-- The element type at which an operation runs, once check 5 has passed. -/
def elemFmt (k : Core) (x o : Nat) (p : Part) : Fmt := (opFmt k x o p).getD .raw

/-- The bank register of a destination queue; a register destination has none, so its scale is 2^0 (R136, R140). -/
def dstBank (k : Core) (x : Nat) (d : Desc) : W64 := ((queueOf d).map (k.queueFmt x)).getD 0
/-- The bank register of a source queue. -/
def srcBank (k : Core) (x : Nat) (d : Desc) : W64 := dstBank k x d
/-- RND resolved: 110 takes the destination bank's mode (R27, R140). -/
def rndOf (p : Part) (bank : W64) : Rnd :=
  (Rnd.ofCode (if p.cw.rnd = 6 then fld bank 14 12 else p.cw.rnd.toNat)).getD .rne
/-- SAT resolved: 10 takes the destination bank's bit (R27, R140). -/
def satOf (p : Part) (bank : W64) : Bool := if p.cw.sat = 2 then flag bank 15 else p.cw.sat = 1

/-! ### Vector sources (R183) -/

/-- A source as its operation reads it: its bits, and how many elements it holds before it repeats. -/
structure Src where
  bits : Nat
  wide : Nat
  deriving DecidableEq, Repr

/-- Element `i` of width `e`: a register or constant repeats every `wide` bits (R183). -/
def Src.elem (s : Src) (i e : Nat) : Nat := elemAt s.bits (i % (s.wide / e)) e

/-- A source that is no queue: a register's low `w` bits, a scalar or literal for every element (64 bits that repeat
per element), a `w`-bit constant (R31, R183). -/
def plainSrc (vpool : Tab VReg) (vbase : Nat) (r : Regs) (bank : Tile) (c : Cw) (w e : Nat) (d : Desc) : Src :=
  match d with
  | .vreg n => ⟨(Tab.get 0 vpool (vbase + n.toNat)).toNat % 2 ^ w, w⟩
  | .sreg n => ⟨(r.rS n.toNat).toNat % 2 ^ e, e⟩
  | .cbank b => ⟨constBits bank b.toNat w, w⟩
  | .lit s => ⟨(if s then c.lit1 else c.lit0).toNat % 2 ^ e, e⟩
  | .queue .. => ⟨0, w⟩

/-- What the operand fetch of a part finds (R66): a wait, a slot fault, a void operation, or its sources in order. -/
inductive Fetched where
  | wait
  | trap (t : Trap)
  | void
  | ok (tiles : List Tile)
  deriving DecidableEq, Repr

/-- INFO of QLAP and QPOISON of a part that is no MX (R304). -/
def queueInfo (q pos : Nat) (code : Nat) : Nat := q * 2 ^ 16 + pos * 2 ^ 19 + code * 2 ^ 28
/-- Does a copy that is parked, or runs again after it was, hold the position, here or at the producer end of its splice
(R318, R319)? -/
def Core.parkedPos (k : Core) (x q p : Nat) : Bool :=
  let holds := fun (c : Copy) =>
    decide (c.fl.iss.ctx = x) && c.fl.iss.dests.any (fun d => d.part == 6 && d.q == q && d.pos == p) &&
      decide (((k.queue x q).cell p).owner = some c.fl.iss.seq)
  k.away.contains (x, q, p) || k.cq.any (fun c => c.rerun && holds c) ||
  (List.range 8).any (fun i => ((Tab.get none k.parked i).map holds).getD false)
/-- What a read finds: a re-executed part waits at a POISON position whose copy is parked (R319). -/
def Core.peekFor (k : Core) (redo : Bool) (x q p : Nat) : Rd :=
  match k.peek x q p with
  | .poison c a => if redo && k.parkedPos x q p then .wait else .poison c a
  | r => r
/-- The queue sources of a part, in R66's order: any EMPTY waits, then a lap mismatch, then POISON, then VOID. -/
def fetchTiles (k : Core) (redo : Bool) (x part : Nat) (rs : List ReadRes) : Fetched :=
  let got := rs.map (fun r => (r, k.peekFor redo x r.q r.pos))
  if got.any (fun g => g.2 == .wait) then .wait
  else match got.find? (fun g => g.2 == .lap) with
    | some g => .trap ⟨cQLAP, part, true, queueInfo g.1.q g.1.pos 0, 0⟩
    | none =>
      match got.findSome? (fun g => match g.2 with
          | .poison c a => some (g.1, c, a)
          | _ => none) with
      | some (r, c, a) => .trap ⟨cQPOISON, part, true, queueInfo r.q r.pos c, a⟩
      | none =>
        if got.any (fun g => g.2 == .void) then .void
        else .ok (got.map (fun g => match g.2 with
          | .data t => t
          | _ => 0))

/-- The sources of an operation in order: queue sources from the tiles fetched, the others as they stood before the
bundle. -/
def assemble (vpool : Tab VReg) (vbase : Nat) (r : Regs) (bank : Tile) (c : Cw) (w e : Nat) :
    List Desc → List Tile → List Src
  | [], _ => []
  | d :: ds, ts =>
    match queueOf d, ts with
    | some _, t :: ts => ⟨t.toNat, 32768⟩ :: assemble vpool vbase r bank c w e ds ts
    | some _, [] => ⟨0, 32768⟩ :: assemble vpool vbase r bank c w e ds []
    | none, ts => plainSrc vpool vbase r bank c w e d :: assemble vpool vbase r bank c w e ds ts

/-- The `i`-th source, or zeros where it is left out. -/
def srcAt (l : List Src) (i : Nat) : Src := l.getD i ⟨0, 32768⟩

/-! ### Results -/

/-- What a result of container bits writes: a tile appended, or the low `w` bits of a register (R183). -/
def writeResult (vbase : Nat) (part w : Nat) (dests : List DestRes) (d : Desc) (v : Nat) : List VWrite :=
  match d with
  | .queue q _ _ =>
    match dests.find? (fun r => r.part == part && r.q == q.toNat) with
    | some r => [.fill r.q r.pos .present (BitVec.ofNat 32768 v)]
    | none => []
  | .vreg n => [.vreg (vbase + n.toNat) w v]
  | .sreg n => [.sreg n.toNat (BitVec.ofNat 64 v)]
  | .cbank _ => []
  | .lit _ => []

end Sys2Proof.Machine
end

