-- ==== Sys2Proof/Machine/Issue.lean ====
section
/-! DEFINITION. The issue of a bundle: fetching it, the twelve checks of R43 with the write conflicts of R44, the interlock
of R64, the block causes of R63, the queue actions of R87, and what follows once its parts have issued. -/
namespace Sys2Proof.Machine
open Sys2Proof

/-! ### A bundle about to issue -/

/-- A bundle at address `h` of context `x` of core `c`, looked at in state `s`. -/
structure Bun where
  s : State
  c : Nat
  x : Nat
  h : Nat
  size : Nat

/-- Its core, its context, the registers as they stand before it, its constant bank, its tenant, its die. -/
def Bun.k (b : Bun) : Core := b.s.mach.core b.c
def Bun.ctx (b : Bun) : Ctx := b.k.ctx b.x
def Bun.regs (b : Bun) : Regs := b.ctx.regs
def Bun.op (b : Bun) (c : Cw) (d : Desc) : W64 := scalarOp b.regs b.ctx.cbank c d
def Core.asid (k : Core) : Nat := k.owner.getD 0
/-- The translation of an access of the context (R315). -/
def Bun.tr (b : Bun) (va : Nat) (a : Acc) : Tr := translate b.s (agentOf b.c) b.k.asid va a
/-- Does the guard of a part read true before the bundle (R18)? -/
def Bun.live (b : Bun) (i : Instr) : Bool := b.regs.rP (guardOf i).toNat

/-- The half of the instruction scratchpad an address lies in (R13). -/
def halfOf (a : Nat) : Nat := a / 0x20000
/-- A branch target: in the half of the bundle, or none (R22). -/
def nearTarget (h : Nat) (off : Int) : Option Nat :=
  let t := parcelTarget h off
  if 0 ≤ t ∧ t < 0x40000 ∧ halfOf t.toNat = halfOf h then some t.toNat else none
/-- A target from a register is in range and aligned (R23). -/
def farTargetOk (a : W64) : Bool := decide (a.toNat % 8 = 0 ∧ a.toNat < 0x40000)
/-- LDEPTH, and the registers of a loop level (R67). -/
def Ctx.ldepth (x : Ctx) : Nat := fld (x.rC csrLOOPST) 1 0
def csrBEG (d : Nat) : Nat := 0x49 + 3 * d
def csrFIN (d : Nat) : Nat := 0x4A + 3 * d
def csrCNT (d : Nat) : Nat := 0x4B + 3 * d
/-- Is the context a member of a domain of level `n` (R80, R81)? -/
def Ctx.inDomain (x : Ctx) (ctx n : Nat) : Bool :=
  if n = 1 then x.dommask.getLsbD ctx else flag (Tab.get 0 x.domid n) 48

/-- A trap without INFO or EADDR. -/
def plainTrap (code : Nat) (i : Instr) : Trap := ⟨code, partNo i, false, 0, 0⟩
/-- ALIGN and XLATE of an access (R304). -/
def accessTrap (code part : Nat) (wr : Bool) (reason va : Nat) : Trap :=
  ⟨code, part, false, b2n wr * 2 ^ 16 + reason * 2 ^ 17, va⟩

/-! ### What the parts of a bundle name -/

/-- Queue sources of a part: queue, offset, last-use mark (R87). A micro-op's are no part's. -/
def partSources (i : Instr) : List (Nat × Nat × Bool) :=
  let qs := fun (d : Desc) => match d with
    | .queue q k l => some (q.toNat, k.toNat, l)
    | _ => none
  match view i with
  | .op o p => (sources o p).filterMap qs
  | .cp cop _ p => if cop = 5 ∨ cop = 7 ∨ cop = 8 then (qs p.dest).toList else []
  | _ => []

/-- A declaration of a routine whose slot executes: the queue its register names as an append, or none (R152). -/
def declQueue (r : Regs) (imm : BitVec 18) (n : Nat) : Option Nat :=
  let a := r.rA n
  let d := if n = 7 then imm.toNat else fld a 17 0
  match decodeDesc d with
  | some (.queue q 0 false) => some q.toNat
  | _ => none

/-- Registers a scalar value of the CP part names (R209). -/
def cpReg (r : Regs) (n : BitVec 6) : Nat := (r.rS n.toNat).toNat

/-- The queue that a register names as it stood before the bundle, for a slot that does not execute (R152). -/
def idleDeclQueue (r : Regs) (n : Nat) : Option Nat :=
  match decodeDesc (fld (r.rA n) 17 0) with
  | some (.queue q _ _) => some q.toNat
  | _ => none
/-- The positions a routine declares, OUTA's first: none at all where a register with a count names no queue (R152). -/
def declared (e : REntry) (f : Nat → Option Nat) : List Nat :=
  match (if e.outac = 0 then some [] else (f e.outa).map (List.replicate e.outac)),
      (if e.outbc = 0 then some [] else (f e.outb).map (List.replicate e.outbc)) with
  | some a, some b => a ++ b
  | _, _ => []
/-- The appends of a part, in order, whether its guard reads true or not (R18, R87 step 3, R152, R209, R220). A CPCOLL whose guard
reads false, with more in LENREG than any collective has tiles, counts as one of 16 (log 49). -/
def partAppends (k : Core) (r : Regs) (live : Bool) (i : Instr) : List Nat :=
  match view i with
  | .op o p => ((destOf o p).bind queueOf).toList
  | .mx _ _ n imm =>
    declared (Tab.get REntry.zero k.rtab n.toNat) (if live then declQueue r imm else idleDeclQueue r)
  | .cp cop code p =>
    if cop = 5 ∨ cop = 7 ∨ cop = 8 ∨ cop = 10 ∨ cop = 11 ∨ cop = 12 ∨ code = true then []
    else match queueOf p.dest with
      | some q => List.replicate (if cop = 13 then Nat.min 16 (cpReg r p.lenReg) else 1) q
      | none => []
  | _ => []

/-- What R44 and R64 count as one piece of state: a scalar, a vector register of the pool, a predicate, a parameter
register, a modulus pair, a CSR. -/
inductive RKey where
  | s (n : Nat) | v (n : Nat) | p (n : Nat) | a (n : Nat) | mk (n : Nat) | csr (n : Nat)
  deriving DecidableEq, Repr

/-- Keys of a descriptor; a pair of a 16-byte atomic names two registers (R242). -/
def descKeys (vb : Nat) (pair : Bool) (d : Desc) : List RKey :=
  match d with
  | .sreg n => if n = 0 then [] else .s n.toNat :: (if pair then [.s (n.toNat + 1)] else [])
  | .vreg n => [.v (vb + n.toNat)]
  | _ => []
/-- Is the operation an atomic on 16 bytes (R242)? -/
def isPair (o : Nat) (p : Part) : Bool := decide (0x60 ≤ o ∧ o ≤ 0x6B) && decide (p.cw.etype = 0)

/-- The write set of a part (R44). -/
def writeKeys (vb : Nat) (i : Instr) : List RKey :=
  match view i with
  | .ctl cop _ _ => if cop = 3 then [.s 63] else []
  | .op o p =>
    ((destOf o p).map (descKeys vb (isPair o p))).getD [] ++
    (if p.cw.pdst = 0 then [] else [.p p.cw.pdst.toNat]) ++
    (if o = 0x31 then [.a (p.cw.aux.toNat % 8)] else []) ++
    (if o = 0x30A then [.mk p.cw.mksel.toNat] else []) ++
    (if 0x51 ≤ o ∧ o ≤ 0x53 then [.csr p.cw.aux.toNat] else [])
  | .mx _ _ _ _ => [.a 7]
  | _ => []

/-- The guard a part or control field names: a control field holding NOP names none (R65). -/
def namedGuard (i : Instr) : Nat :=
  match i with
  | .nop _ => 0
  | _ => (guardOf i).toNat
/-- What a part reads beside its queues (R64). -/
def readKeys (vb : Nat) (i : Instr) : List RKey :=
  let sreg := fun (n : Nat) => if n = 0 then [] else [RKey.s n]
  (if namedGuard i = 0 then [] else [RKey.p (namedGuard i)]) ++
  match view i with
  | .ctl cop _ x =>
    if cop = 2 ∨ cop = 12 ∨ cop = 5 then sreg (x % 64)
    else if cop = 4 then [.s 63]
    else if cop = 8 then (List.range 8).map (fun n => .s (8 + n))
    else []
  | .op o p =>
    ((sources o p).flatMap (descKeys vb false)) ++
    (if isPair o p then descKeys vb true p.cw.src3 ++ (if o = 0x69 then descKeys vb true p.cw.src2 else []) else []) ++
    (if p.cw.pdst = 0 then [] else [.p p.cw.pdst.toNat]) ++
    (if 0x28 ≤ o ∧ o ≤ 0x2C then [.p (p.cw.aux.toNat / 16), .p (p.cw.aux.toNat % 16)] else []) ++
    (if o = 0x16 then [.p (p.cw.aux.toNat % 16)] else []) ++
    (if o = 0x32 then [.a (p.cw.aux.toNat % 8)] else []) ++
    (if 0x300 ≤ o ∧ o ≤ 0x30B ∧ o ≠ 0x307 then [.mk p.cw.mksel.toNat] else [])
  | .mx _ _ _ _ => (List.range 8).map .a
  | .cp _ code p =>
    sreg p.addrReg.toNat ++ sreg p.lenReg.toNat ++ sreg p.auxReg.toNat ++ sreg p.barReg.toNat ++
    (if code then sreg (dstReg p.dest) else [])
  | _ => []

/-- The queue of a queue opcode (R101). -/
def queueOpOf (i : Instr) : Option Nat :=
  match view i with
  | .op o p => if 0x360 ≤ o ∧ o ≤ 0x36A then some (p.cw.aux.toNat % 8) else none
  | _ => none
/-- Every queue a part touches. -/
def touched (k : Core) (r : Regs) (i : Instr) : List Nat :=
  (partSources i).map (·.1) ++ partAppends k r true i ++ (queueOpOf i).toList

/-- Two parts write the same state, or one is a queue opcode on a queue that the other touches (R44). -/
def clash (k : Core) (r : Regs) (vb : Nat) (i j : Instr) : Bool :=
  (writeKeys vb i).any (fun w => (writeKeys vb j).contains w) ||
  ((queueOpOf i).map (fun q => (touched k r j).contains q)).getD false ||
  ((queueOpOf j).map (fun q => (touched k r i).contains q)).getD false

/-! ### The checks of R43 -/

/-- Is the part's opcode masked (R339)? It acts as reserved, whatever the guard. -/
def maskedOp (fm : Nat) (i : Instr) : Bool :=
  match view i with
  | .op o _ => (bitAt fm 0 && decide (0x300 ≤ o ∧ o ≤ 0x30B)) || (bitAt fm 1 && decide (0x3B0 ≤ o ∧ o ≤ 0x3B3))
  | _ => false

/-- Check 1, the parts that depend on state: targets, loops, ERET, MARK, DBAR and WAITB (R22, R23, R72, R78, R79, R81,
R227). -/
def Bun.chk1 (b : Bun) (i : Instr) : Option Trap :=
  let bad := fun (p : Bool) => if p then some (plainTrap cILLBUNDLE i) else none
  let x := b.ctx
  match i with
  | .br _ off => bad (nearTarget b.h (sext off.toNat 19)).isNone
  | .call _ off => bad (nearTarget b.h (sext off.toNat 19)).isNone
  | .brx _ n => bad (!farTargetOk (b.regs.rS n.toNat))
  | .ret _ => bad (!farTargetOk (b.regs.rS 63))
  | .loop _ off _ =>
    bad ((nearTarget b.h off.toNat).isNone || decide (x.ldepth ≥ 2) || decide (b.h + 8 * off.toNat < b.h + b.size))
  | .lend _ => bad (decide (x.ldepth = 0) || decide ((x.rC (csrFIN (x.ldepth - 1))).toNat ≠ b.h))
  | .mark _ m => bad (decide (m.toNat < fld (x.rC csrCURMARK) 18 0))
  | .spawn _ off _ => bad (nearTarget b.h (sext off.toNat 17)).isNone
  | .dbar _ n => bad (!x.inDomain b.x n.toNat)
  | .waitb _ n =>
    bad (match b.k.handle (b.regs.rS n.toNat) with
      | none => true
      | some r => !(b.k.bar r).armed)
  | .eret _ => bad (!x.inh)
  | _ => none

/-- The pattern bytes of an XPERM: a literal's or the constant bank's (R194). -/
def xpermPattern (c : Cw) (bank : Tile) (n : Nat) : List Nat :=
  (List.range n).map (fun i => match c.src2 with
    | .cbank o => constBits bank (o.toNat + i) 8
    | _ => litPattern c i)
/-- The element count of a crossbar part's piece, once its format resolves. -/
def Bun.xbCount (b : Bun) (o : Nat) (p : Part) : Option Nat := (opFmt b.k b.x o p).map (fun f => partWidth p / f.width)

/-- Check 2 of a crossbar part that depends on a bank format or on the constant bank (R193, R194). -/
def Bun.xbBad (b : Bun) (o : Nat) (p : Part) : Bool :=
  match b.xbCount o p with
  | none => false
  | some n =>
    !xbCountOk o p.cw n ||
    (decide (o = 0x340) && match p.cw.src2 with
      | .cbank off => decide (off.toNat + n > 4096) ||
          (xpermPattern p.cw b.ctx.cbank n).any (fun y =>
            if bitAt y 7 then decide (bitsOf y 6 0 ≠ 0) else decide (bitsOf y 6 0 ≥ n))
      | _ => false)

/-- Check 2, the parts that depend on state (R19, R151, R152, R190, R193, R194). -/
def Bun.chk2 (b : Bun) (i : Instr) : Option Trap :=
  let bad := fun (p : Bool) => if p then some (plainTrap cILLSLOT i) else none
  match view i with
  | .mx _ _ n imm =>
    let e := Tab.get REntry.zero b.k.rtab n.toNat
    bad (!e.valid || e.ctrl || (decide (e.outac > 0) && (declQueue b.regs imm e.outa).isNone) ||
      (decide (e.outbc > 0) && (declQueue b.regs imm e.outb).isNone))
  | .op o p =>
    if 0x340 ≤ o ∧ o ≤ 0x345 then bad (b.xbBad o p)
    else if o = 0x240 then
      match opFmt b.k b.x o p, cvtSrcFmt b.k b.x p with
      | some fd, some fs => bad (!vcvtPartOk (container o p) fd.width fs.width (p.cw.aux.toNat / 16))
      | _, _ => none
    else none
  | _ => none

/-- Check 3: VEXP2 on any stepping but 0 (R37). -/
def Bun.chk3 (b : Bun) (i : Instr) : Option Trap :=
  match view i with
  | .op o _ => if o = 0x254 ∧ b.s.mach.stepping ≠ 0 then some (plainTrap cEXPERIMENTAL i) else none
  | _ => none

/-- Check 4: a vector register at or above VCOUNT (R31, R32, R119). -/
def Bun.chk4 (b : Bun) (i : Instr) : Option Trap :=
  match view i with
  | .op o p =>
    if (sources o p ++ (destOf o p).toList).any (fun d => match d with
        | .vreg n => decide (n.toNat ≥ b.ctx.vcount)
        | _ => false) then some (plainTrap cVRANGE i) else none
  | _ => none

/-- The value a CSR write forms before its fields take it (R127): CSRW, CSRSET, CSRCLR. -/
def csrForm (o : Nat) (old a : W64) : W64 := if o = 0x51 then a else if o = 0x52 then old ||| a else old &&& ~~~a
/-- Does bank `n` hold an allotted slot (R116)? -/
def Core.bankTaken (k : Core) (n : Nat) : Bool := (List.range 16).any (fun i => k.slotTaken (16 * n + i))
/-- A new FMTn value that R116 refuses. -/
def Core.fmtBad (k : Core) (n : Nat) (v : W64) : Bool :=
  let new := v &&& 0xFFFF
  decide (new ≠ k.fmtReg n) && (decide (fld new 3 0 ≥ 12) || decide (fld new 14 12 ≥ 6) || k.bankTaken n)

/-- Check 5: ETYPE against the bank formats, and writes of FMTn (R116, R117). -/
def Bun.chk5 (b : Bun) (i : Instr) : Option Trap :=
  match view i with
  | .op o p =>
    let n := p.cw.aux.toNat
    if 0x51 ≤ o ∧ o ≤ 0x53 ∧ 0x80 ≤ n ∧ n < 0x90 then
      if b.k.fmtBad (n - 0x80) (csrForm o (b.k.fmtReg (n - 0x80)) (b.op p.cw p.cw.src1)) then
        some (plainTrap cFMTCLASH i) else none
    else if 0x100 ≤ o ∧ o < 0x360 ∧ fmtsOk b.k b.x o p = false then some (plainTrap cFMTCLASH i)
    else none
  | _ => none

/-- Check 7: two elements of an XPERM sent to one place (R194). -/
def Bun.chk7 (b : Bun) (i : Instr) : Option Trap :=
  match view i with
  | .op o p =>
    if o = 0x340 then
      let n := (b.xbCount o p).getD 0
      let ds := (xpermPattern p.cw b.ctx.cbank n).filter (fun y => !bitAt y 7)
      if (List.range ds.length).any (fun j => (ds.take j).contains (ds.getD j 0)) then some (plainTrap cXBCOLL i) else none
    else none
  | _ => none

/-- QBEYOND of a queue and position (R304). -/
def beyond (part q pos : Nat) : Trap := ⟨cQBEYOND, part, false, q * 2 ^ 16 + pos * 2 ^ 19, 0⟩
/-- May a queue take an append (R87)? -/
def Queue.takes (q : Queue) : Bool := q.alloc && decide (q.role ≠ .target)
/-- The `n` of a QDEQ (R104). -/
def Bun.deqCount (b : Bun) (i : Instr) : Option (Nat × Nat) :=
  match view i with
  | .op o p => if o = 0x362 then some (p.cw.aux.toNat % 8, (b.op p.cw p.cw.src1).toNat) else none
  | _ => none

/-- Check 8: a source offset not below Readable, an append to a target end or an unallotted queue, QDEQ past the tail
(R31, R87, R104). -/
def Bun.chk8 (b : Bun) (i : Instr) : Option Trap :=
  let q := fun n => b.ctx.queue n
  firstSome (
    (partSources i).map (fun (n, k, _) =>
      if k < (q n).readable then none else some (beyond (partNo i) n ((q n).wrap ((q n).ihead + k)))) ++
    (partAppends b.k b.regs true i).map (fun n => if (q n).takes then none else some (beyond (partNo i) n (q n).tail)) ++
    [match b.deqCount i with
     | some (n, m) =>
       if m ≤ (if (q n).role = .loc then (q n).readable else 0) then none
       else some (beyond (partNo i) n ((q n).wrap ((q n).ihead + m)))
     | none => none])

/-- The address of a scalar or atomic access: SRC1 + SRC2, or SRC1 alone for AMOCAS (R125, R242). -/
def accessAddr (r : Regs) (bank : Tile) (o : Nat) (p : Part) : Nat :=
  let a := scalarOp r bank p.cw p.cw.src1
  (if o = 0x69 then a else a + scalarOp r bank p.cw p.cw.src2).toNat
/-- The size of a scalar or atomic access (R125, R241). -/
def accessSize (p : Part) : Nat :=
  match p.cw.etype.toNat with
  | 0 => 16
  | 1 => 1
  | 2 => 1
  | 3 => 2
  | 4 => 4
  | _ => 8

/-- Check 9 of an access to device memory: aligned, then translated. -/
def Bun.memChk (b : Bun) (part ea n : Nat) (a : Acc) : Option Trap :=
  if ea % n ≠ 0 then some (accessTrap cALIGN part a.wr 0 ea)
  else match b.tr ea a with
    | .fail r => some (accessTrap cXLATE part a.wr r ea)
    | .ok _ _ _ => none
/-- Check 9 of a record: its address aligned to `m`, then `n` bytes of it translated (R109, R111, R177, R274). -/
def Bun.recChk (b : Bun) (part ea m n : Nat) (a : Acc) : Option Trap :=
  if ea % m ≠ 0 then some (accessTrap cALIGN part a.wr 0 ea)
  else match firstUnmapped b.s (agentOf b.c) b.k.asid ea n a with
    | some (va, r) => some (accessTrap cXLATE part a.wr r va)
    | none => none

/-- The shape of CPSTR and CPSTS is legal (R213). -/
def shapeOk (n : Nat) : Bool :=
  let rb := bitsOf n 12 0
  let nr := bitsOf n 25 13
  decide (n < 2 ^ 26 ∧ 8 ≤ rb ∧ rb ≤ 4096 ∧ rb % 8 = 0 ∧ 1 ≤ nr ∧ nr ≤ 4096 ∧ rb * nr ≤ 4096)
/-- A length of CPLIN and CPST, and a range of CPWB, CPDISC and CPPREF (R212). -/
def lenOk (n top : Nat) : Bool := decide (n % 64 = 0 ∧ 64 ≤ n ∧ n ≤ top)

/-- The element size that the descriptor of a CPCONV gives when its bundle issues, 1 where that cannot be read (R212, R215). -/
def Bun.convSize (b : Bun) (va : Nat) : Nat :=
  match translate b.s (agentOf b.c) b.k.asid (va + 16) accRead with
  | .ok sp ad _ => if b.s.mem.poisoned sp ad then 1 else 2 ^ (bitsOf (b.s.mem.read sp ad 8) 33 32 % 3)
  | .fail _ => 1
/-- Check 9 of a CP part: ADDRREG, LENREG, AUXREG, BARREG in that order, then CPBANK's formats (R209, R213, R214, R217,
R218, R346). The image base of a CPCONV is held against the descriptor as it stands then (log 36). -/
def Bun.cpChk (b : Bun) (cop : Nat) (code : Bool) (p : Cp) : Option Trap :=
  let r := fun n => cpReg b.regs n
  let a := r p.addrReg
  let n := r p.lenReg
  let x := r p.auxReg
  let wr := decide (cop = 5 ∨ cop = 7 ∨ cop = 8)
  let al := fun (v m : Nat) => if v % m ≠ 0 then some (accessTrap cALIGN 6 wr 0 v) else none
  let ill := fun (ok : Bool) => if ok then none else some (⟨cILLSLOT, 6, false, 0, 0⟩ : Trap)
  let sf := fmtOf (b.k.fmtReg (a / 0x10000 % 16))
  let df := ((queueOf p.dest).map (bankFmt b.k b.x)).getD .raw
  let bit := a % 0x10000 * 8
  let e := r (BitVec.ofNat 6 (dstReg p.dest))
  firstSome (
    (if cop = 9 then [ill (decide (a < 0x100000)), (if bit % sf.width ≠ 0 then some (accessTrap cALIGN 6 false 0 a) else none),
        ill (decide (1 ≤ n ∧ n ≤ 32768 / df.width ∧ bit + n * sf.width ≤ 0x80000))]
     else if cop = 3 then [al a (2 ^ (n % 4)), ill (decide (n < 2 ^ 15 ∧ 1 ≤ n / 4 ∧ n / 4 ≤ 4096 / 2 ^ (n % 4))), al x 4]
     else if cop = 4 then [(if n % 64 = 0 then al a (b.convSize n) else none), al n 64]
     else if cop = 2 ∨ cop = 8 then [al a 8, ill (shapeOk n), ill (decide (x % 8 = 0))]
     else if cop = 5 then [al a 64, al x 8, ill (!decide (a ≤ x ∧ x < a + 4096))]
     else if cop = 13 then [al a 64, ill (decide (n ≤ 16) && (decide (n ≠ 0) || decide (p.dest = Desc.zero)))]
     else if 10 ≤ cop then [al a 64, ill (lenOk n (2 ^ 40))]
     else [al a 64, ill (lenOk n 4096)] ++
       (if code then [al e 64, ill (decide (e < 0x40000 ∧ halfOf e ≠ halfOf b.h ∧ halfOf (e + n - 1) = halfOf e))] else [])) ++
    [ill (decide (p.barReg = 0) || (b.k.handle (b.regs.rS p.barReg.toNat)).isSome),
     if cop = 9 ∧ (decide (sf = .raw) ≠ decide (df = .raw) ∨ decide (sf = .mod64) ≠ decide (df = .mod64)) then
       some ⟨cFMTCLASH, 6, false, 0, 0⟩ else none])

/-- Check 9: alignment and translation of scalar accesses, the register values of a CP part (R109, R111, R125, R177,
R209, R242, R274). -/
def Bun.chk9 (b : Bun) (i : Instr) : Option Trap :=
  match view i with
  | .op o p =>
    let ea := accessAddr b.regs b.ctx.cbank o p
    let n := accessSize p
    let a := (b.op p.cw p.cw.src1).toNat
    if o = 0x40 then b.memChk 1 ea n accRead
    else if o = 0x41 then b.memChk 1 ea n accWrite
    else if o = 0x42 ∨ o = 0x43 then
      if ea % n ≠ 0 ∨ ea + n > 0x100000 then some (accessTrap cALIGN 1 (decide (o = 0x43)) 0 ea) else none
    else if 0x60 ≤ o ∧ o ≤ 0x6B then b.memChk 1 ea n (if o = 0x6A then accAmold else accAtomic)
    else if o = 0x368 then b.recChk 1 a 256 (256 + 4096 * (b.ctx.queue (p.cw.aux.toNat % 8)).cap) accWrite
    else if o = 0x369 then b.recChk 1 a 256 256 accRead
    else if o = 0x390 then b.recChk 1 a 64 64 accRead
    else if o = 0x3B0 then b.recChk 1 a 256 256 accRead
    else none
  | .cp cop code p => b.cpChk cop code p
  | _ => none

/-- The ABR of a part with AR set, whatever its guard: zero or a valid handle (R209). It is tested before the part's own register
values, among which the rule gives it no place (log 49). -/
def Bun.abrChk (b : Bun) (i : Instr) : Option Trap :=
  let abr := b.ctx.rC csrABR
  if arOf i = true ∧ abr ≠ 0 ∧ (b.k.handle abr).isNone then some (plainTrap cILLSLOT i) else none

/-- Check 10: a SPAWN whose target is not an IDLE context of the launch (R74). -/
def Bun.chk10 (b : Bun) (i : Instr) : Option Trap :=
  match i with
  | .spawn _ _ t =>
    if t.toNat = b.x ∨ (b.k.ctx t.toNat).st ≠ .idle then some (plainTrap cSPAWNBUSY i) else none
  | _ => none
/-- Check 11: a WAITB or DBAR while GUARDST.PEND is 1 (R118). -/
def Bun.chk11 (b : Bun) (i : Instr) : Option Trap :=
  let pend := flag (b.ctx.rC csrGUARDST) 20
  match i with
  | .waitb _ _ => if pend then some (plainTrap cGUARD i) else none
  | .dbar _ _ => if pend then some (plainTrap cGUARD i) else none
  | _ => none
/-- Check 12: a WAITB on a barrier in OVERRUN (R227). -/
def Bun.chk12 (b : Bun) (i : Instr) : Option Trap :=
  match i with
  | .waitb _ n =>
    match b.k.handle (b.regs.rS n.toNat) with
    | some r => if (b.k.bar r).ovr then some (plainTrap cBAROVR i) else none
    | none => none
  | _ => none

/-- The trap of the first check of R43 that fails, for the parts and the encoding error a fetch found. State checks apply
to parts whose guard reads true. -/
def Bun.checks (b : Bun) (parts : List Instr) (err : Option DecErr) : Option Trap :=
  let live := parts.filter b.live
  let across := fun (ps : List Instr) (f : Instr → Option Trap) => ps.findSome? f
  let bundleErr := match err with
    | some e => if e.err = .illBundle then some (⟨cILLBUNDLE, 0, false, 0, 0⟩ : Trap) else none
    | none => none
  let slotErr := match err with
    | some e => if e.err = .illBundle then none else some (⟨cILLSLOT, e.part, false, 0, 0⟩ : Trap)
    | none => none
  firstSome [bundleErr, across live b.chk1,
    across parts (fun i => if maskedOp b.s.mach.featMask i then some (plainTrap cILLSLOT i) else
      if b.live i then b.chk2 i else none),
    slotErr, across live b.chk3, across live b.chk4, across live b.chk5,
    across live (fun i => if live.any (fun j => decide (partNo i ≠ partNo j) && clash b.k b.regs b.ctx.vbase i j) then
      some (plainTrap cWRCONFLICT i) else none),
    across live b.chk7, across live b.chk8,
    across parts (fun i => firstSome [b.abrChk i, if b.live i then b.chk9 i else none]),
    across live b.chk10, across live b.chk11, across live b.chk12]

/-! ### The interlock and the block causes -/

/-- The sources a part resolved and the positions it reserved (R87). -/
def Issue.readsOf (b : Issue) (n : Nat) : List ReadRes := b.reads.filter (fun r => r.part == n)
def Issue.destsOf (b : Issue) (n : Nat) : List DestRes := b.dests.filter (fun r => r.part == n)
/-- The key of a pending vector write. -/
def VWrite.key (w : VWrite) : Option RKey :=
  match w with
  | .vreg n _ _ => some (.v n)
  | .sreg n _ => some (.s n)
  | .pred n _ => some (.p n)
  | .pair n _ _ => some (.mk n)
  | .fill .. => none
/-- Registers with a write of an earlier operation of the context pending (R64). -/
def Core.pendingKeys (k : Core) (x : Nat) : List RKey :=
  let vb := (k.ctx x).vbase
  (k.vparts.flatMap (fun v =>
    if v.fl.iss.ctx = x then (if v.waiting then writeKeys vb v.fl.i else v.writes.filterMap VWrite.key) else [])) ++
  ((k.divider.toList ++ k.loads ++ k.atomics ++ (k.ctx x).wait.toList).flatMap (fun f =>
    if f.iss.ctx = x then writeKeys vb f.i else []))
/-- Registers that a vector part which has not started still reads (R180). -/
def Core.waitingReads (k : Core) (x : Nat) : List RKey :=
  k.vparts.flatMap (fun v => if v.fl.iss.ctx = x ∧ v.waiting = true then readKeys (k.ctx x).vbase v.fl.i else [])
/-- The interlock of R64 holds the bundle: a guard, a register it reads or writes has a write pending. -/
def Bun.interlocked (b : Bun) (parts : List Instr) : Bool :=
  let vb := b.ctx.vbase
  let pend := b.k.pendingKeys b.x
  let wr := b.k.waitingReads b.x
  parts.any (fun i =>
    let g := namedGuard i
    (decide (g ≠ 0) && pend.contains (.p g)) ||
    (b.live i && ((readKeys vb i ++ writeKeys vb i).any (fun r => pend.contains r) ||
      (writeKeys vb i).any (fun r => wr.contains r))))

/-- Is the part an access of the SC slot to memory or to the operand scratchpad: a load, a store, an atomic, a record that a system
operation reads or writes (R125, R241, R109, R111, R177, R274)? -/
def Flight.accesses (f : Flight) : Bool :=
  match view f.i with
  | .op o _ => decide (0x40 ≤ o ∧ o ≤ 0x43 ∨ 0x60 ≤ o ∧ o ≤ 0x6B ∨ o = 0x368 ∨ o = 0x369 ∨ o = 0x390 ∨ o = 0x3B0)
  | _ => false
/-- Is a load one of device memory, not of the scratchpad? -/
def Flight.inMemory (f : Flight) : Bool :=
  match f.i with
  | .ldsp _ => false
  | _ => true
/-- Does an atomic acquire, and is it not merged in a reduction window, where that has no effect (R237, R243)? -/
def Flight.acquires (f : Flight) : Bool :=
  match view f.i with
  | .op o p => decide (0x60 ≤ o ∧ o ≤ 0x6A) && bitAt p.cw.aux.toNat 0 && !f.iss.win
  | _ => false
/-- Is an operation one of the context, issued since it entered its handler, if it runs one (R305)? -/
def Core.sinceEntry (k : Core) (x : Nat) (f : Flight) : Bool :=
  f.iss.ctx == x && decide ((match (k.ctx x).handling with
    | some r => r.seq
    | none => 0) ≤ f.iss.seq)
/-- Is an atomic one that its context waits for: it returns a value or acquires (R244)? -/
def Core.awaited (k : Core) (x : Nat) (f : Flight) : Bool :=
  k.sinceEntry x f && (f.acquires || (match view f.i with
    | .op o p => decide (o ≠ 0x6B) && decide (dstReg p.cw.dst ≠ 0)
    | _ => false))
/-- Does an operation of the context still hold back its next bundle: a division, a load, an atomic that returns a value
or acquires, a system operation that blocks (R113, R123, R126, R244)? What was issued before the handler was entered does
not hold back the handler's bundles (R305), but for an LDSP, which is performed before any later bundle of its context issues
(R125). -/
def Core.engaged (k : Core) (x : Nat) : Bool :=
  (k.ctx x).wait.any (k.sinceEntry x) || k.divider.any (k.sinceEntry x) ||
  k.loads.any (fun f => k.sinceEntry x f || decide (f.iss.ctx = x) && !f.inMemory) ||
  k.atomics.any (k.awaited x)
/-- What an earlier bundle of the context still waits for (R63, R78, R81); a MARK's stall counts under none of R63's causes, so
it comes before them (R262). -/
def Core.standing (k : Core) (x : Nat) : Option Cause :=
  let c := k.ctx x
  if c.markWait.isSome then some .mark
  else if c.dbar.isSome then some .barrier
  else if k.engaged x then some .engine
  else if c.fence.isSome || c.ifence then some .fence
  else none
/-- The counters of ac that these waits move beside their cause's: AMOWAITAC for an atomic that the context waits for, RLCWAITAC
for an RLCWAIT, each where the block counts in BLKENG (R244, R247, R274, R279). -/
def Core.standingOn (k : Core) (x : Nat) (c : Cause) : List Nat :=
  if c ≠ .engine then []
  else (if k.atomics.any (k.awaited x) then [0xC2] else []) ++
    (match (k.ctx x).wait with
      | some ⟨.rlcwait _, _⟩ => [0xE5]
      | _ => [])

/-- Lane groups of a vector part (R179). -/
def groupsOf (p : Part) : Nat := 2 ^ p.width.toNat
/-- Is an operation in VA or VB, and is it in XB? -/
def inVec (i : Instr) : Option (Nat × Part) :=
  match view i with
  | .op o p => if p.slot = .va ∨ p.slot = .vb then some (o, p) else none
  | _ => none
def inXb (i : Instr) : Option (Nat × Part) :=
  match view i with
  | .op o p => if p.slot = .xb then some (o, p) else none
  | _ => none
/-- Lane groups that a controller's vector step holds (R372). -/
def Core.rlcGroups (k : Core) : Nat :=
  match k.rlcVec with
  | some (true, g) => g
  | _ => 0
/-- Lane groups that tile operations and a controller's step hold; a register operation holds its own for its one ac only (R179). -/
def Core.groupsHeld (k : Core) : Nat :=
  (k.vparts.map (fun v => match inVec v.fl.i with
    | some (o, p) => if v.waiting = false ∧ isTile o p = true then groupsOf p else 0
    | none => 0)).sum + k.rlcGroups
/-- Does a vector step of a controller wait for lane groups (R179, R267)? -/
def Core.rlcWaits (k : Core) : Bool :=
  match k.rlcVec with
  | some (false, _) => true
  | _ => false
/-- Is the crossbar held by a tile operation that has started (R193)? -/
def Core.xbHeld (k : Core) : Bool :=
  k.vparts.any (fun v => !v.waiting && (match inXb v.fl.i with
    | some (o, p) => isTile o p
    | none => false))
/-- Does a part wait for lane groups: it has not started, and its sources are there (R179, R180)? -/
def Core.waitsLanes (k : Core) (v : VPart) : Bool :=
  let n := partNo v.fl.i
  v.waiting && (inVec v.fl.i).isSome && fetchTiles k v.fl.iss.redo v.fl.iss.ctx n (v.fl.iss.readsOf n) != .wait
/-- Lane groups of the live vector parts of a bundle. -/
def Bun.groups (b : Bun) (parts : List Instr) : List Nat :=
  (parts.filter b.live).filterMap (fun i => (inVec i).map (fun v => groupsOf v.2))
/-- Is the bundle's VB split from its VA (R180)? -/
def Bun.split (b : Bun) (parts : List Instr) : Bool := decide ((b.groups parts).sum > 6)

/-- The queues that lack room for the appends of a bundle, RoomHead taken after its marks; a bundle that the nullifier skips
makes none (R63, R87). -/
def Bun.fullQueues (b : Bun) (parts : List Instr) : List Nat :=
  let live := parts.filter b.live
  let apps := parts.flatMap (fun i => partAppends b.k b.regs (b.live i) i)
  (List.range 8).filter (fun n =>
    let q := b.ctx.queue n
    let need := apps.count n
    let marked := (live.flatMap partSources).foldl (fun q' (m, k, last) =>
      if m = n ∧ last = true then
        let p := q.wrap (q.ihead + k)
        q'.setRec p { q'.cell p with marked := true }
      else q') q
    decide (need > 0) && q.takes && !(marked.passMarks (4 * q.cap)).hasRoom need)
/-- The queues whose sources in a 16-bit slot, or whose QDEQ, meet an EMPTY position, each once (R63, R104, R114). -/
def Bun.emptyQueues (b : Bun) (parts : List Instr) : List Nat :=
  let live := parts.filter b.live
  (List.range 8).filter (fun n =>
    let q := b.ctx.queue n
    live.any (fun i => decide (partNo i ≤ 4) && (partSources i).any (fun (m, k, _) =>
      decide (m = n ∧ b.k.peek b.x n (q.wrap (q.ihead + k)) = .wait))) ||
    (live.filterMap b.deqCount).any (fun (m, d) => decide (m = n) &&
      (List.range (Nat.min d 512)).any (fun i => decide (q.stateAt (q.wrap (q.ihead + i)) = .empty))))

/-- Is a live part of a kind that the test finds busy? -/
def Bun.anyLive (b : Bun) (parts : List Instr) (p : Instr → Bool) : Bool := (parts.filter b.live).any p
/-- Positions of the routine queue that are held: by the routines in it, and by those that stand faulted and still owe their work,
since a routine holds its position until it retires (R150, R174). -/
def Core.routinesHeld (k : Core) : Nat :=
  k.rq.length + (ctxNums.flatMap (fun x => (k.ctx x).owed.filter (fun fp => fp.routine.isSome))).length
/-- Both positions of the routine queue are held (R150). -/
def Bun.routinesFull (b : Bun) (parts : List Instr) : Bool :=
  b.anyLive parts (fun i => decide (partNo i = 5)) && decide (b.k.routinesHeld ≥ Config.routineSlots)
/-- An MSLOAD waits for the routine queue to empty: no routine enters it (R177). -/
def Core.msloading (k : Core) : Bool :=
  ctxNums.any (fun x => match (k.ctx x).wait with
    | some f => (match f.i with
      | .msload _ => true
      | _ => false)
    | none => false)
/-- No MX slot can be taken: the routine queue is full, or an MSLOAD runs (R150, R177). -/
def Bun.matrixBusy (b : Bun) (parts : List Instr) : Bool :=
  b.routinesFull parts || b.anyLive parts (fun i => decide (partNo i = 5)) && b.k.msloading
/-- The copy engine's command queue is full, the active copies among its 16 entries (R208, R305). -/
def Bun.copiesBusy (b : Bun) (parts : List Instr) : Bool :=
  b.anyLive parts (fun i => decide (partNo i = 6)) && decide (b.k.cq.length ≥ Config.copyQueueDepth)
/-- The scalar divider is busy (R123). -/
def Bun.dividerBusy (b : Bun) (parts : List Instr) : Bool :=
  b.anyLive parts (fun i => match view i with
    | .op o _ => decide (6 ≤ o ∧ o ≤ 9)
    | _ => false) && b.k.divider.isSome
/-- Too few lane groups are free, or an earlier part or controller's step still waits for some (R179, R180). -/
def Bun.lanesBusy (b : Bun) (parts : List Instr) : Bool :=
  let g := b.groups parts
  let need := if g.sum > 6 then 4 else g.sum
  decide (g ≠ []) && (decide (b.k.groupsHeld + need > 6) || b.k.vparts.any b.k.waitsLanes || b.k.rlcWaits)
/-- The crossbar is busy (R193). -/
def Bun.crossbarBusy (b : Bun) (parts : List Instr) : Bool := b.anyLive parts (fun i => (inXb i).isSome) && b.k.xbHeld
/-- The opcodes of system operations that can hold back their context (R113, R177, R264, R274). -/
def waitingOps : List Nat := [0x361, 0x363, 0x364, 0x366, 0x367, 0x368, 0x369, 0x390, 0x3A0, 0x3B0, 0x3B1, 0x3B3]
/-- The system operation of an earlier bundle still stands, and the bundle holds another one (R113). -/
def Bun.systemBusy (b : Bun) (parts : List Instr) : Bool :=
  b.ctx.wait.isSome && b.anyLive parts (fun i => match view i with
    | .op o _ => waitingOps.contains o
    | _ => false)
/-- An STSP acts before the next bundle (R125), so it waits for an acquire that an earlier bundle of the context still has to make
(R236, R237). -/
def Bun.acquireBusy (b : Bun) (parts : List Instr) : Bool :=
  b.anyLive parts (fun i => match i with
    | .stsp _ => true
    | _ => false) && b.k.atomics.any (fun f => decide (f.iss.ctx = b.x) && f.acquires)
/-- The engine cause of R63. -/
def Bun.enginesBusy (b : Bun) (parts : List Instr) : Bool :=
  b.acquireBusy parts || b.systemBusy parts || b.matrixBusy parts || b.copiesBusy parts || b.dividerBusy parts || b.lanesBusy parts || b.crossbarBusy parts

/-- The first cause of R63 that holds, of an earlier bundle's waits and of this bundle's own. -/
def Bun.cause (b : Bun) (parts : List Instr) : Option Cause :=
  let waits := (parts.filter b.live).any (fun i => match i with
    | .waitb _ n => match b.k.handle (b.regs.rS n.toNat) with
      | some r => !(b.k.bar r).reached (wepochOf (b.regs.rS n.toNat))
      | none => false
    | _ => false)
  let st := b.k.standing b.x
  if b.fullQueues parts ≠ [] then some .queueFull
  else if b.emptyQueues parts ≠ [] then some .presence
  else if waits = true ∨ st = some .barrier then some .barrier
  else if b.enginesBusy parts = true ∨ st = some .engine then some .engine
  else st

/-- The counters of ac that a block of the bundle moves beside its cause's (R114, R178, R193, R195, R229), those of the
context's earlier waits among them; a MARK's stall moves none (R262). -/
def Bun.blockOn (b : Bun) (parts : List Instr) (c : Cause) : List Nat :=
  let full := b.fullQueues parts
  let empty := b.emptyQueues parts
  let vec := (parts.filter b.live).any (fun i => (inVec i).isSome || (inXb i).isSome)
  let on := fun (p : Bool) (n : Nat) => if p then [n] else []
  if c = .mark then []
  else full.map (0x60 + ·) ++ empty.map (0x68 + ·) ++
    on (full.any (fun n => let q := b.ctx.queue n; decide (q.role = .producer) && (q.frozen || q.freezing))) 0x70 ++
    on (decide (full ≠ []) && parts.any (fun i => partNo i == 5)) 0x94 ++
    on (decide (full ≠ []) && parts.any (fun i => partNo i == 6)) 0xB5 ++
    on (decide (full ≠ []) && vec) 0xA6 ++ on (decide (empty ≠ []) && vec) 0xA5 ++
    on (b.routinesFull parts) 0x95 ++ on (b.copiesBusy parts) 0xB6 ++ on (b.lanesBusy parts) 0xA3 ++
    on (b.crossbarBusy parts) 0xA9 ++ b.k.standingOn b.x c

/-! ### Issue -/

/-- The next bundle as the fetch finds it: its parts up to the first encoding error, the error, its size (R13, R43). -/
structure Seen where
  parts : List Instr
  err : Option DecErr
  size : Nat
  deriving DecidableEq, Repr

/-- Parts up to the first error. -/
def decodeUpTo : List (Nat × Except EncErr (Option Instr)) → List Instr × Option DecErr
  | [] => ([], none)
  | (n, .error e) :: _ => ([], some ⟨e, n⟩)
  | (_, .ok none) :: t => decodeUpTo t
  | (_, .ok (some i)) :: t => let r := decodeUpTo t; (i :: r.1, r.2)

/-- The bundle at address `a`, read from the instruction scratchpad (R13 to R21). -/
def Core.look (k : Core) (x a : Nat) : Seen :=
  let w := fun n => Tab.get 0 k.ispad (a / 8 + n)
  let table := fun n => Tab.get 0 (k.ctx x).cwt n
  let hdr := w 0
  let bad : Seen := ⟨[], some ⟨.illBundle, 0⟩, 8⟩
  match bundleParcels hdr with
  | none => bad
  | some n =>
    if a % 8 ≠ 0 ∨ a + 8 * n > 0x40000 ∨ halfOf a ≠ halfOf (a + 8 * n - 1) then bad
    else match decodeBundle ((List.range n).map w) table with
      | .ok ps => ⟨ps, none, 8 * n⟩
      | .error e =>
        if e.err = .illBundle then bad
        else
          let s := fun (sl : Slot) (y : Nat) => decodeSlot sl (.ofNat 16 y) (table (y % 512))
          let head := [(0, decodeCtl hdr), (1, s .sc (fld hdr 31 16)), (2, s .va (fld hdr 15 0))]
          let px := w 1
          let xs := if n = 3 ∨ fld hdr 63 60 = 1 then
            [(3, s .vb (fld px 63 48)), (4, s .xb (fld px 47 32)), (5, decodeMx (.ofNat 32 (fld px 31 0)))] else []
          let r := decodeUpTo (head ++ xs)
          ⟨r.1, some e, 8 * n⟩

/-- The guards a bundle names: the control field's when COP is not NOP, and those of its slots (R65). -/
def namedGuards (parts : List Instr) : List (BitVec 4) :=
  parts.filterMap (fun i => match i with
    | .nop _ => none
    | _ => some (guardOf i))
/-- The nullifier skips the bundle (R65). -/
def Bun.skips (b : Bun) (seen : Seen) : Bool :=
  let gs := namedGuards seen.parts
  seen.err.isNone && !(seen.parts.any (maskedOp b.s.mach.featMask)) && decide (gs ≠ []) &&
  gs.all (fun g => !b.regs.rP g.toNat)

/-- Positions reserved by the appends of one part; a guard-false part fills its own VOID at once (R18, R87 step 3). -/
def Core.reserveFor (k : Core) (core x : Nat) (live : Bool) (part seq : Nat) : List Nat → Core × List DestRes
  | [] => (k, [])
  | n :: t =>
    let q := k.queue x n
    if q.takes then
      let k := k.onQueue x n (Queue.reserve seq)
      let k := if live then k else k.fill core x n q.tail .void 0 seq none
      let r := k.reserveFor core x live part seq t
      (r.1, if live then ⟨part, n, q.tail⟩ :: r.2 else r.2)
    else k.reserveFor core x live part seq t

/-- Step 3 of R87 over all parts, in slot order, with the arrivals of AR parts whose guard is false (R228). -/
def Core.appendAll (k : Core) (core x : Nat) (r : Regs) (seq : Nat) (abr : Option Nat) (live : Instr → Bool) :
    List Instr → Core × List DestRes
  | [] => (k, [])
  | i :: t =>
    let a := k.reserveFor core x (live i) (partNo i) seq (partAppends k r (live i) i)
    let k := if arOf i && !live i then a.1.retireAr abr else a.1
    let rest := k.appendAll core x r seq abr live t
    (rest.1, a.2 ++ rest.2)

/-- The predicates that the live parts of a bundle write (R44, R65). -/
def Bun.predsWritten (b : Bun) (parts : List Instr) : List Nat :=
  ((parts.filter b.live).flatMap (writeKeys b.ctx.vbase)).filterMap (fun r => match r with
    | .p n => some n
    | _ => none)
/-- The queue actions of R87 and the record of the issued bundle. A skipped bundle makes no marks, and no bundle has issued
with it (R65). -/
def Bun.openOn (b : Bun) (parts : List Instr) (skipped : Bool) : Core :=
  let k := b.k
  let live := fun i => b.live i && !skipped
  let reads : List ReadRes := (parts.filter live).flatMap (fun i => (partSources i).map (fun (n, off, last) =>
    let q := b.ctx.queue n
    ⟨partNo i, n, off, q.wrap (q.ihead + off), last⟩))
  let k1 := reads.foldl (fun k r => k.onQueue b.x r.q (fun q => q.takeRead r.pos r.last)) k
  let k2 := if skipped then k1 else
    (List.range 8).foldl (fun k n => k.onQueue b.x n (fun q => q.passMarks (4 * q.cap))) k1
  let abr := b.k.handle (b.ctx.rC csrABR)
  let a := k2.appendAll b.c b.x b.regs k.seq abr live parts
  let nxt := BitVec.ofNat 64 (b.h + b.size)
  Core.upd { a.1 with issue := some ⟨b.x, BitVec.ofNat 64 b.h, b.size, k.seq, k.asid, b.regs, b.ctx.csr, k.vpool, k.fmts, reads, a.2, abr, nxt,
      false, 2 * k.seq, none, b.split parts && !skipped, k.csr, false⟩ } b.x (fun c => { c with
    hold := none, recent := if skipped then c.recent else ((b.predsWritten parts ++ c.latePreds) :: c.recent).take 3
    latePreds := if skipped then c.latePreds else [] })

/-- Parts whose ESLOTS bits the bundle has cleared are abandoned at ERET (R92); their AR bits arrive now (R127, R228). -/
def Core.arriveCleared (k : Core) (b : Issue) : Core :=
  let c := k.ctx b.ctx
  let gone := ((c.handling.map (fun r => r.parts)).getD []).filter (fun fp =>
    flag (b.rC csrESLOTS) (partNo fp.fl.i) && !flag (c.rC csrESLOTS) (partNo fp.fl.i))
  gone.foldl (fun k fp => k.retire fp.fl) k
/-- Once its parts have issued: the context goes on at `next`, a TRAP of the bundle enters the handler, and an operation
or a fence that holds back the next bundle blocks the context (R70, R78, R79, R81, R126). Where a slot of the TRAP's own bundle
has faulted by then, the software trap is entered first and the slot fault's record waits (log 43). Barriers that its BARDROP has
left without references free (R226). -/
def Core.closeIssue (k : Core) : Core :=
  match k.issue with
  | none => k
  | some b =>
    let x := b.ctx
    let k := ({ k with issue := none, seq := k.seq + 1 }.arriveCleared b).freeBars
    let k := k.upd x (fun c => { c with pc := b.next, waiting := c.waiting.map (fun r =>
      if r.seq = b.seq ∧ r.bundle = b.h then { r with next := b.next } else r) })
    match b.swtrap with
    | some code => k.issueFault x ⟨cSWTRAP, 0, false, code * 2 ^ 16, 0⟩ b.next
    | none =>
      if (k.ctx x).st = .issuing ∧ (k.ctx x).waiting = [] then
        match k.standing x with
        | some cause => k.block x cause (k.standingOn x cause)
        | none => k
      else if (k.ctx x).st = .halting ∧ (k.ctx x).inh = false ∧ (k.ctx x).waiting ≠ [] then k.makeReady x
      else k

/-- What the issue unit does with a bundle: `hold` keeps back the first bundle of a spawned context (R75), every bundle of a
core that stops to be saved (R296) or of a die over temperature (R348); `wait` is the interlock (R64); `skip` is the nullifier's
(R65). -/
inductive Ruling where
  | hold
  | wait
  | skip
  | trap (t : Trap)
  | block (c : Cause)
  | go
  deriving DecidableEq, Repr
/-- The accesses that a SPAWN released are not all performed yet (R75): one of the spawning context is still under way, or owed
after a slot fault. -/
def Core.held (k : Core) (x : Nat) : Bool :=
  match (k.ctx x).hold with
  | none => false
  | some (y, n) =>
    let early := fun (f : Flight) => decide (f.iss.ctx = y ∧ f.iss.seq < n)
    k.stores.any (fun p => early p.fl) || k.atomics.any early || k.loads.any early ||
    (k.ctx y).wait.any (fun f => early f && f.accesses) || (k.ctx y).owed.any (fun fp => early fp.fl && fp.fl.accesses)
/-- The core has stopped issue at a bundle boundary (R296, R348). -/
def Mach.stopped (m : Mach) (c : Nat) : Bool :=
  m.saves.any (fun r => r.core == c && r.stopped) || Tab.get false m.tripped (dieOf c)
/-- A MARK's stall first (R262); then the interlock, unless an operation that blocks the context is what it waits for (R64, R126);
a skipped bundle waits for room for its VOID appends and for what an earlier bundle waits for (R63, R65); then the checks of R43,
then the causes of R63. A bundle with an encoding error makes its state checks without the interlock (R43; log 49). A spawned
context that is held back keeps the issue unit as ISSUING (R75; log 43). -/
def Bun.ruling (b : Bun) (seen : Seen) : Ruling :=
  if b.k.held b.x || b.s.mach.stopped b.c then .hold
  else if b.ctx.markWait.isSome then .block .mark
  else if seen.err.isNone && b.interlocked seen.parts then
    match b.k.standing b.x with
    | some c => .block ((b.cause seen.parts).getD c)
    | none => .wait
  else if b.skips seen then
    if b.fullQueues seen.parts ≠ [] then .block .queueFull else ((b.k.standing b.x).map Ruling.block).getD .skip
  else match b.checks seen.parts seen.err with
    | some t => .trap t
    | none => match b.cause seen.parts with
      | some c => .block c
      | none => .go
/-- The skip of a bundle: appends VOID, AR arrivals, no transfer (R65). Of a predicate written by the bundle before, the skip
costs one ac; of predicates written three issued bundles before or earlier, none; between these R65's times decide, which the
model does not keep (log 3). -/
def Bun.skipped (b : Bun) (seen : Seen) : Core :=
  let k := b.openOn seen.parts true
  let named := fun (l : List Nat) => (namedGuards seen.parts).any (fun g => l.contains g.toNat)
  let wrote := fun (n : Nat) => named (b.ctx.recent.getD n [])
  let costs := named b.ctx.latePreds || wrote 0 || ((wrote 1 || wrote 2) && Config.skipCosts b.s.mach.tick)
  (k.inc (if costs then 0x54 else 0x53) 1).closeIssue
/-- The core after a ruling; `go` opens the bundle. -/
def Bun.act (b : Bun) (seen : Seen) : Ruling → Core
  | .hold => b.k
  | .wait => b.k.upd b.x (fun c => c.incAc b.s.mach.tick 0x5B)
  | .trap t => b.k.issueFault b.x t (BitVec.ofNat 64 b.h)
  | .skip => b.skipped seen
  | .block c => b.k.block b.x c (b.blockOn seen.parts c)
  | .go => (b.openOn seen.parts false).inc 0x50 1

/-- The next bundle of a context. -/
def nextBun (s : State) (c x : Nat) : Bun × Seen :=
  let k := s.mach.core c
  let h := (k.ctx x).pc.toNat
  let seen := k.look x h
  (⟨s, c, x, h, seen.size⟩, seen)
/-- The next bundle of a blocked context is no longer held back, or for other causes: the ac until then are counted under those
that held (R63, R114, R195). -/
def recheck (core x : Nat) (s : State) : Option State :=
  let k := s.mach.core core
  let n := nextBun s core x
  if (k.ctx x).st ≠ .blocked ∨ s.mach.stopped core = true then none
  else match n.1.ruling n.2 with
    | .block c => let on := n.1.blockOn n.2.parts c
      if (k.ctx x).blk = some c ∧ (k.ctx x).blkOn = on then none
      else some (s.onCore core (fun k => (k.countBlock x (blockAc s.mach.tick x)).upd x (fun y => { y with blk := some c, blkOn := on })))
    | .hold => none
    | _ => some (s.onCore core (fun k => k.unblock x s.mach.tick))
/-- Something that a context may be blocked for is over: it goes on, or stays blocked for what else holds it back (R62, R63). -/
def State.settle (s : State) (core x : Nat) : State := (recheck core x s).getD s
/-- The open bundle of core `c` closes. A block that begins with an operation of the bundle is one for what holds back the next
bundle besides, too (R63, R195). -/
def State.close (s : State) (c : Nat) : State :=
  match (s.mach.core c).issue with
  | none => s
  | some b =>
    let s := s.onCore c Core.closeIssue
    let n := nextBun s c b.ctx
    if ((s.mach.core c).ctx b.ctx).st ≠ .blocked then s
    else match n.1.ruling n.2 with
      | .block w => s.onCore c (fun k => k.upd b.ctx (fun y => { y with blk := some w, blkOn := n.1.blockOn n.2.parts w }))
      | _ => s

/-! ### The effect of one part -/

/-- What a part does once its bundle has issued: from the state as it stands and the bundle's record. It changes no
memory: stores are performed later (R126, R221). -/
abbrev Eff := State → Issue → Mach → Mach
/-- An effect on the core in focus alone. -/
def onFocus (f : State → Issue → Core → Core) : Eff := fun s b m => m.upd m.focusCore (f s b)
/-- The bundle's record changed. -/
def Core.onIssue (k : Core) (f : Issue → Issue) : Core := { k with issue := k.issue.map f }
/-- The next fresh free value is another one (log 6). -/
def Mach.ticked (m : Mach) : Mach := { m with tick := m.tick + 1 }

/-- A step of the device that changes no memory. -/
def stepMach (s : State) (m : Mach) : Out := .next { s with mach := m.ticked }
/-- A step whose condition does not hold leaves the machine as it stands (log 14). -/
def stutter (s : State) : Out := .next s
/-- A step that may change memory. -/
def stepState (s : State) (r : Option State) : Out :=
  match r with
  | some t => .next { t with mach := t.mach.ticked }
  | none => .next s

/-- Bytes of the smallest bundle that can hold a part (R14, R15). -/
def soloSize (i : Instr) : Nat := if partNo i ≤ 2 then 8 else 16

/-- A bundle of that one part, at the pc of the context in focus (log 13). -/
def soloBun (s : State) (i : Instr) : Bun :=
  let c := s.mach.focusCore
  let x := s.mach.focusCtx
  ⟨s, c, x, ((s.mach.core c).ctx x).pc.toNat, soloSize i⟩
/-- What the issue unit finds of that bundle. -/
def soloSeen (i : Instr) : Seen :=
  ⟨[i], (match encErr i with
    | none => none
    | some e => some ⟨e, partNo i⟩), soloSize i⟩
/-- The effect of a part whose guard reads true, nothing otherwise (R18). -/
def runEff (i : Instr) (eff : Eff) (s : State) (b : Issue) : Mach :=
  if b.pre.rP (guardOf i).toNat then eff s b s.mach else s.mach

/-- Run one part. Inside an open bundle its effect follows; else it issues as a bundle of its own (log 13). -/
def runPart (i : Instr) (eff : Eff) (s : State) : Out :=
  let c := s.mach.focusCore
  match (s.mach.core c).issue with
  | some b => .next { s with mach := (runEff i eff s b).ticked }
  | none =>
    let b := soloBun s i
    let r := b.ruling (soloSeen i)
    let m := s.mach.setCore c (b.act (soloSeen i) r)
    match r with
    | .go =>
      let s1 : State := { s with mach := m.ticked }
      match (m.core c).issue with
      | some rec => .next (State.close { s with mach := runEff i eff s1 rec } c)
      | none => .next s1
    | _ => .next { s with mach := m.ticked }

end Sys2Proof.Machine
end

