-- ==== Sys2Proof/Machine/Control.lean ====
section
/-! DEFINITION. Control operations (R70 to R79, R81): branches, loops, SPAWN, HALT, YIELD, DBAR, WAITB, FENCE, IFENCE,
TRAP, SWAPI, and the steps that complete their waits. ERET stands with the traps, MARK with the ephemeris. -/
namespace Sys2Proof.Machine
open Sys2Proof

/-- The context goes on at `a`. -/
def Core.goTo (k : Core) (a : Nat) : Core := k.onIssue (fun b => { b with next := BitVec.ofNat 64 a })
/-- A register of the context written by a control operation. -/
def Core.setS (k : Core) (x n : Nat) (v : W64) : Core := k.upd x (fun c => c.onRegs (fun r => r.wS n v))
/-- The address of the bundle that follows. -/
def Issue.after (b : Issue) : Nat := b.h.toNat + b.size
/-- The target of an offset, which check 1 has found legal (R22). -/
def Issue.near (b : Issue) (off : Int) : Nat := (parcelTarget b.h.toNat off).toNat

/-- NOP (R78). -/
def execNop (g : BitVec 4) (s : State) : Out := runPart (.nop g) (fun _ _ m => m) s
/-- BR (R71). -/
def execBr (g : BitVec 4) (off : BitVec 19) (s : State) : Out :=
  runPart (.br g off) (onFocus (fun _ b k => k.goTo (b.near (sext off.toNat 19)))) s
/-- BRX (R71). -/
def execBrx (g : BitVec 4) (n : BitVec 6) (s : State) : Out :=
  runPart (.brx g n) (onFocus (fun _ b k => k.goTo (b.pre.rS n.toNat).toNat)) s
/-- CALL (R71). -/
def execCall (g : BitVec 4) (off : BitVec 19) (s : State) : Out :=
  runPart (.call g off) (onFocus (fun _ b k =>
    (k.setS b.ctx 63 (BitVec.ofNat 64 b.after)).goTo (b.near (sext off.toNat 19)))) s
/-- RET (R71). -/
def execRet (g : BitVec 4) (s : State) : Out :=
  runPart (.ret g) (onFocus (fun _ b k => k.goTo (b.pre.rS 63).toNat)) s

/-- LDEPTH written (R67). -/
def Ctx.setDepth (x : Ctx) (d : Nat) : Ctx := x.wC csrLOOPST (BitVec.ofNat 64 (d % 4))
/-- The size of the bundle whose header parcel is at `a` (R70). Of a header with a reserved TEMPLATE, whose size the spec does
not give, it takes one parcel (R15, R72; log 43). -/
def Core.bundleSize (k : Core) (a : Nat) : Nat :=
  8 * (bundleParcels (Tab.get 0 k.ispad (a / 8))).getD 1
/-- LDEPTH as it stood before the bundle (R70). -/
def Issue.ldepth (b : Issue) : Nat := fld (b.rC csrLOOPST) 1 0
/-- LOOP (R72). -/
def loopEff (off n : Nat) (b : Issue) (k : Core) : Core :=
  let count := b.pre.rS n
  let fin := b.h.toNat + 8 * off
  if count = 0 then k.goTo (fin + k.bundleSize fin)
  else k.upd b.ctx (fun c =>
    let d := b.ldepth
    (((c.wC (csrBEG d) (BitVec.ofNat 64 b.after)).wC (csrFIN d) (BitVec.ofNat 64 fin)).wC (csrCNT d) count).setDepth (d + 1))
def execLoop (g : BitVec 4) (off : BitVec 13) (n : BitVec 6) (s : State) : Out :=
  runPart (.loop g off n) (onFocus (fun _ b k => loopEff off.toNat n.toNat b k)) s
/-- LEND (R72). -/
def lendEff (b : Issue) (k : Core) : Core :=
  let d := b.ldepth - 1
  let n := b.rC (csrCNT d) - 1
  let k := k.upd b.ctx (fun c => c.wC (csrCNT d) n)
  if n ≠ 0 then k.goTo (b.rC (csrBEG d)).toNat else k.upd b.ctx (fun c => c.setDepth d)
def execLend (g : BitVec 4) (s : State) : Out := runPart (.lend g) (onFocus (fun _ b k => lendEff b k)) s

/-- SPAWN (R74): the target receives S8 to S15 and becomes READY; its first bundle waits for the accesses released by
R75. -/
def spawnEff (off : Int) (t : Nat) (b : Issue) (k : Core) : Core :=
  let k := k.upd t (fun c =>
    let r := (List.range 8).foldl (fun r i => Regs.wS r (8 + i) (b.pre.rS (8 + i))) c.regs
    { c.setDepth 0 with regs := r, pc := BitVec.ofNat 64 (b.near off), hold := some (b.ctx, b.seq) })
  k.makeReady t
def execSpawn (g : BitVec 4) (off : BitVec 17) (t : BitVec 2) (s : State) : Out :=
  runPart (.spawn g off t) (onFocus (fun _ b k => spawnEff (sext off.toNat 17) t.toNat b k)) s

/-- The issue unit leaves a context that gives it up for the next READY one, after one penalty ac (R62). -/
def Core.passOn (k : Core) (x : Nat) (st : CState) : Core :=
  let k := k.upd x (fun c => { c with st := st })
  match k.nextReady x with
  | some y => (k.selectCtx y).inc 0x51 1
  | none => if k.selected = some x then { k with selected := none } else k
/-- HALT (R76): a context whose halt a slot fault abandons reaches the HALT bundle again. -/
def execHalt (g : BitVec 4) (s : State) : Out :=
  runPart (.halt g) (onFocus (fun _ b k => (k.passOn b.ctx .halting).goTo b.h.toNat)) s
/-- YIELD (R77). -/
def execYield (g : BitVec 4) (s : State) : Out :=
  runPart (.yield g) (onFocus (fun _ b k => if (k.nextReady b.ctx).isSome then k.passOn b.ctx .ready else k)) s
/-- DBAR (R81): the wait, the arrival and the release follow. -/
def execDbar (g : BitVec 4) (lvl : BitVec 3) (s : State) : Out :=
  runPart (.dbar g lvl) (onFocus (fun _ b k => k.upd b.ctx (fun c => { c with dbar := some ⟨lvl.toNat, false⟩ }))) s
/-- WAITB (R78, R227): the bundle issues once the phase is complete; it has no further effect. -/
def execWaitb (g : BitVec 4) (n : BitVec 6) (s : State) : Out := runPart (.waitb g n) (fun _ _ m => m) s

/-- Is a copy of the context, of the given kind, still to land (R78, R76)? -/
def Core.copiesOf (k : Core) (x : Nat) (p : Copy → Bool) : Bool := k.cq.any (fun c => decide (c.fl.iss.ctx = x) && p c)
/-- Does a parked copy of the context, of the given kind, wait for its replay (R318)? -/
def Core.parkedOf (k : Core) (x : Nat) (p : Copy → Bool) : Bool :=
  (List.range 8).any (fun i => match Tab.get none k.parked i with
    | some c => decide (c.fl.iss.ctx = x) && p c
    | none => false)
/-- Does a part of the given kind that a slot fault took out still owe its work? Waits inside the handler do not cover what ERET
will run again (R305; log 32). -/
def Core.owes (k : Core) (x : Nat) (p : Flight → Bool) : Bool := !(k.ctx x).inh && (k.ctx x).owed.any (fun fp => p fp.fl)
/-- Has every copy of the context of the given kind landed? A copy that is parked or that a slot fault took out has not (R221,
R305; log 30). -/
def Core.copiesLanded (k : Core) (x : Nat) (p : Flight → Bool) : Bool :=
  !k.copiesOf x (fun c => p c.fl) && !k.parkedOf x (fun c => p c.fl) && !k.owes x (fun f => decide (partNo f.i = 6) && p f)
/-- Is every access of the context performed (R235): its loads, stores and atomics, the record of a system operation it waits at,
and those that a slot fault took out? -/
def Core.accessesDone (k : Core) (x : Nat) : Bool :=
  let of := fun (f : Flight) => decide (f.iss.ctx = x)
  !(k.loads.any of || k.atomics.any of || k.stores.any (fun p => of p.fl) || (k.ctx x).wait.any Flight.accesses ||
    k.owes x Flight.accesses)
/-- A FENCE is complete (R78, R235, R238): every copy has landed and every access is performed, which for memory is the same at
every scope. -/
def Core.fenceDone (k : Core) (x : Nat) : Bool := k.copiesLanded x (fun _ => true) && k.accessesDone x
/-- Does a copy write the instruction scratchpad (R346)? -/
def Flight.isCode (f : Flight) : Bool :=
  match f.i with
  | .cplinCode _ => true
  | _ => false
/-- FENCE (R78). -/
def execFence (g : BitVec 4) (sc : BitVec 3) (s : State) : Out :=
  runPart (.fence g sc) (onFocus (fun _ b k =>
    if k.fenceDone b.ctx then k else k.upd b.ctx (fun c => { c with fence := some sc.toNat }))) s
/-- IFENCE (R78). Fetch reads the instruction scratchpad as it stands, so nothing fetched is to be discarded (log 16). -/
def execIfence (g : BitVec 4) (s : State) : Out :=
  runPart (.ifence g) (onFocus (fun _ b k =>
    if k.copiesLanded b.ctx Flight.isCode then k else k.upd b.ctx (fun c => { c with ifence := true }))) s
/-- TRAP (R79): the handler is entered once the bundle's slots have issued. -/
def execTrap (g : BitVec 4) (code : BitVec 8) (s : State) : Out :=
  runPart (.trap g code) (onFocus (fun _ _ k => k.onIssue (fun b => { b with swtrap := some code.toNat }))) s
/-- SWAPI (R73). -/
def execSwapi (g : BitVec 4) (off : BitVec 14) (s : State) : Out :=
  runPart (.swapi g off) (onFocus (fun _ b k =>
    k.goTo ((if halfOf b.h.toNat = 0 then 0x20000 else 0) + 8 * off.toNat))) s

/-! ### The steps that end these waits -/


/-- NULLIFIER_SKIP (R65): the context that holds the issue unit skips its next bundle. -/
def execNullifierSkip (core ctx : Nat) (s : State) : Out :=
  if core ≥ 640 ∨ ctx ≥ 4 then .fault .noSuchUnit
  else
    let n := nextBun s core ctx
    if ((s.mach.core core).ctx ctx).st = .issuing ∧ ((s.mach.core core).ctx ctx).waiting = [] ∧
        (s.mach.core core).issue = none ∧ n.1.ruling n.2 = .skip then
      stepMach s (s.mach.setCore core (n.1.skipped n.2))
    else stutter s

/-- FENCE_COMPLETE (R78). -/
def fenceComplete (core x : Nat) (s : State) : State :=
  (s.onCore core (fun k => k.upd x (fun c => { c with fence := none }))).settle core x
def fenceReady (k : Core) (x : Nat) : Bool := (k.ctx x).fence.isSome && k.fenceDone x
def fenceTry (core x : Nat) (s : State) : Option State :=
  if fenceReady (s.mach.core core) x then some (fenceComplete core x s) else none
def execFenceComplete (core ctx : Nat) (s : State) : Out :=
  if core ≥ 640 ∨ ctx ≥ 4 then .fault .noSuchUnit
  else stepState s (fenceTry core ctx s)
/-- IFENCE_COMPLETE (R78). -/
def ifenceComplete (core x : Nat) (s : State) : State :=
  (s.onCore core (fun k => k.upd x (fun c => { c with ifence := false }))).settle core x
def ifenceReady (k : Core) (x : Nat) : Bool := (k.ctx x).ifence && k.copiesLanded x Flight.isCode
def ifenceTry (core x : Nat) (s : State) : Option State :=
  if ifenceReady (s.mach.core core) x then some (ifenceComplete core x s) else none
def execIfenceComplete (core ctx : Nat) (s : State) : Out :=
  if core ≥ 640 ∨ ctx ≥ 4 then .fault .noSuchUnit
  else stepState s (ifenceTry core ctx s)

/-! ### Domains (R80 to R82) -/

/-- A context somewhere in the module, running or saved: launch, tenant, launch core index, context number, record. -/
structure Member where
  launch : Option Nat
  asid : Nat
  lindex : Nat
  x : Nat
  ctx : Ctx
/-- The bound contexts of a core. -/
def Core.members (k : Core) : List Member :=
  (ctxNums.filter (fun x => decide ((k.ctx x).st ≠ .unbound))).map (fun x => ⟨k.launch, k.asid, k.lindex, x, k.ctx x⟩)
/-- Every bound context, saved ones included (R82). -/
def Mach.members (m : Mach) : List Member :=
  m.cores.flatMap (fun e => e.2.members) ++ m.saved.flatMap (fun v => v.core.members)
/-- A domain: the launch and core index for levels 0 and 1, the tenant and identifier for levels 2 to 5 (R80). -/
def Member.domain (y : Member) (n : Nat) : Option (Nat × Nat) :=
  if n = 0 then some ((y.launch.getD 0) * 1024 + y.lindex, y.x)
  else if n = 1 then
    if y.ctx.dommask.getLsbD y.x then some ((y.launch.getD 0) * 1024 + y.lindex, y.ctx.dommask.toNat) else none
  else
    let d := Tab.get 0 y.ctx.domid n
    if flag d 48 then some (y.asid, fld d 47 24) else none
/-- The contexts of one domain. -/
def Mach.domainOf (m : Mach) (y : Member) (n : Nat) : List Member :=
  match y.domain n with
  | none => []
  | some d => m.members.filter (fun z => decide (z.domain n = some d))
/-- The context `x` of core `c` as a member. -/
def Mach.member (m : Mach) (c x : Nat) : Member :=
  let k := m.core c
  ⟨k.launch, k.asid, k.lindex, x, k.ctx x⟩
/-- PHASE at a level (R67). -/
def Ctx.phase (x : Ctx) (n : Nat) : Bool := if n = 1 then x.phase1 else flag (Tab.get 0 x.domid n) 49
/-- PHASE flipped. -/
def Ctx.flipPhase (x : Ctx) (n : Nat) : Ctx :=
  if n = 1 then { x with phase1 := !x.phase1 }
  else { x with domid := Tab.set 0 x.domid n (Tab.get 0 x.domid n ^^^ BitVec.ofNat 64 (2 ^ 49)) }
/-- The member count (R81). -/
def Ctx.memberCount (x : Ctx) (n : Nat) : Nat :=
  if n = 1 then popCount x.dommask.toNat 4 else fld (Tab.get 0 x.domid n) 23 0
/-- The DBAR a context waits at, in its handler too. -/
def Ctx.atDbar (x : Ctx) : Option DbarWait := x.dbar.orElse (fun _ => x.susp.bind (fun w => w.dbar))
/-- Has a member arrived for the phase `ph`? -/
def Member.arrived (y : Member) (n : Nat) (ph : Bool) : Bool :=
  y.ctx.phase n == ph && (match y.ctx.atDbar with
    | some d => d.level == n && d.arrived
    | none => false)
/-- The accesses and copies a DBAR waits for are performed, landed or faulted (R81). -/
def Core.dbarQuiet (k : Core) (x : Nat) : Bool := k.accessesDone x && !k.copiesOf x (fun _ => true)
/-- The release reaches a member: PHASE flips, and it no longer waits (R81). -/
def Ctx.passDbar (x : Ctx) (n : Nat) : Ctx :=
  let x := x.flipPhase n
  if x.dbar.isSome then { x with dbar := none } else { x with susp := x.susp.map (fun w => { w with dbar := none }) }
/-- The release reaches a core: its members of the domain that have arrived pass. -/
def Core.passDbar (k : Core) (n : Nat) (d : Nat × Nat) (ph : Bool) : Core :=
  (k.members.filter (fun z => decide (z.domain n = some d) && z.arrived n ph)).foldl (fun k z =>
    k.upd z.x (fun c => c.passDbar n)) k
/-- The release of a domain, in saved cores too (R82). -/
def Mach.passDbar (m : Mach) (n : Nat) (d : Nat × Nat) (ph : Bool) : Mach :=
  let f := fun (k : Core) => if k.members.any (fun z => decide (z.domain n = some d)) then k.passDbar n d ph else k
  { m with
    cores := m.cores.map (fun e => (e.1, f e.2))
    saved := m.saved.map (fun v => { v with core := f v.core }) }
/-- DBAR_RELEASE (R81): the context arrives once its accesses are performed; once every member has arrived, all pass. -/
def dbarRelease (core x : Nat) (m : Mach) : Option Mach :=
  let k := m.core core
  match (k.ctx x).dbar with
  | none => none
  | some d =>
    if !d.arrived && !k.dbarQuiet x then none
    else
      let m := m.upd core (fun k => k.upd x (fun c => { c with dbar := some { d with arrived := true } }))
      let y := m.member core x
      let ph := y.ctx.phase d.level
      let ms := (m.domainOf y d.level).filter (fun z => z.arrived d.level ph)
      if ms.length ≥ y.ctx.memberCount d.level then (y.domain d.level).map (fun dom => m.passDbar d.level dom ph)
      else if d.arrived then none else some m
/-- The contexts that a DBAR held back in one state and not in another. -/
def released (m m' : Mach) : List (Nat × Nat) :=
  m.cores.flatMap (fun e => (ctxNums.filter (fun x => (e.2.ctx x).dbar.isSome && ((m'.core e.1).ctx x).dbar.isNone)).map (fun x => (e.1, x)))
/-- DBAR_RELEASE, after which the contexts it has released go on. -/
def dbarTry (core x : Nat) (s : State) : Option State :=
  (dbarRelease core x s.mach).map (fun m => (released s.mach m).foldl (fun s e => s.settle e.1 e.2) { s with mach := m })
def execDbarRelease (core ctx : Nat) (s : State) : Out :=
  if core ≥ 640 ∨ ctx ≥ 4 then .fault .noSuchUnit else stepState s (dbarTry core ctx s)

/-- HALT_DRAINED (R76): every operation the context issued has retired, every copy has landed or faulted. It does not wait for a
controller, nor for its routines (R266). -/
def Core.drained (k : Core) (x : Nat) : Bool :=
  let of := fun (f : Flight) => decide (f.iss.ctx = x)
  k.accessesDone x && !k.copiesOf x (fun _ => true) && !(k.vparts.any (fun v => of v.fl)) && !(k.divider.any of) &&
  !(k.rq.any (fun r => of r.fl && !r.ctrl)) && (k.ctx x).wait.isNone && (k.ctx x).fence.isNone && (k.ctx x).dbar.isNone &&
  (k.ctx x).markWait.isNone && !(k.fills.any (fun f => decide (f.ctx = x)))
/-- A halt inside the handler discards the records of its context; what their parts read and reserved is abandoned, so that what
waits behind them goes on (R92, R307). -/
def Core.dropRecords (k : Core) (x : Nat) (abandon : Bool → Core → FaultPart → Core) : Core :=
  ((k.ctx x).heldParts.foldl (fun k e => abandon e.1 k e.2) k).upd x (fun c =>
    { c with handling := c.handling.map (fun r => { r with parts := [] }), waiting := [] })
/-- A halting context goes on to discard its records, or, all it issued done, to IDLE. -/
def Ctx.discards (c : Ctx) : Bool := c.inh && !c.heldParts.isEmpty
def haltReady (k : Core) (x : Nat) : Bool :=
  decide ((k.ctx x).st = .halting) && ((k.ctx x).discards || k.drained x && ((k.ctx x).waiting.isEmpty || (k.ctx x).inh))
def haltOn (x : Nat) (abandon : Bool → Core → FaultPart → Core) (k : Core) : Core :=
  if (k.ctx x).discards then k.dropRecords x abandon
  else k.upd x (fun c => { c with st := .idle, inh := false, handling := none, waiting := [], blk := none, susp := none, dbar := none, fence := none, ifence := false, markWait := none })

end Sys2Proof.Machine
end

