-- ==== Sys2Proof/Machine/Ports.lean ====
section
/-! DEFINITION. The shared ports of a die (R211, R249, R256, R327, R329): which port a transfer takes, the requests it makes there
under the slot table, and the loss of the last fabric port. -/
namespace Sys2Proof.Machine
open Sys2Proof

/-- A virtual range as runs that do not cross a 64 KiB page. -/
def pageRuns (va n : Nat) : List (Nat × Nat) :=
  (List.range ((65535 + (n + va)) / 65536 - va / 65536)).map (fun i =>
    let lo := if i = 0 then va else va / 65536 * 65536 + 65536 * i
    let hi := Nat.min (va + n) (va / 65536 * 65536 + 65536 * (i + 1))
    (lo % 2 ^ 64, hi - lo))
/-- Runs of a range that do not cross a 4 KiB channel unit. -/
def channelRuns (va n : Nat) : List (Nat × Nat) :=
  (List.range ((4095 + (n + va)) / 4096 - va / 4096)).map (fun i =>
    let lo := if i = 0 then va else va / 4096 * 4096 + 4096 * i
    (lo % 2 ^ 64, Nat.min (va + n) (va / 4096 * 4096 + 4096 * (i + 1)) - lo))
/-- The local runs of a virtual range. -/
def rangeLines (s : State) (core asid va n : Nat) : List (Nat × Nat) :=
  (pageRuns va n).filterMap (fun (v, m) => match translate s (agentOf core) asid v accRead with
    | .ok 0 ad _ => some (ad, m)
    | _ => none)
/-- A local range is taken up by a read of a tenant under a POLICY (R254). -/
def State.reads (s : State) (core asid pol : Nat) (rs : List (Nat × Nat)) : State :=
  { s with mem := (rs.flatMap (fun (va, n) => rangeLines s core asid va n)).foldl (fun m (ad, n) => m.touchRange pol ad n) s.mem }

/-- The home die of a place is in RETAIN or OFFSR: accesses homed there wait (R348). -/
def Mach.asleep (m : Mach) (sp ad : Nat) : Bool := decide (sp = 0) && flag (m.dieReg (homeDie ad) 0x080) 3
/-- Some page of the ranges has such a home. -/
def State.sleeps (s : State) (g asid : Nat) (rs : List (Nat × Nat)) : Bool :=
  rs.any (fun (va, n) => (pageRuns va n).any (fun (v, _) => match translate s g asid v accRead with
    | .ok sp ad _ => s.mach.asleep sp ad
    | .fail _ => false))

/-- The trained fabric ports of a die. -/
def Mach.fabricPorts (m : Mach) (d : Nat) : List Nat := (List.range 4).filter (fun i => m.uliUp (4 * d + i))
/-- No trained port of the core's die remains for a remote access (R327). -/
def uliLost (m : Mach) (core sp : Nat) : Bool := decide (sp = 1) && (m.fabricPorts (dieOf core)).isEmpty
/-- ECCUE of the die counts an access that found no port (R327). -/
def Mach.noteLost (m : Mach) (core sp : Nat) : Mach :=
  if uliLost m core sp then m.incDie (dieOf core) 0x328 1 else m
/-- The trained port that the fixed hash chooses for a remote device, a dropped one left out (R327; log 18). -/
def Mach.fabricPort (m : Mach) (d dev : Nat) : Option Nat :=
  let l := m.fabricPorts d
  l[Config.portHash dev % l.length]?
/-- The far channels of a die that bring-up has not left out of its interleave (R347). -/
def Mach.farChannels (m : Mach) (d : Nat) : List Nat := (List.range 12).filter (fun c => !flag (m.portReg 0 0x018) (13 + 12 * d + c))
/-- The far channel of a local address (R249, R347). -/
def Mach.farChannel (m : Mach) (ad : Nat) : Option Nat :=
  let l := m.farChannels (homeDie ad)
  l[(ad - 0x10000000000) % 0x6000000000 / 4096 % l.length]?
/-- The port of a die's slot table that a transfer takes: a far channel, or a fabric port (R249, R256, R327). -/
def Mach.portOf (m : Mach) (core sp ad : Nat) : Option (Nat × Nat) :=
  if sp = 0 ∧ isFar ad = true then (m.farChannel ad).map (fun c => (homeDie ad, 1 + c))
  else if sp = 1 then (m.fabricPort (dieOf core) (ad / 2 ^ 42)).map (fun p => (dieOf core, 13 + p))
  else none
/-- How a transfer treats the local lines it meets: a read under a POLICY moves the lines no cache holds; a write those that no cache
and no frame takes; a write-back moves the dirty ones among these, or those of one tier that the tier below does not take;
a frame that is written back moves its dirty lines (R211, R219, R254, R255, R261). -/
inductive Move where
  | read (pol : Nat)
  | write
  | back
  | fromL2
  | fromMsc
  | frames
  deriving DecidableEq, Repr
/-- The 64-byte units that a run of a transfer moves through its port. -/
def moveUnits (mem : Mem) (w : Move) (sp ad n : Nat) : Nat :=
  let ls := (List.range ((63 + (n + ad)) / 64 - ad / 64)).map (· + ad / 64)
  if sp ≠ 0 then ls.length
  else match w with
    | .read pol => (ls.filter (fun l => !mem.isStaged l && !mem.hits pol l)).length
    | .write => (ls.filter (fun l => !mem.isStaged l && !mem.hits 0 l)).length
    | .back => (ls.filter (fun l => !mem.isStaged l && (mem.dramOf l).isSome)).length
    | .fromL2 => (ls.filter (fun l => !mem.isStaged l && !mem.inMsc l && (older mem.dirty l).isSome)).length
    | .fromMsc => (ls.filter (fun l => !mem.isStaged l && (older mem.mdirty l).isSome)).length
    | .frames => (ls.filter (fun l => (older mem.frames l).isSome)).length
/-- The requests that a run of one page makes at the ports, in order (R256; log 19): of the tier engine, its own port takes the far
lines. -/
def runReqs (s : State) (core asid holder tag : Nat) (engine : Bool) (w : Move) (sp ad n : Nat) : List PortReq :=
  if sp ≥ 2 ∨ (sp = 0 ∧ isFar ad = false) then []
  else (channelRuns ad n).filterMap (fun (a, n) =>
    let u := moveUnits s.mem w sp a n
    if u = 0 then none
    else (s.mach.portOf core sp a).map (fun (d, p) => ⟨d, if engine = true ∧ sp = 0 then 0 else p, asid, u, holder, tag⟩))
/-- The requests that a transfer over the ranges makes. -/
def portNeeds (s : State) (core asid holder tag : Nat) (engine : Bool) (w : Move) (rs : List (Nat × Nat)) : List PortReq :=
  rs.flatMap (fun (va, n) => (pageRuns va n).flatMap (fun (v, m) =>
    match translate s (agentOf core) asid v accRead with
    | .ok sp ad _ => runReqs s core asid holder tag engine w sp ad m
    | .fail _ => []))
/-- The ports have moved every unit of a transfer; its requests leave the ports. -/
def portsDone (m : Mach) (holder tag : Nat) : Bool := !(m.portReqs.any (fun r => r.core == holder && r.tag == tag))
def Mach.dropPorts (m : Mach) (holder tag : Nat) : Mach :=
  { m with portReqs := m.portReqs.filter (fun r => !(r.core == holder && r.tag == tag)), asked := m.asked.filter (· ≠ (holder, tag)) }
/-- Under which names the ports know who asks: the scalar accesses and contributions of a core; its waiting operations; the controller
of a cluster; the save of a core, and a restore by its order; a command queue; launches and graphs; a host's aperture; another
device. -/
def scalarHolder (core : Nat) : Nat := 4096 + core
def waitHolder (core : Nat) : Nat := 8192 + core
def rlcHolder (cl : Nat) : Nat := 12288 + cl
def saveHolder (core : Nat) : Nat := 16384 + core
def restoreHolder : Nat := 20480
def queueHolder (key : Nat) : Nat := 20736 + key
def launchHolder : Nat := 20992
def hostHolder (port : Nat) : Nat := 20993 + port
def remoteHolder (dev : Nat) : Nat := 24576 + dev
/-- May a transfer go on: its requests have been served, or are still to be made? -/
def Mach.maySend (m : Mach) (holder tag : Nat) : Bool := !m.asked.contains (holder, tag) || portsDone m holder tag
/-- A transfer with its requests at the ports (R256, R329; log 19): the first time it makes them; once every unit has moved, and at once
where it needs none, what it is for is done. Until then it waits. -/
def State.viaPorts (s : State) (holder tag : Nat) (reqs : List PortReq) (go : State → Option State) : Option State :=
  if s.mach.asked.contains (holder, tag) then
    (if portsDone s.mach holder tag then go { s with mach := s.mach.dropPorts holder tag } else none)
  else if reqs = [] then go s
  else some { s with mach := { s.mach with portReqs := s.mach.portReqs ++ reqs, asked := (holder, tag) :: s.mach.asked } }
/-- A transfer of a tenant over ranges, with what else it asks the ports for; it waits while a home die of these does not serve
(R348). -/
def State.transfer (s : State) (core asid holder tag : Nat) (mv : List (Move × List (Nat × Nat))) (go : State → Option State)
    (more : List PortReq := []) : Option State :=
  if mv.any (fun e => s.sleeps (agentOf core) asid e.2) then none
  else s.viaPorts holder tag (more ++ mv.flatMap (fun e => portNeeds s core asid holder tag false e.1 e.2)) go
/-- A scalar access asks for its units when it issues (R256, R329): a write of part of a line reads the line first. -/
def askPorts (s : State) (core : Nat) (b : Issue) (va n : Nat) (m : Mach) : Mach :=
  { m with portReqs := m.portReqs ++ portNeeds s core b.asid (scalarHolder core) b.seq false (.read 0) [(va, n)] }

/-! ### The slot table (R256) -/

/-- Entry `w` of a die's slot table in effect. -/
def Mach.slot (m : Mach) (d w : Nat) : W64 := Tab.get 0 m.slots (d * 64 + w)
/-- The tenant after `last` in increasing order with wrap-around, among those pending. -/
def nextTenant (last : Nat) (l : List Nat) : Option Nat :=
  let up := sortNat (l.filter (fun a => decide (a > last)))
  match up with
  | a :: _ => some a
  | [] => (sortNat l).head?
where
  /-- The list in increasing order. -/
  sortNat (l : List Nat) : List Nat := l.foldl (fun t a => ins a t) []
  /-- One more number in a rising list. -/
  ins (a : Nat) : List Nat → List Nat
    | [] => [a]
    | b :: t => if a ≤ b then a :: b :: t else b :: ins a t
/-- The request granted at a port's next 64-byte boundary, in the window of the present µs. -/
def Mach.grantee (m : Mach) (d p : Nat) : Option PortReq :=
  let rs := if p ≥ 13 ∧ m.uliUp (4 * d + (p - 13)) = false then [] else m.portReqs.filter (fun r => r.die == d && r.port == p)
  let e := m.slot d (m.usec % 64)
  let own := rs.find? (fun r => r.asid == fld e 15 0)
  let shared := (nextTenant (Tab.get 0 m.portLast (d * 17 + p)) (rs.map (fun r => r.asid))).bind
    (fun a => rs.find? (fun r => r.asid == a))
  if flag e 16 then (match own with
    | some r => some r
    | none => if flag e 17 then shared else none)
  else shared
/-- One unit of a request moves. -/
def takeUnit (r : PortReq) : List PortReq → List PortReq
  | [] => []
  | q :: t => if q = r then (if r.units ≤ 1 then t else { r with units := r.units - 1 } :: t) else q :: takeUnit r t
/-- Retransmissions on a fabric port while a unit moves: a free number, kept saturating in both ports' ULISTAT (R324, R327;
log 2). -/
def Mach.retried (m : Mach) (d p : Nat) : Mach :=
  if p < 13 then m
  else
    let off := 0x200 + 8 * (4 * d + (p - 13))
    [0, 1].foldl (fun m h =>
      let r := m.portReg h off
      let n := Nat.min (2 ^ 32 - 1) (fld r 63 32 + (acOf m.tick 0x200).toNat % 2 ^ 32)
      m.setPortReg h off (.ofNat 64 (setField r.toNat 32 32 n))) m
/-- PORT_GRANT. -/
def portGrant (d p : Nat) (m : Mach) : Option Mach :=
  match m.grantee d p with
  | none => none
  | some r => some ({ m with portReqs := takeUnit r m.portReqs, portLast := Tab.set 0 m.portLast (d * 17 + p) r.asid }.retried d p)
def execPortGrant (die port : Nat) (s : State) : Out :=
  if die ≥ 4 ∨ port ≥ 17 then .fault .noSuchUnit
  else match portGrant die port s.mach with
    | some m => stepMach s m
    | none => stutter s
/-- WINDOW_BOUNDARY: the next µs begins; written slot entries take effect. -/
def windowBoundary (m : Mach) : Mach :=
  { m with
    usec := m.usec + 1
    slots := (List.range 4).foldl (fun t d => (List.range 64).foldl (fun t w =>
      Tab.set 0 t (d * 64 + w) (m.dieReg d (0x800 + 8 * w) &&& 0x3FFFF)) t) m.slots }
def execWindowBoundary (s : State) : Out := stepMach s (windowBoundary s.mach)
/-- The requests at a fabric port that has dropped go to another trained port of its die; where none is left they go (R327; log 19). -/
def Mach.rehash (m : Mach) (port : Nat) : Mach :=
  let d := port / 4
  let l := m.fabricPorts d
  { m with portReqs := m.portReqs.filterMap (fun r =>
      if r.die = d ∧ r.port = 13 + port % 4 then (l[port % l.length]?).map (fun p => { r with port := 13 + p }) else some r) }

end Sys2Proof.Machine
end

