-- ==== Sys2Proof/Machine/Parts.lean ====
section
/-! DEFINITION. The life of an issued part: its reads and reserved positions, a void operation (R66), a slot fault (R91,
R92, R305), a residue abandoned (R92), and the steps that land fills, complete reads and make arrivals. -/
namespace Sys2Proof.Machine
open Sys2Proof

/-- Reads of a part complete. -/
def Core.endReads (k : Core) (x : Nat) (rs : List ReadRes) : Core := rs.foldl (fun k r => k.doneRead x r.q r.pos) k
/-- Positions filled alike. -/
def Core.fillAll (k : Core) (core x : Nat) (ds : List DestRes) (st : PSt) (t : Tile) (seq : Nat) : Core :=
  ds.foldl (fun k d => k.fill core x d.q d.pos st t seq none) k
/-- A position filled again by a re-executed part or a replayed copy: it replaces what its fault left there, unless the position has
been freed since the bundle reserved it; a copy's tile whose position has been is counted (R92, R114, R318). -/
def Core.refill (k : Core) (core x n p : Nat) (st : PSt) (t : Tile) (seq : Nat) (copied : Bool) (rt : Option Nat := none) : Core :=
  let q := k.queue x n
  if (q.cell p).owner ≠ some seq then (if copied then k.inc 0x74 1 else k)
  else if q.role = .producer then
    let m := Msg.append (QAddr.ofWord q.partner.toNat) ⟨core, x, n⟩ seq p st (if st = .void then 0 else t) true copied
    Core.inc { k with out := k.out ++ [m] } 0x71 1
  else if k.fills.any (fun f => f.ctx == x && f.q == n && f.pos == p) then
    { k with fills := k.fills.map (fun f => if f.ctx = x ∧ f.q = n ∧ f.pos = p then { f with st := st, data := t, seq := rt } else f) }
  else if q.stateAt p = .poison then k.land x n p st t
  else if q.stateAt p = .empty then k.fill core x n p st t seq rt
  else if copied then k.inc 0x74 1 else k
/-- A fill of an issued part: again, where ERET re-executes it. -/
def Core.put (k : Core) (core : Nat) (fl : Flight) (d : DestRes) (st : PSt) (t : Tile) (rt : Option Nat := none) : Core :=
  if fl.iss.redo then k.refill core fl.iss.ctx d.q d.pos st t fl.iss.seq (decide (partNo fl.i = 6)) rt
  else k.fill core fl.iss.ctx d.q d.pos st t fl.iss.seq rt

/-- A void operation (R66): it writes nothing, fills every append VOID, completes its reads, counts, and retires. -/
def Core.voidPart (k : Core) (core : Nat) (fl : Flight) : Core :=
  let n := partNo fl.i
  let k := k.endReads fl.iss.ctx (fl.iss.readsOf n)
  let k := (fl.iss.destsOf n).foldl (fun k d => k.put core fl d .void 0) k
  (k.upd fl.iss.ctx (fun c => c.inc 0x55 1)).retire fl

/-- A slot fault of an issued part: its record, and POISON in the positions it reserved (R91, R305). -/
def Core.partFault (k : Core) (core : Nat) (fl : Flight) (ds : List DestRes) (rt : Option Routine) (t : Trap) : Core :=
  let k := ds.foldl (fun k d => k.put core fl d .poison (poisonTile t.code t.eaddr)) k
  k.slotFault fl rt t
/-- A slot fault of a part of a 16-bit slot or of the CP slot. -/
def Core.faultPart (k : Core) (core : Nat) (fl : Flight) (t : Trap) : Core :=
  k.partFault core fl (fl.iss.destsOf (partNo fl.i)) none t

/-- A faulting part abandoned (R92): its reads count as done, its reserved positions fill VOID; its AR bit arrives, unless that of a
part whose bit the handler cleared has arrived before (R228). -/
def Core.abandonPart (core : Nat) (arrives : Bool) (k : Core) (fp : FaultPart) : Core :=
  let fl : Flight := { fp.fl with iss := { fp.fl.iss with redo := true } }
  let x := fl.iss.ctx
  match fp.routine with
  | some r =>
    let k := k.endReads x r.pend.toList
    let k := r.resv.foldl (fun k d => k.refill core x d.q d.pos .void 0 fl.iss.seq false) k
    if arrives then k.retire fl else k
  | none =>
    let n := partNo fl.i
    let k := k.endReads x (fl.iss.readsOf n)
    let k := (fl.iss.destsOf n).foldl (fun k d => k.put core fl d .void 0) k
    if arrives then k.retire fl else k

/-! ### Fills, reads, arrivals -/

/-- FILL_LAND (R90): a waiting fill lands once the slot's earlier position is free; of a freed queue it is dropped (R99). -/
def fillLandOn (idx : Nat) (k : Core) : Option Core :=
  match k.fills[idx]? with
  | none => none
  | some f =>
    let q := k.queue f.ctx f.q
    let k' := { k with fills := dropNth k.fills idx }
    if !q.alloc then some (k'.inc 0x74 1)
    else if q.canFill f.pos then some (k'.land f.ctx f.q f.pos f.st f.data)
    else none
/-- READ_COMPLETE (R89): the marked position whose reads are all complete is CONSUMED, and the head advances. -/
def readCompleteOn (x n p : Nat) (k : Core) : Option Core :=
  if (k.queue x n).canConsume p then some (k.consume x n p) else none
/-- BARRIER_ARRIVE (R228): one arrival counts. -/
def barrierArriveOn (idx : Nat) (k : Core) : Option Core :=
  match k.arrivals[idx]? with
  | none => none
  | some b => some (({ k with arrivals := dropNth k.arrivals idx }).onBar b (fun x => x.arrive 1))
/-- BARRIER_FREE (R224, R226): no reference is left and nothing issued names it, no bundle that is about to among them. -/
def barrierFreeOn (n : Nat) (k : Core) : Option Core :=
  if (k.bar n).alloc ∧ (k.bar n).refcnt = 0 ∧ k.barNamed n = false ∧ k.issue = none then some (k.freeBar n) else none

/-- A step on one core that is enabled or not. -/
def coreStep (c : Nat) (f : Core → Option Core) (s : State) : Out :=
  if c ≥ 640 then .fault .noSuchUnit
  else match f (s.mach.core c) with
    | some k => .next { s with mach := (s.mach.setCore c k).ticked }
    | none => .next s

/-- FILL_LAND. -/
def execFillLand (core idx : Nat) (s : State) : Out := coreStep core (fillLandOn idx) s
/-- READ_COMPLETE. -/
def execReadComplete (core ctx q pos : Nat) (s : State) : Out :=
  if ctx ≥ 4 ∨ q ≥ 8 ∨ pos ≥ 512 then .fault .noSuchUnit else coreStep core (readCompleteOn ctx q pos) s
/-- BARRIER_ARRIVE. -/
def execBarrierArrive (core idx : Nat) (s : State) : Out := coreStep core (barrierArriveOn idx) s
/-- BARRIER_FREE. -/
def execBarrierFree (core bar : Nat) (s : State) : Out :=
  if bar ≥ 64 then .fault .noSuchUnit else coreStep core (barrierFreeOn bar) s

end Sys2Proof.Machine
end

