-- ==== Sys2Proof/Machine/Scalar.lean ====
section
/-! DEFINITION. Scalar operations of the SC slot (R68, R69, R122 to R124): integer arithmetic, the divider, compares,
predicates, LEA, ASET and AGET. -/
namespace Sys2Proof.Machine
open Sys2Proof

/-- An SC part that completes within its bundle's issue: its effect on the core, then it retires (R64, R123). -/
def scNow (i : Instr) (f : Issue → Core → Core) : Eff := onFocus (fun _ b k => (f b k).retire ⟨i, b⟩)
/-- An operand as it stood before the bundle (R44). -/
def Core.opnd (k : Core) (b : Issue) (c : Cw) (d : Desc) : W64 := scalarOp b.pre (k.ctx b.ctx).cbank c d
/-- A scalar of the context written. -/
def Core.putS (k : Core) (x n : Nat) (v : W64) : Core := k.upd x (fun c => c.onRegs (fun r => r.wS n v))
/-- A predicate of the context written. -/
def Core.putP (k : Core) (x n : Nat) (v : Bool) : Core := k.upd x (fun c => c.onRegs (fun r => r.wP n v))

/-- The operands of an integer operation at width `w` (R122): `ua`, `ub`, `uc` unsigned, `sa`, `sb` signed, the select
predicate, the BFX signedness. -/
structure AluIn where
  w : Nat
  ua : Nat
  ub : Nat
  uc : Nat
  sel : Bool
  signed : Bool
def AluIn.sa (v : AluIn) : Int := sext v.ua v.w
def AluIn.sb (v : AluIn) : Int := sext v.ub v.w

/-- Position and length of the field a word describes (R122). -/
def bitField (f w : Nat) : Nat × Nat :=
  let pos := bitsOf f 5 0
  let len := bitsOf f 14 8
  (pos, if pos ≥ w then 0 else if pos + len > w then w - pos else len)
/-- BFX (R122). -/
def bfxOf (v : AluIn) : Int :=
  let (pos, len) := bitField v.ub v.w
  let x := v.ua / 2 ^ pos % 2 ^ len
  if v.signed ∧ len > 0 then sext x len else (x : Int)
/-- BFI (R122). -/
def bfiOf (v : AluIn) : Int :=
  let (pos, len) := bitField v.uc v.w
  let m := (2 ^ len - 1) * 2 ^ pos
  ((v.ua &&& (maskOf v.w - m % 2 ^ v.w) ||| v.ub * 2 ^ pos &&& m : Nat) : Int)
/-- Quot (R122): the truncating quotient with its two corners. -/
def quot (x y : Int) (w : Nat) : Int :=
  if y = 0 then -1
  else if x = -((2 ^ (w - 1) : Nat) : Int) ∧ y = -1 then x
  else (if (x < 0) = (y < 0) then 1 else -1) * ((x.natAbs / y.natAbs : Nat) : Int)

/-- Saturation of ADD, SUB and MUL (R122). -/
def satTo (t : Int) (w : Nat) : Int :=
  let hi := ((2 ^ (w - 1) : Nat) : Int)
  if t > hi - 1 then hi - 1 else if t < -hi then -hi else t
/-- The value an integer operation writes: saturated if asked, its low `w` bits sign-extended to 64 (R122). -/
def aluResult (sat : Bool) (w : Nat) (t : Int) : W64 :=
  BitVec.ofNat 64 (wrapTo (sext (wrapTo (if sat then satTo t w else t) w) w) 64)
/-- The operands of a part. -/
def Core.aluIn (k : Core) (b : Issue) (p : Part) : AluIn :=
  let w := if p.cw.etype = 5 then 64 else 32
  let z := fun (d : Desc) => (k.opnd b p.cw d).toNat % 2 ^ w
  ⟨w, z p.cw.src1, if p.cw.src2 = Desc.zero then 0 else (z p.cw.src2),
    if p.cw.src3 = Desc.zero then 0 else (k.opnd b p.cw p.cw.src3).toNat, b.pre.rP (p.cw.aux.toNat % 16), bitAt p.cw.aux.toNat 0⟩
/-- ADD to BFI (R122): d := the operation's t. -/
def alu (p : Part) (f : AluIn → Int) (b : Issue) (k : Core) : Core :=
  let v := k.aluIn b p
  k.putS b.ctx (dstReg p.cw.dst) (aluResult (p.cw.sat = 1) v.w (f v))

/-- ADD (R122). -/
def execAdd (p : Part) (s : State) : Out := runPart (.add p) (scNow (.add p) (alu p (fun v => v.sa + v.sb))) s
/-- SUB (R122). -/
def execSub (p : Part) (s : State) : Out := runPart (.sub p) (scNow (.sub p) (alu p (fun v => v.sa - v.sb))) s
/-- MUL (R122). -/
def execMul (p : Part) (s : State) : Out := runPart (.mul p) (scNow (.mul p) (alu p (fun v => v.sa * v.sb))) s
/-- MULHS (R122). -/
def execMulhs (p : Part) (s : State) : Out := runPart (.mulhs p) (scNow (.mulhs p) (alu p (fun v => (v.sa * v.sb) / ((2 ^ v.w : Nat) : Int)))) s
/-- MULHU (R122). -/
def execMulhu (p : Part) (s : State) : Out := runPart (.mulhu p) (scNow (.mulhu p) (alu p (fun v => ((v.ua * v.ub / 2 ^ v.w : Nat) : Int)))) s
/-- AND (R122). -/
def execAnd (p : Part) (s : State) : Out := runPart (.and p) (scNow (.and p) (alu p (fun v => ((v.ua &&& v.ub : Nat) : Int)))) s
/-- OR (R122). -/
def execOr (p : Part) (s : State) : Out := runPart (.or p) (scNow (.or p) (alu p (fun v => ((v.ua ||| v.ub : Nat) : Int)))) s
/-- XOR (R122). -/
def execXor (p : Part) (s : State) : Out := runPart (.xor p) (scNow (.xor p) (alu p (fun v => ((v.ua ^^^ v.ub : Nat) : Int)))) s
/-- ANDN (R122). -/
def execAndn (p : Part) (s : State) : Out := runPart (.andn p) (scNow (.andn p) (alu p (fun v => ((v.ua &&& (maskOf v.w - v.ub) : Nat) : Int)))) s
/-- SHL (R122). -/
def execShl (p : Part) (s : State) : Out := runPart (.shl p) (scNow (.shl p) (alu p (fun v => ((v.ua * 2 ^ (v.ub % v.w) : Nat) : Int)))) s
/-- SHRL (R122). -/
def execShrl (p : Part) (s : State) : Out := runPart (.shrl p) (scNow (.shrl p) (alu p (fun v => ((v.ua / 2 ^ (v.ub % v.w) : Nat) : Int)))) s
/-- SHRA (R122). -/
def execShra (p : Part) (s : State) : Out := runPart (.shra p) (scNow (.shra p) (alu p (fun v => v.sa / ((2 ^ (v.ub % v.w) : Nat) : Int)))) s
/-- MIN (R122). -/
def execMin (p : Part) (s : State) : Out := runPart (.min p) (scNow (.min p) (alu p (fun v => if v.sa < v.sb then v.sa else v.sb))) s
/-- MAX (R122). -/
def execMax (p : Part) (s : State) : Out := runPart (.max p) (scNow (.max p) (alu p (fun v => if v.sa < v.sb then v.sb else v.sa))) s
/-- MINU (R122). -/
def execMinu (p : Part) (s : State) : Out := runPart (.minu p) (scNow (.minu p) (alu p (fun v => (if v.ua < v.ub then v.ua else v.ub : Nat)))) s
/-- MAXU (R122). -/
def execMaxu (p : Part) (s : State) : Out := runPart (.maxu p) (scNow (.maxu p) (alu p (fun v => (if v.ua < v.ub then v.ub else v.ua : Nat)))) s
/-- MOV (R122). -/
def execMov (p : Part) (s : State) : Out := runPart (.mov p) (scNow (.mov p) (alu p (fun v => (v.ua : Int)))) s
/-- SEL (R122). -/
def execSel (p : Part) (s : State) : Out := runPart (.sel p) (scNow (.sel p) (alu p (fun v => ((if v.sel then v.ua else v.ub : Nat) : Int)))) s
/-- CLZ (R122). -/
def execClz (p : Part) (s : State) : Out := runPart (.clz p) (scNow (.clz p) (alu p (fun v => (leadingZeros v.ua v.w : Int)))) s
/-- POPC (R122). -/
def execPopc (p : Part) (s : State) : Out := runPart (.popc p) (scNow (.popc p) (alu p (fun v => (popCount v.ua v.w : Int)))) s
/-- BFX (R122). -/
def execBfx (p : Part) (s : State) : Out := runPart (.bfx p) (scNow (.bfx p) (alu p (bfxOf))) s
/-- BFI (R122). -/
def execBfi (p : Part) (s : State) : Out := runPart (.bfi p) (scNow (.bfi p) (alu p (bfiOf))) s

/-! ### The divider (R122, R123) -/

/-- A division issues: the divider holds it until DIVIDER_COMPLETE, and the context waits (R123). -/
def divStart (i : Instr) : Eff := onFocus (fun _ b k => { k with divider := some ⟨i, b⟩ })
/-- The value of a division by its opcode (R122). -/
def divValue (o : Nat) (v : AluIn) : Int :=
  match o with
  | 6 => quot v.sa v.sb v.w
  | 7 => if v.ub = 0 then ((2 ^ v.w - 1 : Nat) : Int) else ((v.ua / v.ub : Nat) : Int)
  | 8 => if v.sb = 0 then v.sa else v.sa - v.sb * quot v.sa v.sb v.w
  | _ => if v.ub = 0 then (v.ua : Int) else ((v.ua % v.ub : Nat) : Int)
/-- DIVS (R122). -/
def execDivs (p : Part) (s : State) : Out := runPart (.divs p) (divStart (.divs p)) s
/-- DIVU (R122). -/
def execDivu (p : Part) (s : State) : Out := runPart (.divu p) (divStart (.divu p)) s
/-- REMS (R122). -/
def execRems (p : Part) (s : State) : Out := runPart (.rems p) (divStart (.rems p)) s
/-- REMU (R122). -/
def execRemu (p : Part) (s : State) : Out := runPart (.remu p) (divStart (.remu p)) s
/-- The division leaves the divider, its quotient or remainder written (R123). -/
def divided (fl : Flight) (k : Core) : Core :=
  let k' := { k with divider := none }
  match view fl.i with
  | .op o p =>
    let v := k.aluIn fl.iss p
    (k'.putS fl.iss.ctx (dstReg p.cw.dst) (aluResult false v.w (divValue o v))).retire fl
  | _ => k'
/-- DIVIDER_COMPLETE (R123), after which the context goes on. -/
def dividerDone (core : Nat) (s : State) : Option State :=
  (s.mach.core core).divider.map (fun fl => (s.onCore core (divided fl)).settle core fl.iss.ctx)
def execDividerComplete (core : Nat) (s : State) : Out :=
  if core ≥ 640 then .fault .noSuchUnit else stepState s (dividerDone core s)

/-! ### Compares and predicates -/

/-- CMPEQ to CMPLEU (R68). -/
def cmpEff (op : Nat) (p : Part) (b : Issue) (k : Core) : Core :=
  let w := if p.cw.etype = 5 then 64 else 32
  let t := intCmp op (k.opnd b p.cw p.cw.src1).toNat (k.opnd b p.cw p.cw.src2).toNat w false
  let n := p.cw.pdst.toNat
  k.putP b.ctx n (combine (p.cw.aux.toNat % 4) (b.pre.rP n) t)
/-- CMPEQ (R68). -/
def execCmpeq (p : Part) (s : State) : Out := runPart (.cmpeq p) (scNow (.cmpeq p) (cmpEff 0 p)) s
/-- CMPNE (R68). -/
def execCmpne (p : Part) (s : State) : Out := runPart (.cmpne p) (scNow (.cmpne p) (cmpEff 1 p)) s
/-- CMPLT (R68). -/
def execCmplt (p : Part) (s : State) : Out := runPart (.cmplt p) (scNow (.cmplt p) (cmpEff 2 p)) s
/-- CMPLTU (R68). -/
def execCmpltu (p : Part) (s : State) : Out := runPart (.cmpltu p) (scNow (.cmpltu p) (cmpEff 3 p)) s
/-- CMPLE (R68). -/
def execCmple (p : Part) (s : State) : Out := runPart (.cmple p) (scNow (.cmple p) (cmpEff 4 p)) s
/-- CMPLEU (R68). -/
def execCmpleu (p : Part) (s : State) : Out := runPart (.cmpleu p) (scNow (.cmpleu p) (cmpEff 5 p)) s
/-- PAND to PMOV (R69). -/
def predEff (op : Nat) (p : Part) (b : Issue) (k : Core) : Core :=
  let a := p.cw.aux.toNat
  k.putP b.ctx p.cw.pdst.toNat (predOp op (b.pre.rP (a / 16)) (b.pre.rP (a % 16)))
/-- PAND (R69). -/
def execPand (p : Part) (s : State) : Out := runPart (.pand p) (scNow (.pand p) (predEff 0 p)) s
/-- POR (R69). -/
def execPor (p : Part) (s : State) : Out := runPart (.por p) (scNow (.por p) (predEff 1 p)) s
/-- PXOR (R69). -/
def execPxor (p : Part) (s : State) : Out := runPart (.pxor p) (scNow (.pxor p) (predEff 2 p)) s
/-- PANDN (R69). -/
def execPandn (p : Part) (s : State) : Out := runPart (.pandn p) (scNow (.pandn p) (predEff 3 p)) s
/-- PMOV (R69). -/
def execPmov (p : Part) (s : State) : Out := runPart (.pmov p) (scNow (.pmov p) (predEff 4 p)) s

/-! ### LEA, ASET, AGET (R124) -/

/-- LEA: a + b × 2^sh + c. -/
def leaEff (p : Part) (b : Issue) (k : Core) : Core :=
  let c := if p.cw.src3 = Desc.zero then 0 else k.opnd b p.cw p.cw.src3
  k.putS b.ctx (dstReg p.cw.dst) (k.opnd b p.cw p.cw.src1 + (k.opnd b p.cw p.cw.src2 <<< (p.cw.aux.toNat % 8)) + c)
/-- LEA (R124). -/
def execLea (p : Part) (s : State) : Out := runPart (.lea p) (scNow (.lea p) (leaEff p)) s
/-- ASET (R124). -/
def execAset (p : Part) (s : State) : Out :=
  runPart (.aset p) (scNow (.aset p) (fun b k =>
    k.upd b.ctx (fun c => c.onRegs (fun r => r.wA (p.cw.aux.toNat % 8) (k.opnd b p.cw p.cw.src1))))) s
/-- AGET (R124). -/
def execAget (p : Part) (s : State) : Out :=
  runPart (.aget p) (scNow (.aget p) (fun b k => k.putS b.ctx (dstReg p.cw.dst) (b.pre.rA (p.cw.aux.toNat % 8)))) s

end Sys2Proof.Machine
end

