-- ==== Sys2Proof/Machine/Races.lean ====
section
/-! DEFINITION. Where accesses and copies act: the places of scalar accesses, the register values and ranges of a copy (R209,
R212, R213), a collective's descriptor (R334), and the plain writes under way that a read may race (R223, R231). -/
namespace Sys2Proof.Machine
open Sys2Proof

/-- Where an access of a tenant lands: the memory and the address in it. -/
def place (s : State) (core asid va : Nat) (a : Acc) : Option (Nat × Nat) :=
  match translate s (agentOf core) asid va a with
  | .ok sp ad _ => some (sp, ad)
  | .fail _ => none
/-- Do two runs of bytes in one memory meet? -/
def meet (p q : Option (Nat × Nat)) (n m : Nat) : Bool :=
  match p, q with
  | some (s, a), some (t, b) => decide (s = t ∧ a < b + m ∧ b < a + n)
  | _, _ => false
/-- The address and size of a scalar or atomic access of an issued part. -/
def Core.flightVa (k : Core) (f : Flight) : Nat :=
  match view f.i with
  | .op o p => accessAddr f.iss.pre (k.ctx f.iss.ctx).cbank o p
  | _ => 0
def flightSize (f : Flight) : Nat :=
  match view f.i with
  | .op _ p => accessSize p
  | _ => 0
/-! ### A copy and its register values (R209, R212) -/

/-- A copy's opcode, its form, its slot, and the registers it named as they stood before its bundle. -/
structure CpIn where
  op : Nat
  code : Bool
  p : Cp
  a : Nat
  n : Nat
  x : Nat
  e : Nat
  deriving DecidableEq, Repr
/-- The values of a flight in the CP slot. -/
def cpIn (f : Flight) : CpIn :=
  match view f.i with
  | .cp o code p =>
    let r := fun (n : BitVec 6) => cpReg f.iss.pre n
    ⟨o, code, p, r p.addrReg, r p.lenReg, r p.auxReg, (f.iss.pre.rS (dstReg p.dest)).toNat⟩
  | _ => ⟨0, false, ⟨0, false, 0, 0, 0, .zero, 0, 0, 0, 0⟩, 0, 0, 0, 0⟩
/-- A copy that reads a tile of a queue; a copy over a range; SEQ = 01 (R38, R212). -/
def CpIn.tileOut (i : CpIn) : Bool := decide (i.op = 5 ∨ i.op = 7 ∨ i.op = 8)
def CpIn.range (i : CpIn) : Bool := decide (i.op = 10 ∨ i.op = 11 ∨ i.op = 12)
def CpIn.seq (i : CpIn) : Bool := decide (i.p.seq = 1)
/-- Rows and row bytes of CPSTR and CPSTS (R213). -/
def CpIn.rowb (i : CpIn) : Nat := bitsOf i.n 12 0
def CpIn.rows (i : CpIn) : Nat := bitsOf i.n 25 13
/-- The bytes a copy counts on its barrier (R212); those of a collective's DST come with its descriptor (R335). -/
def CpIn.bytes (i : CpIn) : Nat :=
  if i.code = true ∨ i.op = 7 ∨ i.range = true then i.n else if i.op = 8 then i.rows * i.rowb
  else if i.op = 13 then 4096 * i.n else 4096

/-- An address that moves by `i` strides, modulo 2^64 (R213). -/
def strideAddr (a i : Nat) (stride : Int) : Nat := wrapTo ((a : Int) + (i : Int) * stride) 64

/-- The ranges an outbound copy writes, in order: rows of the tile (R213). -/
def CpIn.outs (i : CpIn) (t : List Byte) : List (Nat × List Byte) :=
  if i.op = 8 then (List.range i.rows).map (fun j =>
    (strideAddr i.a j (sext i.x 64), (t.drop (j * i.rowb)).take i.rowb))
  else [(i.a, t.take i.bytes)]
/-! ### The descriptor of a collective (R334) -/

/-- Word `i` of a descriptor. -/
def dWord (d : List W64) (i : Nat) : W64 := d.getD i 0
/-- OP, REDOP, TYPE, MODE, LEVEL, SRC, DST, LEN, ROOT. -/
def dOp (d : List W64) : Nat := fld (dWord d 0) 2 0
def dRedop (d : List W64) : Nat := fld (dWord d 0) 4 3
def dType (d : List W64) : Nat := fld (dWord d 0) 7 5
def dArrival (d : List W64) : Bool := flag (dWord d 0) 8
def dLevel (d : List W64) : Nat := fld (dWord d 0) 11 9
def dSrc (d : List W64) : Nat := (dWord d 1).toNat
def dDst (d : List W64) : Nat := (dWord d 2).toNat
def dLen (d : List W64) : Nat := (dWord d 3).toNat
def dRoot (d : List W64) : Nat := fld (dWord d 4) 9 0
/-- The format of TYPE. -/
def dFmt (d : List W64) : Fmt :=
  match dType d with
  | 0 => .int32
  | 1 => .int64
  | 2 => .fp32
  | _ => .bf16
/-- LEVEL names a domain level of a collective. -/
def dLevelOk (d : List W64) : Bool := decide (2 ≤ dLevel d ∧ dLevel d ≤ 5)
/-- A bad field or a non-zero reserved bit, for a domain of `m` members. -/
def dBad (d : List W64) (m : Nat) : Bool :=
  decide (dOp d ≥ 4 ∨ dRedop d = 3 ∨ dType d ≥ 4 ∨ (dWord d 0).toNat ≥ 2 ^ 12 ∨ dSrc d ≥ 2 ^ 56 ∨ dSrc d % 64 ≠ 0 ∨
    dDst d ≥ 2 ^ 56 ∨ dDst d % 64 ≠ 0 ∨ dLen d < 64 ∨ dLen d > 2 ^ 36 ∨
    dLen d % (if dOp d = 1 then 64 * m else 64) ≠ 0 ∨ dRoot d ≥ (if dOp d = 3 then m else 1) ∨ (dWord d 4).toNat ≥ 2 ^ 10) ||
  !dLevelOk d || (d.drop 5).any (· ≠ 0)
/-- The length of a member's result (R335). -/
def dResult (d : List W64) (m : Nat) : Nat :=
  match dOp d with
  | 1 => dLen d / m
  | 2 => m * dLen d
  | _ => dLen d

/-! ### Races (R7, R223, R231; log 9) -/

/-- The plain writes under way, each with the agent that makes it: the posted stores of a context, and the copies out that are active
with the results of collectives that are under way, which are agents of their own (R231). -/
def Core.writesOut (k : Core) (c : Nat) (colls : List Coll) : List (Option (Nat × Nat) × Issue × Nat × Nat) :=
  k.stores.map (fun p => (some (c, p.fl.iss.ctx), p.fl.iss, p.va, p.n)) ++
  (k.cq.filter (fun d => d.active)).flatMap (fun d =>
    let i := cpIn d.fl
    if i.tileOut then ((i.outs (leBytes 0 4096)).map (fun o => (none, d.fl.iss, o.1, o.2.length)))
    else match d.coll.bind (fun j => (colls.find? (fun q => q.id == j.1)).bind (fun q => q.members[j.2]?.map (fun y => (q, y)))) with
      | some (q, y) => if dDst y.desc = 0 then [] else [(none, d.fl.iss, dDst y.desc, dResult y.desc q.count)]
      | none => [])
/-- The places of the plain writes under way that race a read of bundle `b` on core `core`, made by its context or, with `copy`, by its
copy. A store of the reader's own context is ordered with the context's read, and before a copy that issued after it; a copy follows
what its context issued before it (R223, R232). -/
def State.racers (s : State) (core : Nat) (b : Issue) (copy : Bool) : List (Nat × Nat × Nat) :=
  s.mach.cores.flatMap (fun e => (e.2.writesOut e.1 s.mach.colls).flatMap (fun (w, i, va, n) =>
    if (w = some (core, b.ctx) ∧ (copy = false ∨ i.ord < b.ord)) ∨
        (w = none ∧ e.1 = core ∧ i.ctx = b.ctx ∧ (if copy then i.seq = b.seq else b.ord < i.ord)) then []
    else (pageRuns va n).filterMap (fun (v, m) => (place s e.1 i.asid v accWrite).map (fun (sp, ad) => (sp, ad, m)))))
/-- Does a run of bytes meet one of those? -/
def races (ws : List (Nat × Nat × Nat)) (sp ad n : Nat) : Bool := ws.any (fun (t, a, m) => meet (some (sp, ad)) (some (t, a)) n m)
/-- What a scalar access reads of memory: free where it races (log 9). -/
def State.readRacing (s : State) (core : Nat) (b : Issue) (sp ad n : Nat) : Nat :=
  if races (s.racers core b false) sp ad n then
    ((Config.freeWord s.mach.tick).toNat + 2 ^ 64 * (Config.freeWord (s.mach.tick + 1)).toNat) % 2 ^ (8 * n)
  else s.mem.read sp ad n
/-- The bytes that a copy reads from `va` on: those that race are free (log 9). -/
def State.copyRacing (s : State) (core : Nat) (b : Issue) (va : Nat) (bs : List Byte) : List Byte :=
  let ws := s.racers core b true
  if ws = [] then bs
  else (List.range bs.length).map (fun j =>
    let v := (va + j) % 2 ^ 64
    match place s core b.asid v accRead with
    | some (sp, ad) => if races ws sp ad 1 then BitVec.ofNat 8 (elemAt (Config.lateTile s.mach.tick (v / 4096)).toNat (v % 4096) 8) else bs.getD j 0
    | none => bs.getD j 0)

end Sys2Proof.Machine
end

