-- ==== Sys2Proof/Machine/LoadStore.lean ====
section
/-! DEFINITION. LD, ST, LDSP and STSP (R125, R126), with the steps at which a load returns and a posted store is
performed, in the order R232 gives accesses to one byte. -/
namespace Sys2Proof.Machine
open Sys2Proof

/-- Does access `a` precede access `b` of its context, a re-executed one standing where ERET ran it again (R232)? -/
def Issue.before (a b : Issue) : Bool := decide (a.ctx = b.ctx ∧ a.ord < b.ord)
/-- Is an earlier access of the context to one of these bytes still to be performed: a posted store, an atomic, a load (R232,
R233)? -/
def earlierAccess (s : State) (core : Nat) (k : Core) (b : Issue) (at' : Option (Nat × Nat)) (n : Nat) : Bool :=
  let meets := fun (f : Flight) => f.iss.before b && f.inMemory &&
    meet at' (place s core f.iss.asid (k.flightVa f) accRead) n (flightSize f)
  k.stores.any (fun p => p.fl.iss.before b && meet at' (place s core p.fl.iss.asid p.va accWrite) n p.n) ||
  k.atomics.any meets || k.loads.any meets
/-- Has an atomic left its core as a contribution that the home has not accepted yet (R332)? -/
def Mach.sent (m : Mach) (core : Nat) (f : Flight) : Bool :=
  m.contribs.any (fun c => decide (c.seq = some f.iss.seq ∧ c.core = core ∧ c.ctx = f.iss.ctx))
/-- Is an earlier acquire of the context still to read, so that no later access may be performed (R236, R237)? The acquire of a
merged atomic has no effect (R243). -/
def Core.acquiring (k : Core) (b : Issue) : Bool := k.atomics.any (fun f => f.iss.before b && f.acquires)

/-- The value a load writes (R125). -/
def loadValue (p : Part) (x n : Nat) : W64 :=
  let e := p.cw.etype.toNat
  if (e = 1 ∨ e = 3 ∨ e = 4) ∧ bitAt p.cw.aux.toNat 0 = false then BitVec.ofNat 64 (wrapTo (sext x (8 * n)) 64)
  else BitVec.ofNat 64 x

/-- LD issues (R126): it asks for its port where its bytes lie beyond one, and the context waits until the value is written. -/
def loadStart (i : Instr) (p : Part) : Eff := fun s b m =>
  let c := m.focusCore
  let va := accessAddr b.pre ((m.core c).ctx b.ctx).cbank 0x40 p
  askPorts s c b va (accessSize p) (m.upd c (fun k => { k with loads := k.loads ++ [⟨i, b⟩] }))
/-- LD (R125). -/
def execLd (p : Part) (s : State) : Out := runPart (.ld p) (loadStart (.ld p) p) s
/-- ST (R125, R126): posted. -/
def storeStart (i : Instr) (p : Part) : Eff := fun s b m =>
  let c := m.focusCore
  let va := accessAddr b.pre ((m.core c).ctx b.ctx).cbank 0x41 p
  askPorts s c b va (accessSize p) (m.upd c (fun k =>
    { k with stores := k.stores ++ [⟨⟨i, b⟩, va, accessSize p, (k.opnd b p.cw p.cw.src3).toNat⟩] }))
/-- ST (R125). -/
def execSt (p : Part) (s : State) : Out := runPart (.st p) (storeStart (.st p) p) s

/-- The granule with an error that an access to the operand scratchpad meets, if one (R310). -/
def Core.badGranule (k : Core) (a n : Nat) : Option Nat :=
  ((List.range n).find? (fun i => k.poisoned.contains (.spadBytes, a + i))).map (fun i => (a + i) / 64 * 64)
/-- LDSP issues (R118, R125, R126): a flagged access is recorded, its wait for the bank counted, and the context waits until the
value is written. -/
def ldspEff (i : Instr) (p : Part) (b : Issue) (k : Core) : Core :=
  let k := (k.noteGuard b.ctx (accessAddr b.pre (k.ctx b.ctx).cbank 0x42 p) (accessSize p) false).bankWait
  { k with loads := k.loads ++ [⟨i, b⟩] }
/-- LDSP (R125). -/
def execLdsp (p : Part) (s : State) : Out := runPart (.ldsp p) (onFocus (fun _ b k => ldspEff (.ldsp p) p b k)) s
/-- Does an access by address race an operation at work on the position that holds its bytes, an append on its way among them (R115,
R184)? -/
def Mach.racing (m : Mach) (c a n : Nat) : Bool := meetsSlot ((m.core c).slotsAtWork ++ m.slotsAwaited c) a n
/-- A run of bytes of the operand scratchpad as an LDSP reads it: free where it races (R7, R115, R184; log 6). -/
def Core.spRead (k : Core) (race : Bool) (t a n : Nat) : Nat :=
  if race then (Config.freeWord t).toNat % 2 ^ (8 * n) else leNat (k.spBytes a n)
/-- STSP at `t` (R125, R118). Where it races an operation on the position of its bytes, what they hold is free, and what that
operation leaves or gives is free too (R7, R115, R184; log 6). -/
def stspEff (p : Part) (race : Bool) (t : Nat) (b : Issue) (k : Core) : Core :=
  let a := accessAddr b.pre (k.ctx b.ctx).cbank 0x43 p
  let n := accessSize p
  let k' := (k.bankWait).noteGuard b.ctx a n true
  if race then { k'.spStore a (leBytes (Config.freeWord t).toNat n) with raced := (a, n, t) :: k.raced }
  else k'.spStore a (leBytes (k.opnd b p.cw p.cw.src3).toNat n)
/-- STSP (R125). -/
def execStsp (p : Part) (s : State) : Out :=
  runPart (.stsp p) (onFocus (fun s b k =>
    let race := s.mach.racing s.mach.focusCore (accessAddr b.pre (k.ctx b.ctx).cbank 0x43 p) (accessSize p)
    (stspEff p race s.mach.tick b k).retire ⟨.stsp p, b⟩)) s

/-! ### Loads return, stores are performed -/

/-- Is an access of the context held back: by an earlier access to its bytes, by an earlier acquire, by a home die that does not
serve, by the slot table (R232, R233, R237, R256, R348)? -/
def accessHeld (s : State) (core : Nat) (b : Issue) (sp ad n : Nat) : Bool :=
  let k := s.mach.core core
  s.mach.asleep sp ad || k.acquiring b || earlierAccess s core k b (some (sp, ad)) n ||
  !portsDone s.mach (scalarHolder core) b.seq
/-- A load of the list leaves it and takes a slot fault. -/
def loadTrap (core : Nat) (fl : Flight) (t : Trap) (m : Mach) : Mach :=
  (m.upd core (fun k => { k with loads := k.loads.erase fl }.faultPart core fl t)).dropPorts (scalarHolder core) fl.iss.seq
/-- A load of the list leaves it with its bytes, `w` as a number. -/
def loadValueIn (core : Nat) (fl : Flight) (p : Part) (w : Nat) (m : Mach) : Mach :=
  m.upd core (fun k =>
    ({ k with loads := k.loads.erase fl }.putS fl.iss.ctx (dstReg p.cw.dst) (loadValue p w (accessSize p))).retire fl)
/-- One load returns, if it can (R125, R126, R232): an LDSP from the operand scratchpad, after what its context has still to acquire
(R237), an LD from memory, a free value where it races (R231; log 9); what it held back goes on. A load of bytes with an error, or of a page whose translation has gone, is a
slot fault of the SC part. -/
def loadReturn (core : Nat) (fl : Flight) (s : State) : Option State :=
  let k := s.mach.core core
  let t := s.mach.tick
  let gone := fun (m : Mach) => some { s with mach := m }
  let back := fun (mem : Mem) (m : Mach) => some (State.settle ⟨m, mem⟩ core fl.iss.ctx)
  match view fl.i with
  | .op _ p =>
    let va := k.flightVa fl
    let n := accessSize p
    if fl.inMemory = false then
      if k.acquiring fl.iss then none
      else match k.badGranule va n with
        | some g => gone (loadTrap core fl ⟨cSOFTERR, 1, true, 7 * 2 ^ 16, g⟩ s.mach)
        | none => back s.mem (loadValueIn core fl p (k.spRead (s.mach.racing core va n) t va n) s.mach)
    else match translate s (agentOf core) fl.iss.asid va accRead with
      | .fail r => gone (loadTrap core fl { accessTrap cXLATE 1 false r va with kind := true } s.mach)
      | .ok sp ad _ =>
        if uliLost s.mach core sp then
          gone ((loadTrap core fl ⟨cSOFTERR, 1, true, 1 * 2 ^ 16, va⟩ s.mach).noteLost core sp)
        else if accessHeld s core fl.iss sp ad n then none
        else
          let m := noteTlb s (agentOf core) fl.iss.asid va s.mach
          let mem := s.mem.readAt sp 0 ad n
          if s.mem.poisoned sp ad then some ⟨loadTrap core fl ⟨cSOFTERR, 1, true, 1 * 2 ^ 16, va⟩ m, mem⟩
          else back mem (loadValueIn core fl p (s.readRacing core fl.iss sp ad n) m)
  | _ => none
/-- LOAD_COMPLETE: the first load of the context that can return does. -/
def loadComplete (core x : Nat) (s : State) : Option State :=
  ((s.mach.core core).loads.filter (fun f => f.iss.ctx == x)).findSome? (fun fl => loadReturn core fl s)
def execLoadComplete (core ctx : Nat) (s : State) : Out :=
  if core ≥ 640 ∨ ctx ≥ 4 then .fault .noSuchUnit else stepState s (loadComplete core ctx s)

/-- Where STORE_PERFORM of store `idx` writes: the memory, the address, the bytes; `none` when it is not enabled, its page has
gone, or no port remains for it. -/
def storeTarget (core idx : Nat) (s : State) : Option (Nat × Nat × Nat) :=
  match (s.mach.core core).stores[idx]? with
  | none => none
  | some p => match place s core p.fl.iss.asid p.va accWrite with
    | some (sp, ad) => if uliLost s.mach core sp || accessHeld s core p.fl.iss sp ad p.n then none else some (sp, ad, p.n)
    | none => none
/-- STORE_PERFORM (R126, R232): the store leaves the list, its bytes are written, its AR bit arrives (log 9). A store whose
page has gone is a slot fault of its SC part; one for which no port remains is dropped (R327). -/
def storePerform (core idx : Nat) (s : State) : Option State :=
  let k := s.mach.core core
  match k.stores[idx]? with
  | none => none
  | some p =>
    let k' := { k with stores := dropNth k.stores idx }
    let leave := fun (k : Core) (m : Mach) => (m.setCore core k).dropPorts (scalarHolder core) p.fl.iss.seq
    match translate s (agentOf core) p.fl.iss.asid p.va accWrite with
    | .fail r => some { s with mach := leave (k'.faultPart core p.fl { accessTrap cXLATE 1 true r p.va with kind := true }) s.mach }
    | .ok sp _ _ =>
      if uliLost s.mach core sp then some { s with mach := (leave (k'.retire p.fl) s.mach).noteLost core sp }
      else match storeTarget core idx s with
        | none => none
        | some (sp, ad, n) =>
          let m := noteTlb s (agentOf core) p.fl.iss.asid p.va s.mach
          some { mach := m.setCore core (k'.retire p.fl), mem := s.mem.write sp ad n p.val }
def execStorePerform (core idx : Nat) (s : State) : Out :=
  if core ≥ 640 then .fault .noSuchUnit else stepState s (storePerform core idx s)

end Sys2Proof.Machine
end

