-- ==== Sys2Proof/Machine/Atomics.lean ====
section
/-! DEFINITION. The atomic opcodes (R241 to R244), performed at the home of their address at ATOMIC_COMPLETE, and their
merging in a reduction window (R243, R330). -/
namespace Sys2Proof.Machine
open Sys2Proof

/-- The new value of an atomic from the old value and the operands, at `w` bits (R241): the opcode's low four bits. -/
def amoValue (o w old c e : Nat) : Nat :=
  let so := sext old w
  let sc := sext c w
  let z := fun (v : Nat) => v % 2 ^ w
  match o with
  | 0 => z (old + c)
  | 1 => z old &&& z c
  | 2 => z old ||| z c
  | 3 => z old ^^^ z c
  | 4 => z (if so < sc then old else c)
  | 5 => z (if so < sc then c else old)
  | 6 => if z old < z c then z old else z c
  | 7 => if z old < z c then z c else z old
  | 8 => z c
  | 9 => if z old = z e then z c else z old
  | 10 => z old
  | _ => z c

/-- A value operand: a scalar, or the pair of scalars of a 16-byte form (R242). -/
def Core.pairOpnd (k : Core) (b : Issue) (p : Part) (d : Desc) : Nat :=
  let lo := (k.opnd b p.cw d).toNat
  match d with
  | .sreg n => if p.cw.etype = 0 then lo + (b.pre.rS (n.toNat + 1)).toNat * 2 ^ 64 else lo
  | _ => lo

/-- The two words of reduction window `w` of a port (R324), and the fields of word 0: ordered, TYPE, CONTRIB. -/
def Mach.redwin (m : Mach) (w word : Nat) : W64 := m.portReg (w / 16) (0x300 + 16 * (w % 16) + 8 * word)
def winOrdered (r : W64) : Bool := !flag r 1
def winType (r : W64) : Nat := fld r 3 2
def winCount (r : W64) : Nat := fld r 42 32
/-- The reduction window in which an atomic is merged (R243, R330): valid, of its tenant, its address inside, its opcode
and width those of TYPE. Windows 0 to 15 are those of port 0, 16 to 31 those of port 1; none while masked (R339). -/
def Mach.window (m : Mach) (asid va o n : Nat) : Option Nat :=
  if bitAt m.featMask 2 then none
  else (List.range 32).find? (fun w =>
    let r0 := m.redwin w 0
    let r1 := m.redwin w 1
    let base := fld r1 55 21 * 2 ^ 21
    flag r0 0 && decide (fld r0 31 16 = asid ∧ base ≤ va ∧ va < base + 2 ^ 21 * fld r1 9 0) && decide (o ≤ 0x67) &&
    (match winType r0 with
     | 0 => decide (n = 4)
     | 1 => decide (n = 8)
     | 2 => decide (n = 4) && decide (o = 0x60 ∨ o = 0x64 ∨ o = 0x65)
     | _ => false))

/-- Does a merged contribution leave this device: its home is another, or the switches merge (R332)? -/
def mergeLeaves (m : Mach) (w sp : Nat) : Bool := decide (sp = 1) || !flag (m.redwin w 0) 4
/-- An atomic is under way and asks for its port (R256, R332): merged in the switches, a contribution to a home on this device
leaves through a port too. -/
def amoQueue (i : Instr) : Eff := fun s b m =>
  let c := m.focusCore
  let k := m.core c
  match view i with
  | .op o p =>
    let va := accessAddr b.pre (k.ctx b.ctx).cbank o p
    let fl : Flight := ⟨i, { b with win := (m.window b.asid va o (accessSize p)).isSome }⟩
    let m := askPorts s c b va (accessSize p) (m.upd c (fun k => { k with atomics := k.atomics ++ [fl] }))
    match m.window b.asid va o (accessSize p), translate s (agentOf c) b.asid va accRead with
    | some w, .ok 0 _ _ =>
      if mergeLeaves m w 0 = false then m
      else { m with portReqs := m.portReqs ++
        ((m.fabricPort (dieOf c) m.deviceNo).map (fun f => (⟨dieOf c, 13 + f, b.asid, 1, scalarHolder c, b.seq⟩ : PortReq))).toList }
    | _, _ => m
  | _ => m
/-- An atomic issues (R244, R247). -/
def amoStart (i : Instr) : Eff := fun s b m => (amoQueue i s b m).upd m.focusCore (fun k => k.inc 0xC0 1)
/-- AMOADD (R241). -/
def execAmoadd (p : Part) (s : State) : Out := runPart (.amoadd p) (amoStart (.amoadd p)) s
/-- AMOAND (R241). -/
def execAmoand (p : Part) (s : State) : Out := runPart (.amoand p) (amoStart (.amoand p)) s
/-- AMOOR (R241). -/
def execAmoor (p : Part) (s : State) : Out := runPart (.amoor p) (amoStart (.amoor p)) s
/-- AMOXOR (R241). -/
def execAmoxor (p : Part) (s : State) : Out := runPart (.amoxor p) (amoStart (.amoxor p)) s
/-- AMOMIN (R241). -/
def execAmomin (p : Part) (s : State) : Out := runPart (.amomin p) (amoStart (.amomin p)) s
/-- AMOMAX (R241). -/
def execAmomax (p : Part) (s : State) : Out := runPart (.amomax p) (amoStart (.amomax p)) s
/-- AMOMINU (R241). -/
def execAmominu (p : Part) (s : State) : Out := runPart (.amominu p) (amoStart (.amominu p)) s
/-- AMOMAXU (R241). -/
def execAmomaxu (p : Part) (s : State) : Out := runPart (.amomaxu p) (amoStart (.amomaxu p)) s
/-- AMOSWAP (R241, R242). -/
def execAmoswap (p : Part) (s : State) : Out := runPart (.amoswap p) (amoStart (.amoswap p)) s
/-- AMOCAS (R241, R242). -/
def execAmocas (p : Part) (s : State) : Out := runPart (.amocas p) (amoStart (.amocas p)) s
/-- AMOLD (R241, R242). -/
def execAmold (p : Part) (s : State) : Out := runPart (.amold p) (amoStart (.amold p)) s
/-- AMOST (R241, R244): posted. -/
def execAmost (p : Part) (s : State) : Out := runPart (.amost p) (amoStart (.amost p)) s

/-- Is the atomic a release, and is it held by earlier accesses of its context (R237, R244)? A write to memory is performed at
every scope once its home accepts it (R235), so each scope waits for it. -/
def releaseHeld (k : Core) (fl : Flight) (aux : Nat) : Bool :=
  let early := fun (f : Flight) => f.iss.before fl.iss
  bitAt aux 1 && (k.stores.any (fun p => early p.fl) || k.loads.any early || k.atomics.any early)

/-- The access an atomic makes. -/
def atomicAcc (o : Nat) : Acc := if o = 0x6A then accAmold else accAtomic
/-- May an atomic be performed, or leave as a contribution: it has not left already, its page has gone, or nothing holds it
back (R232, R237, R243, R348)? -/
def atomicMay (core : Nat) (s : State) (fl : Flight) : Bool :=
  let k := s.mach.core core
  match view fl.i with
  | .op o p =>
    !s.mach.sent core fl && (match translate s (agentOf core) fl.iss.asid (k.flightVa fl) (atomicAcc o) with
      | .fail _ => true
      | .ok sp ad _ => uliLost s.mach core sp || !(releaseHeld k fl p.cw.aux.toNat || accessHeld s core fl.iss sp ad (accessSize p)))
  | _ => false
/-- The atomic of the context that ATOMIC_COMPLETE performs: the first that may be. -/
def nextAtomic (core x : Nat) (s : State) : Option Flight :=
  (s.mach.core core).atomics.find? (fun f => f.iss.ctx == x && atomicMay core s f)
/-- Where ATOMIC_COMPLETE of a context writes, if it is enabled and writes: memory, address, size. -/
def atomicTarget (core x : Nat) (s : State) : Option (Nat × Nat × Nat) :=
  match nextAtomic core x s with
  | none => none
  | some fl => match view fl.i with
    | .op o p =>
      match translate s (agentOf core) fl.iss.asid ((s.mach.core core).flightVa fl) (atomicAcc o) with
      | .ok sp ad _ => if o = 0x6A then none else some (sp, ad, accessSize p)
      | .fail _ => none
    | _ => none

/-- An atomic leaves the core with a slot fault of its SC part. -/
def atomicTrap (core : Nat) (fl : Flight) (t : Trap) (m : Mach) : Mach :=
  (m.upd core (fun k => { k with atomics := k.atomics.erase fl }.faultPart core fl t)).dropPorts (scalarHolder core) fl.iss.seq
/-- An atomic at its home: the old value is returned, the new one stored; a poisoned line is SOFTERR (R242). The old value is free where
a plain write races it (R231; log 9). -/
def amoAt (core : Nat) (fl : Flight) (o : Nat) (p : Part) (sp ad : Nat) (s : State) : State :=
  let k := s.mach.core core
  let x := fl.iss.ctx
  let n := accessSize p
  let w := 8 * n
  let m := noteTlb s (agentOf core) fl.iss.asid (k.flightVa fl) s.mach
  if s.mem.poisoned sp ad then { s with mach := atomicTrap core fl ⟨cSOFTERR, 1, true, 1 * 2 ^ 16, k.flightVa fl⟩ m }
  else
    let old := s.readRacing core fl.iss sp ad n
    let c := k.pairOpnd fl.iss p p.cw.src3
    let e := k.pairOpnd fl.iss p p.cw.src2
    let hit := decide (old = e % 2 ^ w)
    let d := dstReg p.cw.dst
    let r := BitVec.ofNat 64 (if n = 4 then wrapTo (sext old 32) 64 else old)
    let k' := { k with atomics := k.atomics.erase fl }
    let k' := if o = 0x6B then k' else k'.putS x d r
    let k' := if n = 16 ∧ o ≠ 0x6B ∧ d ≠ 0 then k'.putS x (d + 1) (BitVec.ofNat 64 (old / 2 ^ 64)) else k'
    let k' := if o = 0x69 then k'.putP x p.cw.pdst.toNat hit else k'
    let k' := if o = 0x69 ∧ hit = false then k'.inc 0xC1 1 else k'
    let k' := k'.retire fl
    let mem := if o = 0x6A ∨ o = 0x69 ∧ hit = false then s.mem.readAt sp 0 ad n else s.mem.write sp ad n (amoValue (o - 0x60) w old c e)
    State.settle { mach := m.setCore core k', mem := mem } core x

/-- An atomic merged in a reduction window leaves as a contribution (R243, R330, R332). It stays under way on its core until the
home has accepted that. -/
def amoMerge (core : Nat) (fl : Flight) (o : Nat) (p : Part) (win sp ad : Nat) (s : State) : State :=
  let k := s.mach.core core
  let r0 := s.mach.redwin win 0
  let con : Contrib := ⟨some fl.iss.seq, false, win, winOrdered r0, decide (winType r0 = 2), winCount r0, s.mach.deviceNo, core, fl.iss.ctx,
    sp, ad, o - 0x60, accessSize p, BitVec.ofNat 64 (k.pairOpnd fl.iss p p.cw.src3)⟩
  { s with mach := { s.mach.upd core (fun k => k.inc 0xC3 1) with contribs := s.mach.contribs ++ [con] } }
/-- A contribution of this device is accepted (R332): its atomic returns 0 (R243). -/
def Mach.accepted (m : Mach) (c : Contrib) : Mach :=
  match c.seq with
  | none => m
  | some n => m.upd c.core (fun k => match k.atomics.find? (fun f => decide (f.iss.ctx = c.ctx ∧ f.iss.seq = n)) with
    | none => k
    | some fl =>
      let k := { k with atomics := k.atomics.erase fl }
      let k := match view fl.i with
        | .op _ p => k.putS c.ctx (dstReg p.cw.dst) 0
        | _ => k
      k.retire fl)

/-- ATOMIC_COMPLETE (R242 to R244): an atomic of a context is performed at its home, indivisibly, or leaves to be merged. -/
def atomicComplete (core x : Nat) (s : State) : Option State :=
  match nextAtomic core x s with
  | none => none
  | some fl => match view fl.i with
    | .op o p =>
      let va := (s.mach.core core).flightVa fl
      let lost := some { s with mach := (atomicTrap core fl ⟨cSOFTERR, 1, true, 1 * 2 ^ 16, va⟩ s.mach).noteLost core 1 }
      match translate s (agentOf core) fl.iss.asid va (atomicAcc o) with
      | .fail r =>
        some { s with mach := atomicTrap core fl { accessTrap cXLATE 1 (decide (o ≠ 0x6A)) r va with kind := true } s.mach }
      | .ok sp ad _ => match s.mach.window fl.iss.asid va o (accessSize p) with
        | some w =>
          if uliLost s.mach core (if mergeLeaves s.mach w sp then 1 else 0) then lost
          else some (amoMerge core fl o p w sp ad s)
        | none => if uliLost s.mach core sp then lost else some (amoAt core fl o p sp ad s)
    | _ => none
def execAtomicComplete (core ctx : Nat) (s : State) : Out :=
  if core ≥ 640 ∨ ctx ≥ 4 then .fault .noSuchUnit else stepState s (atomicComplete core ctx s)

end Sys2Proof.Machine
end

