-- ==== Sys2Proof/Machine/Csr.lean ====
section
/-! DEFINITION. The control and status registers: what each number reads, which bits a write sets (R10, R67, R114, R116,
R118, R119, R127, R128, R178, R195, R207, R229, R247, R257, R263, R279, R303, R338), and CSRR to CSRCLR. -/
namespace Sys2Proof.Machine
open Sys2Proof

/-- Context state codes (R59). -/
def CState.code (s : CState) : Nat :=
  match s with
  | .unbound => 0
  | .idle => 1
  | .ready => 2
  | .issuing => 3
  | .blocked => 4
  | .halting => 5
/-- FEATURES with the masked ones reading 0 (R338, R339). -/
def Mach.features (m : Mach) : Nat := 7 - m.featMask
/-- BARPOOL.LOW, which is 64 at reset and is kept as its distance from 64 (R229). -/
def Core.poolLow (k : Core) : Nat := (192 - (k.rC 0xB1).toNat % 128) % 128
def Core.setPoolLow (k : Core) (v : Nat) : Core := k.wC 0xB1 (BitVec.ofNat 64 ((192 - v % 128) % 128))
/-- Records not yet delivered (R303, R305). -/
def Ctx.queued (x : Ctx) : Nat := Nat.min 31 x.waiting.length

/-- What a CSR reads (R127). -/
def csrRead (m : Mach) (c x n : Nat) : W64 :=
  let k := m.core c
  let t := k.ctx x
  let w := fun (v : Nat) => BitVec.ofNat 64 v
  if n = 0x00 then w (2 + m.minor.toNat * 256 + m.stepping.toNat * 65536)
  else if n = 0x01 then w m.features
  else if n = 0x40 then w (x + c * 4)
  else if n = 0x41 then w ((ctxNums.map (fun i => (k.ctx i).st.code * 8 ^ i)).sum)
  else if n = 0x42 then w (t.dommask.toNat + b2n t.phase1 * 16)
  else if 0x43 ≤ n ∧ n ≤ 0x46 then Tab.get 0 t.domid (n - 0x41)
  else if n = 0x47 then w (t.vbase + t.vcount * 2 ^ 10 + t.abase % 16 * 2 ^ 20 + t.acount * 2 ^ 24)
  else if n = 0xB1 then w (k.barsFree + k.poolLow * 256)
  else if n = 0xD9 then
    let e := Tab.get 0 m.slots (dieOf c * 64 + fld (t.rC csrSLOTIDX) 5 0)
    let mine := flag e 16 && decide (fld e 15 0 = k.asid)
    w ((if mine then fld e 15 0 else 0) + b2n (flag e 16) * 2 ^ 16 + b2n (flag e 17) * 2 ^ 17 + b2n mine * 2 ^ 18)
  else if n = 0xDA then w (m.usec % 64 + m.usec / 64 * 64)
  else if n = 0xF6 then w (b2n t.inh + t.queued * 256)
  else if isCoreCsr n then k.rC n
  else t.rC n

/-- The RW bits of a CSR; the read-only ones have none. -/
def csrRwMask (n : Nat) : Nat :=
  if n ≤ 0x47 ∨ 0x49 ≤ n ∧ n ≤ 0x4F ∨ n = csrGUARDST ∨ n = 0xD9 ∨ n = 0xDA ∨ n = csrECAUSE ∨ n = csrEADDR ∨
      n = csrESLOTS ∨ n = 0xF6 then 0
  else if 0x80 ≤ n ∧ n ≤ 0x8F then 0xFFFF
  else if n = csrMDPC then 0x3FFF8
  else if n = csrEPHPOL then 3
  else if n = csrSLOTIDX then 0x3F
  else if n = csrEVEC then 0x3FFF9
  else if n = csrEPC ∨ n = csrENEXT then 0x3FFFF
  else 2 ^ 64 - 1
/-- `v` in the RW bits, `old` in the others. -/
def csrMerge (n : Nat) (old v : W64) : W64 :=
  let mk := BitVec.ofNat 64 (csrRwMask n)
  v &&& mk ||| old &&& ~~~mk

/-- A write of value `v` formed by CSRW (`w1c` set), CSRSET or CSRCLR (R127), field by field: LOOPST only lowers (R67), PEND
clears COUNT with it (R118), EPC is kept while ESLOTS is not zero (R303), BARPOOL takes LOW (R229). -/
def csrWrite (x n : Nat) (w1c : Bool) (v : W64) (k : Core) : Core :=
  let t := k.ctx x
  if n = csrLOOPST then (if fld v 1 0 < t.ldepth then k.upd x (fun c => c.setDepth (fld v 1 0)) else k)
  else if n = csrGUARDST then
    (if w1c ∧ flag v 20 = true then
      k.upd x (fun c => c.wC n (BitVec.ofNat 64 (setField (setField (c.rC n).toNat 20 1 0) 32 16 0))) else k)
  else if n = csrESLOTS then (if w1c then k.upd x (fun c => c.wC n (c.rC n &&& ~~~(v &&& 0x7F))) else k)
  else if n = csrEPC ∧ t.rC csrESLOTS ≠ 0 then k
  else if n = 0xB1 then k.setPoolLow (fld v 14 8)
  else if isCoreCsr n then k.wC n (csrMerge n (k.rC n) v)
  else if csrRwMask n = 0 then k
  else k.upd x (fun c => c.wC n (csrMerge n (c.rC n) v))

/-- The CSR number of a part. -/
def csrNo (p : Part) : Nat := p.cw.aux.toNat
/-- The value a CSR had before the bundle (R127): of one that its core stores, what it held then. -/
def csrBefore (m : Mach) (c : Nat) (b : Issue) (n : Nat) : W64 :=
  if isCoreCsr n ∧ n ≠ 0xB1 then Tab.get 0 b.kcsr n else csrRead m c b.ctx n
/-- CSRR (R127). -/
def csrrEff (p : Part) : Eff := fun _ b m =>
  m.upd m.focusCore (fun k => (k.putS b.ctx (dstReg p.cw.dst) (csrBefore m m.focusCore b (csrNo p))).retire ⟨.csrr p, b⟩)
def execCsrr (p : Part) (s : State) : Out := runPart (.csrr p) (csrrEff p) s
/-- CSRW, CSRSET and CSRCLR (R127): the register takes the new value field by field, and DST the old one. -/
def csrModify (o : Nat) (i : Instr) (p : Part) : Eff := fun _ b m =>
  let old := csrBefore m m.focusCore b (csrNo p)
  m.upd m.focusCore (fun k =>
    let v := csrForm o old (k.opnd b p.cw p.cw.src1)
    ((csrWrite b.ctx (csrNo p) (decide (o = 0x51)) v k).putS b.ctx (dstReg p.cw.dst) old).retire ⟨i, b⟩)
/-- CSRW (R127). -/
def execCsrw (p : Part) (s : State) : Out := runPart (.csrw p) (csrModify 0x51 (.csrw p) p) s
/-- CSRSET (R127). -/
def execCsrset (p : Part) (s : State) : Out := runPart (.csrset p) (csrModify 0x52 (.csrset p) p) s
/-- CSRCLR (R127). -/
def execCsrclr (p : Part) (s : State) : Out := runPart (.csrclr p) (csrModify 0x53 (.csrclr p) p) s

end Sys2Proof.Machine
end

