-- ==== Sys2Proof/Machine/QueueOps.lean ====
section
/-! DEFINITION. The queue instructions (R101 to R113): allotment, freeing, dequeuing, splicing, freezing, saving and
restoring; and what completes those that block their context. -/
namespace Sys2Proof.Machine
open Sys2Proof

/-! ### Results (R101) -/

/-- DST and the status predicate of a system operation, which then retires. A failure gives 2^63 + code. -/
def Core.sysDone (k : Core) (fl : Flight) (p : Part) (r : Except Nat W64) : Core :=
  let x := fl.iss.ctx
  let v := match r with
    | .ok v => v
    | .error c => BitVec.ofNat 64 (2 ^ 63 + c)
  ((k.putS x (dstReg p.cw.dst) v).putP x p.cw.pdst.toNat r.toBool).retire fl
/-- The operation holds back its context until BUNDLE_UNBLOCK completes it (R113). -/
def Core.sysWait (k : Core) (fl : Flight) : Core :=
  k.upd fl.iss.ctx (fun c => { c with wait := some fl, answer := none })
/-- The part a system operation carries. -/
def sysPart (i : Instr) : Option (Nat × Part) :=
  match view i with
  | .op o p => some (o, p)
  | _ => none
/-- The operation that a context waits for completes. -/
def Core.sysFinish (k : Core) (x : Nat) (r : Except Nat W64) : Core :=
  match (k.ctx x).wait with
  | none => k
  | some fl => match sysPart fl.i with
    | none => k
    | some (_, p) =>
      (k.upd x (fun c => { c with wait := none, answer := none })).sysDone fl p r
/-- QN. -/
def queueNo (p : Part) : Nat := p.cw.aux.toNat % 8
/-- AUX[3], ANY. -/
def anyOf (p : Part) : Bool := bitAt p.cw.aux.toNat 3
/-- An SC operation that answers at once. -/
def sysNow (i : Instr) (p : Part) (f : Issue → Core → Core × Except Nat W64) : Eff :=
  onFocus (fun _ b k => let r := f b k; r.1.sysDone ⟨i, b⟩ p r.2)

/-! ### QALLOC (R102) -/

/-- A descriptor newly allotted. -/
def Queue.fresh (base lg : Nat) : Queue := { Queue.zero with alloc := true, base := .ofNat 8 base, logcap := .ofNat 3 lg }
/-- log2 of a capacity, if it is one. -/
def capLog (n : Nat) : Option Nat := [1, 2, 3, 4, 5, 6, 7].find? (fun l => decide (2 ^ l = n))
/-- The base of a run for a queue of capacity `cap`: the failures in R102's order. -/
def Core.findBase (k : Core) (any : Bool) (cap base : Nat) : Except Nat Nat :=
  if any then
    match k.lowestRun cap with
    | some b => .ok b
    | none => .error 7
  else if base % cap ≠ 0 ∨ base + cap > 256 then .error 2
  else if k.runFree base cap = false then .error 5
  else if k.runOneFmt base cap = false then .error 6
  else .ok base
/-- QALLOC of queue `n`. -/
def qallocOn (x n : Nat) (any : Bool) (cap base : Nat) (k : Core) : Core × Except Nat W64 :=
  if (k.queue x n).alloc then (k, .error 3)
  else match capLog cap with
    | none => (k, .error 1)
    | some lg => match k.findBase any cap base with
      | .error e => (k, .error e)
      | .ok b => (k.onQueue x n (fun _ => Queue.fresh b lg), .ok (BitVec.ofNat 64 b))
/-- QALLOC (R102). -/
def execQalloc (p : Part) (s : State) : Out :=
  runPart (.qalloc p) (sysNow (.qalloc p) p (fun b k =>
    qallocOn b.ctx (queueNo p) (anyOf p) (k.opnd b p.cw p.cw.src1).toNat
      (if p.cw.src2 = Desc.zero then 0 else (k.opnd b p.cw p.cw.src2).toNat) k)) s

/-! ### QFREE (R103) -/

/-- The positions from HEAD to TAIL. -/
def Queue.live (q : Queue) : List Nat := (List.range (q.dist q.head q.tail)).map (fun i => q.wrap (q.head + i))
/-- No fill and no read of the queue's positions is outstanding, the reads past TAIL that a target end, or one that was, still has
among them (R93, R103, R109). -/
def Core.queueQuiet (k : Core) (x n : Nat) : Bool :=
  let q := k.queue x n
  q.live.all (fun p => decide (q.stateAt p ≠ .empty)) && q.pos.all (fun e => decide (e.2.reads = 0)) &&
  !(k.fills.any (fun f => decide (f.ctx = x ∧ f.q = n)))
/-- An operation that fails at once, or waits for BUNDLE_UNBLOCK. -/
def sysTry (i : Instr) (p : Part) (b : Issue) (k : Core) (fail : Option Nat) : Core :=
  match fail with
  | some c => k.sysDone ⟨i, b⟩ p (.error c)
  | none => k.sysWait ⟨i, b⟩
/-- QFREE (R103). -/
def execQfree (p : Part) (s : State) : Out :=
  runPart (.qfree p) (onFocus (fun _ b k =>
    let q := k.queue b.ctx (queueNo p)
    if q.alloc = true ∧ q.role = .loc ∧ k.queueQuiet b.ctx (queueNo p) = true then
      (k.onQueue b.ctx (queueNo p) (fun _ => Queue.zero)).sysDone ⟨.qfree p, b⟩ p (.ok 0)
    else sysTry (.qfree p) p b k (if !q.alloc then some 4 else if q.role ≠ .loc then some 9 else none))) s

/-! ### QDEQ (R104) -/

/-- `n` positions from IHEAD marked, and those without a pending read CONSUMED. -/
def deqPositions (x n m : Nat) (k : Core) : Core :=
  let q := k.queue x n
  let ps := (List.range m).map (fun i => q.wrap (q.ihead + i))
  let q' := ps.foldl (fun q p =>
    let r := q.cell p
    q.setRec p { r with marked := true, st := if r.reads = 0 then .consumed else r.st }) q
  (k.onQueue x n (fun _ => { q' with ihead := q'.wrap (q'.ihead + m) })).advanceHead x n
/-- QDEQ (R104). -/
def execQdeq (p : Part) (s : State) : Out :=
  runPart (.qdeq p) (scNow (.qdeq p) (fun b k =>
    deqPositions b.ctx (queueNo p) (Nat.min (k.opnd b p.cw p.cw.src1).toNat 512) k)) s

/-! ### Splices (R105 to R107) -/

/-- A partner word that is malformed: bits above 14, or a core above 639. -/
def badPartner (w : W64) : Bool := decide (w.toNat ≥ 2 ^ 15) || decide (fld w 9 0 > 639)
/-- A message leaves the core. -/
def Core.send (k : Core) (g : Msg) : Core := { k with out := k.out ++ [g] }
/-- QSPLICE (R105). -/
def qspliceEff (p : Part) : Eff := fun _ b m =>
  let c := m.focusCore
  let k := m.core c
  let n := queueNo p
  let q := k.queue b.ctx n
  let w := k.opnd b p.cw p.cw.src1
  let me : QAddr := ⟨c, b.ctx, n⟩
  let fail : Option Nat := if !q.alloc then some 4 else if q.role ≠ .loc then some 9
    else if q.head ≠ q.tail then some 8
    else if badPartner w = true ∨ QAddr.ofWord w.toNat = me then some 11 else none
  let k := sysTry (.qsplice p) p b k fail
  m.setCore c (if fail.isNone then k.send (.splice (QAddr.ofWord w.toNat) me k.asid q.cap) else k)
def execQsplice (p : Part) (s : State) : Out := runPart (.qsplice p) (qspliceEff p) s
/-- QUNSPLICE (R106). -/
def qunspliceEff (p : Part) : Eff := fun _ b m =>
  let c := m.focusCore
  let k := m.core c
  let n := queueNo p
  let q := k.queue b.ctx n
  let fail : Option Nat := if q.alloc = false ∨ q.role ≠ .producer then some 10
    else if q.frozen = true ∨ q.freezing = true then some 15 else none
  let k := sysTry (.qunsplice p) p b k fail
  m.setCore c (if fail.isNone then k.send (.unsplice (QAddr.ofWord q.partner.toNat) ⟨c, b.ctx, n⟩) else k)
def execQunsplice (p : Part) (s : State) : Out := runPart (.qunsplice p) (qunspliceEff p) s
/-- QRESPLICE (R107). -/
def qrespliceOn (x n : Nat) (w : W64) (k : Core) : Core × Except Nat W64 :=
  let q := k.queue x n
  if q.alloc = false ∨ q.role = .loc then (k, .error 10)
  else if q.frozen = false then (k, .error 12)
  else if badPartner w then (k, .error 11)
  else (k.onQueue x n (fun q => { q with partner := .ofNat 15 w.toNat }), .ok 0)
def execQresplice (p : Part) (s : State) : Out :=
  runPart (.qresplice p) (sysNow (.qresplice p) p (fun b k =>
    qrespliceOn b.ctx (queueNo p) (k.opnd b p.cw p.cw.src1) k)) s

/-! ### Freezing and thawing (R96, R97, R108) -/

/-- A splice end starts to freeze (R96): a target asks its producer, a producer sends its marker. A save sets PFRZ,
unless a context made the freeze (R97, R98). -/
def freezeStart (c x n : Nat) (save : Bool) (k : Core) : Core :=
  let q := k.queue x n
  let me : QAddr := ⟨c, x, n⟩
  let other := QAddr.ofWord q.partner.toNat
  let k' := k.onQueue x n (fun q => { q with freezing := !q.frozen, pfrz := q.pfrz || (save && !q.held), held := q.held || (!save && !q.frozen) })
  if q.frozen ∨ q.freezing then k'
  else k'.send (if q.role = .target then .freezeReq other me else .marker other me q.tail)
/-- QFREEZE (R108). -/
def qfreezeEff (p : Part) : Eff := fun _ b m =>
  let c := m.focusCore
  let k := m.core c
  let n := queueNo p
  let q := k.queue b.ctx n
  m.setCore c
    (if !q.alloc then k.sysDone ⟨.qfreeze p, b⟩ p (.error 4)
     else if q.role = .loc then
       (k.onQueue b.ctx n (fun q => { q with frozen := true })).sysDone ⟨.qfreeze p, b⟩ p (.ok (.ofNat 64 q.tail))
     else if q.frozen then k.sysDone ⟨.qfreeze p, b⟩ p (.ok (.ofNat 64 q.tail))
     else (freezeStart c b.ctx n false k).sysWait ⟨.qfreeze p, b⟩)
def execQfreeze (p : Part) (s : State) : Out := runPart (.qfreeze p) (qfreezeEff p) s
/-- The thawing end sends its address, its role, its capacity and its final tail (R97). -/
def Core.sendThaw (k : Core) (c x n : Nat) : Core :=
  let q := k.queue x n
  k.send (.thaw (QAddr.ofWord q.partner.toNat) ⟨c, x, n⟩ q.role q.cap q.tail)
/-- QTHAW (R108). -/
def qthawEff (p : Part) : Eff := fun _ b m =>
  let c := m.focusCore
  let k := m.core c
  let n := queueNo p
  let q := k.queue b.ctx n
  m.setCore c
    (if !q.alloc then k.sysDone ⟨.qthaw p, b⟩ p (.error 4)
     else if q.role = .loc then
       (k.onQueue b.ctx n (fun q => { q with frozen := false })).sysDone ⟨.qthaw p, b⟩ p (.ok (.ofNat 64 q.head))
     else (k.sysWait ⟨.qthaw p, b⟩).sendThaw c b.ctx n)
def execQthaw (p : Part) (s : State) : Out := runPart (.qthaw p) (qthawEff p) s

/-! ### Save records (R109 to R111) -/

/-- The state byte of position HEAD + i (R110, R112): a producer end holds no positions; a landed position that is not
released reads EMPTY (R93). -/
def Core.stateByte (k : Core) (x n i : Nat) : Nat :=
  let q := k.queue x n
  if q.alloc = false ∨ i ≥ q.cap ∨ q.role = .producer then 0
  else
    let p := q.wrap (q.head + i)
    let r := q.cell p
    let past := q.dist q.head p ≥ q.dist q.head q.tail
    let st := if past ∧ q.role = .target ∧ r.st ≠ .free then .empty else q.stateAt p
    st.code + Tab.get 0 k.lap (q.slotOf p) % 4 * 8 + b2n (r.marked && !past) * 32
/-- The first word of a record (R110). -/
def Queue.recWord (q : Queue) : Nat :=
  q.base.toNat + q.logcap.toNat * 2 ^ 8 + q.role.code * 2 ^ 11 + b2n q.frozen * 2 ^ 13 + b2n q.pfrz * 2 ^ 14 +
  q.head * 2 ^ 16 + q.ihead * 2 ^ 25 + q.tail * 2 ^ 34 + q.shead * 2 ^ 43
/-- The PRESENT and POISON positions, in order from HEAD. -/
def Core.savedPositions (k : Core) (x n : Nat) : List Nat :=
  let q := k.queue x n
  if q.role = .producer then [] else q.live.filter (fun p => decide (q.stateAt p = .present ∨ q.stateAt p = .poison))
/-- The record of a queue (R110). -/
def Core.queueRecord (k : Core) (x n : Nat) : List Byte :=
  let q := k.queue x n
  let ps := k.savedPositions x n
  leBytes q.recWord 8 ++ leBytes q.partner.toNat 8 ++ leBytes ps.length 8 ++ leBytes 0 40 ++
  (List.range 128).map (fun i => BitVec.ofNat 8 (k.stateByte x n i)) ++ leBytes 0 64 ++
  ps.flatMap (fun p => leBytes (Tab.get 0 k.spad (q.slotOf p)).toNat 4096)
/-- A queue has drained (R109): fills have landed, reads are complete, nothing waits to be consumed; a splice end is
FROZEN. -/
def Core.queueDrained (k : Core) (x n : Nat) : Bool :=
  let q := k.queue x n
  (decide (q.role = .loc) || q.frozen) && (decide (q.role = .producer) ||
    (k.queueQuiet x n && q.live.all (fun p => !q.canConsume p)))
/-- QSAVE (R109): a producer end that is not FROZEN starts to freeze. -/
def qsaveEff (p : Part) : Eff := fun _ b m =>
  let c := m.focusCore
  let k := m.core c
  let n := queueNo p
  let q := k.queue b.ctx n
  let fail : Option Nat := if !q.alloc then some 4 else if q.role = .target ∧ q.frozen = false then some 12 else none
  let k := if fail.isNone ∧ q.role = .producer then freezeStart c b.ctx n false k else k
  m.setCore c (sysTry (.qsave p) p b k fail)
def execQsave (p : Part) (s : State) : Out := runPart (.qsave p) (qsaveEff p) s

/-- A record as read: its words, its 128 state bytes, and whether the fields that must be zero are. -/
structure SaveRec where
  w0 : Nat
  partner : Nat
  nblk : Nat
  codes : List Nat
  clean : Bool
  deriving DecidableEq, Repr
/-- The record in 256 bytes. -/
def SaveRec.ofBytes (bs : List Byte) : SaveRec :=
  let w := fun i => leNat ((bs.drop (8 * i)).take 8)
  ⟨w 0, w 1, w 2, ((bs.drop 64).take 128).map BitVec.toNat,
    ((bs.drop 24).take 40).all (· = 0) && ((bs.drop 192).take 64).all (· = 0)⟩
/-- The descriptor a record describes, without its positions. -/
def SaveRec.queue (r : SaveRec) : Queue :=
  let f := fun (h l : Nat) => bitsOf r.w0 h l
  { Queue.zero with alloc := true, base := .ofNat 8 (f 7 0), logcap := .ofNat 3 (f 10 8), role := (if f 12 11 = 1 then .producer else if f 12 11 = 2 then .target else .loc), frozen := bitAt r.w0 13, pfrz := bitAt r.w0 14, head := f 24 16, ihead := f 33 25, tail := f 42 34, shead := f 51 43, partner := .ofNat 15 r.partner, held := bitAt r.w0 13 && !bitAt r.w0 14 && decide (f 12 11 ≠ 0) }
/-- BADREC (R111). -/
def SaveRec.bad (r : SaveRec) (any : Bool) : Bool :=
  let q := r.queue
  let n := q.dist q.head q.tail
  let code := fun i => r.codes.getD i 0 % 8
  bitAt r.w0 15 || decide (bitsOf r.w0 63 52 ≠ 0) || !r.clean || decide (r.partner ≥ 2 ^ 15) ||
  r.codes.any (fun c => decide (c ≥ 64)) || decide (q.logcap = 0) ||
  decide (q.head ≥ 4 * q.cap ∨ q.ihead ≥ 4 * q.cap ∨ q.tail ≥ 4 * q.cap ∨ q.shead ≥ 4 * q.cap) ||
  (!any && decide (q.base.toNat % q.cap ≠ 0 ∨ q.base.toNat + q.cap > 256)) || decide (n > q.cap) ||
  (decide (q.role = .loc) && decide (q.dist q.head q.ihead > n ∨ r.partner ≠ 0)) ||
  (List.range 128).any (fun i => decide (code i = 1 ∨ code i = 6 ∨ code i = 7)) ||
  (if q.role = .producer then r.codes.any (· ≠ 0) || decide (r.nblk ≠ 0 ∨ q.head ≠ q.shead ∨ q.ihead ≠ q.shead)
   else (List.range 128).any (fun i => decide ((i < n) = (code i = 0)))) ||
  (List.range 128).any (fun i => decide (code i = 0) && bitAt (r.codes.getD i 0) 5) || decide (bitsOf r.w0 12 11 = 3) ||
  decide (r.nblk ≠ (r.codes.filter (fun c => decide (c % 8 = 2 ∨ c % 8 = 4))).length) ||
  (decide (q.role ≠ .loc) && !q.frozen)
/-- The queue of a record at base `b`, its contents in the slots (R111). -/
def SaveRec.install (r : SaveRec) (x n b : Nat) (tiles : List Tile) (k : Core) : Core :=
  let q0 := { r.queue with base := BitVec.ofNat 8 b }
  let q0 := { q0 with ftail := if q0.frozen = true ∧ q0.role ≠ .loc then some q0.tail else none }
  let step := fun (a : Core × List Tile) (i : Nat) =>
    let c := r.codes.getD i 0
    let p := q0.wrap (q0.head + i)
    let sl := q0.slotOf p
    let k := { a.1 with lap := Tab.set 0 a.1.lap sl (c / 8 % 4) }
    let k := if c % 8 = 0 then k
      else k.onQueue x n (fun q => q.setRec p ⟨PSt.ofCode (c % 8), decide (c / 32 % 2 = 1), 0, none⟩)
    if c % 8 = 2 ∨ c % 8 = 4 then
      ({ k.soundSlot sl with spad := Tab.set 0 k.spad sl (a.2.headD 0) }, a.2.tail)
    else (k, a.2)
  let k := k.onQueue x n (fun _ => q0)
  if q0.role = .producer then k else ((List.range q0.cap).foldl step (k, tiles)).1
/-- QRESTORE (R111): ALLOTTED at once; the record is read and checked when the operation completes. -/
def qrestoreEff (p : Part) : Eff := onFocus (fun _ b k =>
  sysTry (.qrestore p) p b k (if (k.queue b.ctx (queueNo p)).alloc then some 3 else none))
def execQrestore (p : Part) (s : State) : Out := runPart (.qrestore p) (qrestoreEff p) s

/-! ### QSTAT (R112) -/

/-- The descriptor form of QSTAT. -/
def Queue.statWord (q : Queue) : Nat :=
  q.head + q.ihead * 2 ^ 9 + q.tail * 2 ^ 18 + q.base.toNat * 2 ^ 27 + q.logcap.toNat * 2 ^ 35 + b2n q.alloc * 2 ^ 38 +
  q.role.code * 2 ^ 39 + b2n q.frozen * 2 ^ 41 + b2n q.freezing * 2 ^ 42 + q.shead * 2 ^ 43
/-- QSTAT (R112). -/
def qstatEff (p : Part) (b : Issue) (k : Core) : Core :=
  let n := queueNo p
  let q := k.queue b.ctx n
  let v := match p.cw.aux.toNat / 8 with
    | 0 => q.statWord
    | 1 => k.stateByte b.ctx n (scalarOpt b.pre (k.ctx b.ctx).cbank p.cw p.cw.src1).toNat
    | _ => q.partner.toNat
  k.putS b.ctx (dstReg p.cw.dst) (.ofNat 64 v)
def execQstat (p : Part) (s : State) : Out := runPart (.qstat p) (scNow (.qstat p) (qstatEff p)) s

/-! ### What completes a queue operation (R113) -/

/-- A slot fault of the waiting operation: it leaves its context and is ready to run again. -/
def waitFault (core : Nat) (fl : Flight) (t : Trap) (s : State) : State :=
  s.onCore core (fun k => (k.upd fl.iss.ctx (fun c => { c with wait := none, answer := none })).faultPart core fl t)
/-- The waiting operation completes on the core alone. -/
def waitDone (core x : Nat) (f : Core → Core) (r : Except Nat W64) (s : State) : State :=
  s.onCore core (fun k => (f k).sysFinish x r)
/-- SOFTERR of a read or write of memory by the SC slot: class 1 (R304). -/
def softTrap (part va : Nat) : Trap := ⟨cSOFTERR, part, true, 1 * 2 ^ 16, va⟩
/-- XLATE found after issue (R304). -/
def xlateTrap (part : Nat) (wr : Bool) (reason va : Nat) : Trap := { accessTrap cXLATE part wr reason va with kind := true }
/-- The first address of a virtual range whose line carries poison. -/
def firstPoison (s : State) (ag asid va n : Nat) : Option Nat :=
  (List.range ((63 + (n + va)) / 64 - va / 64)).findSome? (fun i =>
    let v := va / 64 * 64 + 64 * i
    match translate s ag asid v accRead with
    | .ok sp ad _ => if s.mem.poisoned sp ad then some v else none
    | .fail _ => none)
/-- A range meets a remote page for which no trained port remains (R327). -/
def lostAt (s : State) (core asid va n : Nat) : Option Nat :=
  (pageRuns va n).findSome? (fun (v, _) => match translate s (agentOf core) asid v accRead with
    | .ok sp _ _ => if uliLost s.mach core sp then some (v / 64 * 64) else none
    | .fail _ => none)
/-- The first line of the ranges that cannot be read as data: poisoned, or out of reach (R221, R311, R327). -/
def softAt (s : State) (core asid : Nat) (rs : List (Nat × Nat)) : Option Nat :=
  rs.findSome? (fun (va, n) => match firstPoison s (agentOf core) asid va n with
    | some v => some v
    | none => lostAt s core asid va n)
/-- ECCUE of the die counts an access that found no port (R327). -/
def State.noteLostAt (s : State) (core asid va : Nat) : State :=
  if (lostAt s core asid va 1).isSome then { s with mach := s.mach.incDie (dieOf core) 0x328 1 } else s
/-- Bytes of a tenant stored by a core's engine, run by run; a run that no port reaches is dropped and counted (R327). -/
def storeRuns (s : State) (core asid va : Nat) (bs : List Byte) (pol : Nat) : State :=
  (pageRuns va bs.length).foldl (fun s (v, m) =>
    if (lostAt s core asid v 1).isSome then s.noteLostAt core asid v
    else { s with mem := storeVa s (agentOf core) asid v ((bs.drop (v - va)).take m) pol }) s
/-- 4 KiB tiles of a byte string. -/
def tilesOf (bs : List Byte) (n : Nat) : List Tile :=
  (List.range n).map (fun i => BitVec.ofNat 32768 (leNat ((bs.drop (4096 * i)).take 4096)))
/-- QSAVE completes (R109): the record is written, the slots read from their banks (R115). -/
def qsaveFinish (core x : Nat) (fl : Flight) (p : Part) (s : State) : Option State :=
  let k := s.mach.core core
  let n := queueNo p
  if !k.queueDrained x n then none
  else
    let va := (scalarOp fl.iss.pre (k.ctx x).cbank p.cw p.cw.src1).toNat
    let bs := k.queueRecord x n
    match firstUnmapped s (agentOf core) fl.iss.asid va bs.length accWrite with
    | some (a, r) => some (waitFault core fl (xlateTrap 1 true r a) s)
    | none => s.transfer core fl.iss.asid (waitHolder core) fl.iss.seq [(.write, [(va, bs.length)])] (fun s =>
        some (waitDone core x Core.bankWait (.ok (.ofNat 64 bs.length)) (storeRuns s core fl.iss.asid va bs 0)))
/-- The address of a QRESTORE's record, and the record's length as its header has it. -/
def qrestoreRange (core : Nat) (fl : Flight) (p : Part) (s : State) : Nat × Nat :=
  let va := (scalarOp fl.iss.pre ((s.mach.core core).ctx fl.iss.ctx).cbank p.cw p.cw.src1).toNat
  match readVa s (agentOf core) fl.iss.asid va 256 accRead with
  | .ok hd => (va, 256 + 4096 * (SaveRec.ofBytes hd).nblk)
  | .error _ => (va, 256)
/-- QRESTORE completes (R111), its record having been read. -/
def qrestoreDone (core x : Nat) (fl : Flight) (p : Part) (s : State) : State :=
  let k := s.mach.core core
  let n := queueNo p
  let va := (qrestoreRange core fl p s).1
  let rd := fun (a m : Nat) => readVa s (agentOf core) fl.iss.asid a m accRead
  let fault := fun (t : Trap) => waitFault core fl t s
  let soft := fun (a : Nat) => (waitFault core fl (softTrap 1 a) s).noteLostAt core fl.iss.asid a
  match rd va 256, softAt s core fl.iss.asid [(va, 256)] with
  | .error (a, r), _ => fault (xlateTrap 1 false r a)
  | .ok _, some a => soft a
  | .ok hd, none =>
    let r := SaveRec.ofBytes hd
    if r.bad (anyOf p) then waitDone core x (fun k => k) (.error 14) s
    else match rd (va + 256) (4096 * r.nblk) with
      | .error (a, e) => fault (xlateTrap 1 false e a)
      | .ok bs => match softAt s core fl.iss.asid [(va + 256, 4096 * r.nblk)] with
        | some a => soft a
        | none => match k.findBase (anyOf p) r.queue.cap r.queue.base.toNat with
          | .error e => waitDone core x (fun k => k) (.error e) s
          | .ok b => waitDone core x (fun k => (r.install x n b (tilesOf bs r.nblk) k).bankWait) (.ok (.ofNat 64 b))
              (s.reads core fl.iss.asid 0 [(va, 256 + 4096 * r.nblk)])
/-- QRESTORE reads its record through the ports, and completes. -/
def qrestoreFinish (core x : Nat) (fl : Flight) (p : Part) (s : State) : Option State :=
  s.transfer core fl.iss.asid (waitHolder core) fl.iss.seq [(.read 0, [qrestoreRange core fl p s])] (fun s => some (qrestoreDone core x fl p s))
/-- A queue operation that blocks its context completes, if its condition holds. -/
def queueFinish (core x : Nat) (fl : Flight) (o : Nat) (p : Part) (s : State) : Option State :=
  let k := s.mach.core core
  let n := queueNo p
  let q := k.queue x n
  let same := fun (k : Core) => k
  match o with
  | 0x361 => if k.queueQuiet x n then some (waitDone core x (fun k => k.onQueue x n (fun _ => Queue.zero)) (.ok 0) s) else none
  | 0x366 => if q.frozen then some (waitDone core x same (.ok (.ofNat 64 q.tail)) s) else none
  | 0x368 => qsaveFinish core x fl p s
  | 0x369 => qrestoreFinish core x fl p s
  | _ => match (k.ctx x).answer with
    | none => none
    | some a => some (waitDone core x same (if flag a 63 then .error (a.toNat % 2 ^ 63) else .ok a) s)

end Sys2Proof.Machine
end

