-- ==== Sys2Proof/Machine/BarrierOps.lean ====
section
/-! DEFINITION. The barrier instructions (R226). -/
namespace Sys2Proof.Machine
open Sys2Proof

/-- BARPOOL.LOW follows the least FREE (R229). -/
def Core.notePool (k : Core) : Core := k.setPoolLow (Nat.min k.poolLow k.barsFree)
/-- BARALLOC. -/
def barallocOn (k : Core) : Core × Except Nat W64 :=
  match firstBelow Config.numBarriers (fun n => !(k.bar n).alloc) with
  | none => (k, .error 1)
  | some n =>
    let g := (k.bar n).gen
    ((k.setBar n { Barrier.zero with alloc := true, gen := g, refcnt := 1 }).notePool, .ok (handleWord n g 1))
/-- An instruction on the barrier of a handle; a handle that is not valid is BADH. -/
def onHandle (h : W64) (k : Core) (f : Nat → Barrier → Core × Except Nat W64) : Core × Except Nat W64 :=
  match k.handle h with
  | none => (k, .error 2)
  | some n => f n (k.bar n)
/-- The handle of a part. -/
def Core.handleOpnd (k : Core) (b : Issue) (p : Part) : W64 := k.opnd b p.cw p.cw.src1
/-- BARALLOC (R226). -/
def execBaralloc (p : Part) (s : State) : Out := runPart (.baralloc p) (sysNow (.baralloc p) p (fun _ k => barallocOn k)) s
/-- BARREF (R226). -/
def barrefOn (h : W64) (k : Core) : Core × Except Nat W64 :=
  onHandle h k (fun n b =>
    if b.refcnt = 255 then (k, .error 3)
    else (k.setBar n { b with refcnt := b.refcnt + 1 }, .ok (.ofNat 64 (b.refcnt + 1))))
def execBarref (p : Part) (s : State) : Out :=
  runPart (.barref p) (sysNow (.barref p) p (fun b k => barrefOn (k.handleOpnd b p) k)) s
/-- BARDROP (R226). A barrier whose last reference has gone frees when its bundle has issued, where no issued copy or AR part
names it, and otherwise by BARRIER_FREE (R224). -/
def bardropOn (h : W64) (k : Core) : Core × Except Nat W64 :=
  onHandle h k (fun n b => (k.setBar n { b with refcnt := b.refcnt - 1 }, .ok (.ofNat 64 (b.refcnt - 1))))
def execBardrop (p : Part) (s : State) : Out :=
  runPart (.bardrop p) (sysNow (.bardrop p) p (fun b k => bardropOn (k.handleOpnd b p) k)) s
/-- BARINIT (R226). -/
def barinitOn (h : W64) (arr bytes : Nat) (k : Core) : Core × Except Nat W64 :=
  onHandle h k (fun n b =>
    if arr > 65535 ∨ bytes ≥ 2 ^ 48 ∨ (arr = 0 ∧ bytes = 0) then (k, .error 4)
    else (k.setBar n { b with armed := true, exparr := arr, expb := bytes, arrcnt := 0, landb := 0, xtrab := 0, ovr := false, fault := false, faddr := 0, oorcnt := 0, vfail := 0 }, .ok 0))
def execBarinit (p : Part) (s : State) : Out :=
  runPart (.barinit p) (sysNow (.barinit p) p (fun b k =>
    barinitOn (k.handleOpnd b p) (k.opnd b p.cw p.cw.src2).toNat (k.opnd b p.cw p.cw.src3).toNat k)) s
/-- The words of BARTEST (R226). -/
def Barrier.testWord (b : Barrier) (sel : Nat) : Nat :=
  match sel with
  | 0 => b.epoch + b2n b.armed * 2 ^ 16 + b2n b.ovr * 2 ^ 17 + b2n b.fault * 2 ^ 18 + b.arrcnt * 2 ^ 19 + b.exparr * 2 ^ 35
  | 1 => b.pending
  | 2 => b.oorcnt + b.vfail * 2 ^ 16 + b.refcnt * 2 ^ 32
  | _ => b.faddr
/-- BARTEST (R226): on an OVERRUN barrier a slot fault of the SC part. -/
def bartestEff (core : Nat) (p : Part) (b : Issue) (k : Core) : Core :=
  let fl : Flight := ⟨.bartest p, b⟩
  let h := k.handleOpnd b p
  match k.handle h with
  | none => k.sysDone fl p (.error 2)
  | some n =>
    let r := k.bar n
    if r.ovr then k.faultPart core fl ⟨cBAROVR, 1, true, 0, 0⟩
    else
      let k := k.putS b.ctx (dstReg p.cw.dst) (.ofNat 64 (r.testWord (p.cw.aux.toNat % 4)))
      (k.putP b.ctx p.cw.pdst.toNat (r.reached (wepochOf h))).retire fl
def execBartest (p : Part) (s : State) : Out :=
  runPart (.bartest p) (fun _ b m => m.upd m.focusCore (bartestEff m.focusCore p b)) s
/-- BARARR (R226). -/
def bararrOn (h : W64) (n bytes : Nat) (k : Core) : Core × Except Nat W64 :=
  onHandle h k (fun i b =>
    if n > 65535 ∨ b.expb + b.xtrab + bytes > 2 ^ 48 - 1 then (k, .error 4)
    else
      let k' := k.onBar i (fun b => { b with xtrab := b.xtrab + bytes }.arrive n)
      (k', .ok (.ofNat 64 (k'.bar i).epoch)))
def execBararr (p : Part) (s : State) : Out :=
  runPart (.bararr p) (sysNow (.bararr p) p (fun b k =>
    bararrOn (k.handleOpnd b p) (k.opnd b p.cw p.cw.src2).toNat
      (scalarOpt b.pre (k.ctx b.ctx).cbank p.cw p.cw.src3).toNat k)) s

end Sys2Proof.Machine
end

