-- ==== Sys2Proof/Machine/Vector.lean ====
section
/-! DEFINITION. Vector operands and the start of a part (R179 to R184); the integer operations, compares, reductions, masks
and requantisation of the lanes (R185 to R188, R191). -/
namespace Sys2Proof.Machine
open Sys2Proof

/-- What a vector or crossbar operation computes from: its opcode and part, its element type, its slot width and container
in bits, its sources in order, the scales of a tapered source and destination (R136), the resolved rounding and saturation,
the source format of a conversion, and the selected modulus pair. -/
structure VIn where
  o : Nat
  p : Part
  f : Fmt
  w : Nat
  c : Nat
  srcs : List Src
  sscale : Int
  dscale : Int
  rnd : Rnd
  sat : Bool
  sfmt : Fmt
  rot : Nat
  bank : Tile
  m : VReg
  k : VReg
/-- What it gives: the container's bits, a scalar or element result, a predicate, a modulus pair. -/
structure VRes where
  bits : Option Nat
  pred : Option Bool
  pair : Option (VReg × VReg)

def VRes.ofBits (n : Nat) : VRes := ⟨some n, none, none⟩
/-- Elements of the container, and element `i` of a source. -/
def VIn.n (v : VIn) : Nat := v.c / v.f.width
def VIn.e (v : VIn) : Nat := v.f.width
def VIn.at (v : VIn) (s i : Nat) : Nat := (srcAt v.srcs s).elem i v.e
/-- A result made element by element. -/
def VIn.each (v : VIn) (g : Nat → Nat) : VRes := VRes.ofBits (packElems v.e ((List.range v.n).map g))

/-! ### Integer elements -/

/-- The signed reading of an element; UINT8 reads unsigned (R185). -/
def VIn.sgn (v : VIn) (x : Nat) : Int := if v.f = .uint8 then ((x : Nat) : Int) else sext x v.e
/-- t of R185 for one element. -/
def vintElem (v : VIn) (a b c : Nat) : Int :=
  let sa := v.sgn a
  let sb := v.sgn b
  let two : Int := ((2 ^ v.e : Nat) : Int)
  match v.o with
  | 0x101 => sa + sb
  | 0x102 => sa - sb
  | 0x103 => sa * sb
  | 0x104 => (sa * sb) / two
  | 0x105 => ((a * b / 2 ^ v.e : Nat) : Int)
  | 0x106 => if sa < sb then sa else sb
  | 0x107 => if sa < sb then sb else sa
  | 0x108 => ((if a < b then a else b : Nat) : Int)
  | 0x109 => ((if a < b then b else a : Nat) : Int)
  | 0x10A => ((a &&& b : Nat) : Int)
  | 0x10B => ((a ||| b : Nat) : Int)
  | 0x10C => ((a ^^^ b : Nat) : Int)
  | 0x10D => ((a * 2 ^ (b % v.e) : Nat) : Int)
  | 0x10E => ((a / 2 ^ (b % v.e) : Nat) : Int)
  | 0x10F => sa / ((2 ^ (b % v.e) : Nat) : Int)
  | 0x110 => if sa < 0 then -sa else sa
  | 0x111 => -sa
  | 0x112 => (a : Int)
  | 0x113 => ((if a ≠ 0 then b else c : Nat) : Int)
  | _ => sa * sb + v.sgn c
/-- An integer result in its element: saturated if asked, else wrapped. -/
def VIn.fit (v : VIn) (t : Int) : Nat := wrapTo (if v.sat then clampInt t v.f else t) v.e
/-- VADD to VMAD (R185). -/
def vintOp (v : VIn) : VRes := v.each (fun i => v.fit (vintElem v (v.at 0 i) (v.at 1 i) (v.at 2 i)))

/-! ### Compares (R186) -/

/-- A mask and the predicate: the OR of every result, or the AND with ALL. -/
def VIn.mask (v : VIn) (g : Nat → Bool) : VRes :=
  let rs := (List.range v.n).map g
  ⟨some (packElems v.e (rs.map (fun t => maskElem t v.e))),
    some (if bitAt v.p.cw.aux.toNat 0 then rs.all id else rs.any id), none⟩
/-- VCMPEQ to VCMPLEU. -/
def vcmpOp (v : VIn) : VRes :=
  v.mask (fun i => intCmp (v.o - 0x120) (v.at 0 i) (v.at 1 i) v.e (v.f == .uint8))

/-! ### Reductions (R187) -/

/-- A reduction's result: a scalar, sign-extended where asked, or element 0 with the rest zero. -/
def VIn.reduced (v : VIn) (signed : Bool) (x : Nat) : VRes :=
  match v.p.cw.dst with
  | .sreg _ => VRes.ofBits (if signed then wrapTo (sext x v.e) 64 else x % 2 ^ v.e)
  | _ => VRes.ofBits (x % 2 ^ v.e)
/-- The elements of the container, then the initial value if there is one. -/
def VIn.values (v : VIn) : List Nat :=
  (List.range v.n).map (v.at 0) ++ (if v.p.cw.src2 = Desc.zero then [] else [v.at 1 0])
/-- VREDADD to VREDMAXU. -/
def vredOp (v : VIn) : VRes :=
  let xs := v.values
  let s := xs.map v.sgn
  let least := fun (l : List Int) => l.foldl (fun a b => if b < a then b else a) (l.headD 0)
  let most := fun (l : List Int) => l.foldl (fun a b => if a < b then b else a) (l.headD 0)
  let u := xs.map (fun x => ((x : Nat) : Int))
  let sg := decide (v.f ≠ .uint8)
  match v.o with
  | 0x130 => v.reduced sg (v.fit s.sum)
  | 0x131 => v.reduced sg (wrapTo (least s) v.e)
  | 0x132 => v.reduced sg (wrapTo (most s) v.e)
  | 0x133 => v.reduced false (wrapTo (least u) v.e)
  | _ => v.reduced false (wrapTo (most u) v.e)

/-! ### Masks (R188) -/

/-- The mask of SRC1. -/
def VIn.trues (v : VIn) : List Bool := (List.range v.n).map (fun i => decide (v.at 0 i ≠ 0))
/-- Indices of the true elements, in increasing order. -/
def trueIdx (l : List Bool) : List Nat := (List.range l.length).filter (fun i => l.getD i false)
/-- The kept elements, then zeros. -/
def compact (v : VIn) : List Nat := (trueIdx v.trues).map (fun i => canonNan (v.at 1 i) v.f)
/-- The elements of `a` spread over the true places. -/
def expand (v : VIn) : List Bool → Nat → List Nat
  | [], _ => []
  | true :: t, j => canonNan (v.at 1 j) v.f :: expand v t (j + 1)
  | false :: t, j => 0 :: expand v t j
/-- The number of true elements before each place. -/
def iota : List Bool → Nat → List Nat
  | [], _ => []
  | b :: t, n => n :: iota t (n + b2n b)
/-- VCOMPACT, VEXPAND, VMASKCNT, VIOTA. -/
def vmaskOp (v : VIn) : VRes :=
  let m := v.trues
  match v.o with
  | 0x140 => VRes.ofBits (packElems v.e (compact v))
  | 0x141 => VRes.ofBits (packElems v.e (expand v m 0))
  | 0x143 => VRes.ofBits (packElems v.e (iota m 0))
  | _ => VRes.ofBits (match v.p.cw.aux.toNat with
    | 0 => (trueIdx m).length
    | 1 => packElems 1 ((m.take 64).map b2n)
    | _ => (trueIdx m).headD v.n)

/-! ### Requantising (R191) -/

/-- The narrowing rule of R190: element `i` below the source count, zero beyond. -/
def VIn.narrow (v : VIn) (es : Nat) (g : Nat → Nat) : VRes := v.each (fun i => if i < v.c / es then g i else 0)
/-- VREQ and VREQ8. -/
def vreqOp (v : VIn) : VRes :=
  let x := fun (s i : Nat) => sext ((srcAt v.srcs s).elem i 32) 32
  let rnd := if v.o = 0x151 then Rnd.rne else v.rnd
  let sat := decide (v.o = 0x151) || v.sat
  let z := fun i => if v.p.cw.src3 = Desc.zero then (0 : Int) else x 2 i
  v.narrow 32 (fun i =>
    let q : Q := (⟨x 0 i * x 1 i, 2 ^ (v.p.cw.aux.toNat % 64)⟩ : Q).add (Q.ofInt (z i))
    roundInt (roundToInteger q rnd) v.f sat)

/-! ### The start of a part -/

/-- The element width at which an operation's scalar and register sources are read. -/
def srcWidth (k : Core) (x o : Nat) (p : Part) (f : Fmt) : Nat :=
  if o = 0x240 then ((cvtSrcFmt k x p).getD .raw).width
  else if o = 0x150 ∨ o = 0x151 ∨ o = 0x242 then 32
  else f.width
/-- An operation's inputs from its tiles and the registers as they stood before its bundle. -/
def vecIn (k : Core) (b : Issue) (o : Nat) (p : Part) (tiles : List Tile) : VIn :=
  let x := b.ctx
  let f := elemFmt k x o p
  let w := partWidth p
  let c := container o p
  let bank := (k.ctx x).cbank
  let srcs := assemble b.vpool (k.ctx x).vbase b.pre bank p.cw w (srcWidth k x o p f) (sources o p) tiles
  let db := dstBank k x p.cw.dst
  let sfmt := if o = 0x240 then (cvtSrcFmt k x p).getD .raw else f
  let i := p.cw.mksel.toNat
  let rot := if p.cw.src2 = Desc.zero then p.cw.aux.toNat else (scalarOp b.pre bank p.cw p.cw.src2).toNat
  ⟨o, p, f, w, c, srcs, biasOf (srcBank k x p.cw.src1), biasOf db, rndOf p db, satOf p db, sfmt, rot, bank, b.pre.rM i,
    b.pre.rK i⟩
/-- The writes of a result. -/
def vecWrites (vb n : Nat) (p : Part) (dests : List DestRes) (r : VRes) : List VWrite :=
  ((r.bits.map (writeResult vb n (partWidth p) dests p.cw.dst)).getD []) ++
  (match r.pred with
   | some t => if p.cw.pdst = 0 then [] else [.pred p.cw.pdst.toNat t]
   | none => []) ++
  (match r.pair with
   | some (m, k) => [.pair p.cw.mksel.toNat m k]
   | none => [])
/-- A vector register with an uncorrectable error that the part reads (R184). -/
def Core.badVreg (k : Core) (x o : Nat) (p : Part) : Bool :=
  (sources o p).any (fun d => match d with
    | .vreg n => k.poisoned.contains (.vreg, (k.ctx x).vbase + n.toNat)
    | _ => false)
/-- Pieces of a part (R179). -/
def piecesOf (o : Nat) (p : Part) : Nat := container o p / partWidth p
/-- What a start counts (R184, R195, R206, R207): the waits of a tile part for its banks in VUBANKAC and in SPCONF. A part that is void
or takes a slot fault as it starts counts in none of these (log 49). -/
def countStart (o : Nat) (p : Part) (t : Nat) (k : Core) : Core :=
  let n := piecesOf o p
  let k := if isTile o p then (k.incAc t 0xA7).bankWait else k
  if p.slot = .xb then k.inc 0xA8 (.ofNat 64 n)
  else
    let k := (k.inc 0xA0 1).inc 0xA1 (BitVec.ofNat 64 (groupsOf p * n) + acOf t 0xA1)
    let el := container o p / 64
    let muls := if o = 0x303 ∨ o = 0x304 then el else if o = 0x305 ∨ o = 0x306 then el / 2 else 0
    if o = 0x307 then k.inc 0xAB (.ofNat 64 (if isTile o p then 2 * n else n)) else k.inc 0xAA (.ofNat 64 muls)
/-- A part starts: it takes its sources, and its writes are in place at VECTOR_PART_COMPLETE; or it waits, is void, or takes
a slot fault. What its queue sources bring comes before an error in a vector register it reads; the spec does not order the two
(R66, R184; log 45). -/
def vecStart (core t : Nat) (fl : Flight) (op : VIn → VRes) (k : Core) : Core :=
  match view fl.i with
  | .op o p =>
    let x := fl.iss.ctx
    let n := partNo fl.i
    match fetchTiles k fl.iss.redo x n (fl.iss.readsOf n) with
    | .wait => { k with vparts := k.vparts ++ [⟨fl, true, []⟩] }
    | .trap tr => k.faultPart core fl tr
    | .void => k.voidPart core fl
    | .ok tiles =>
      if k.badVreg x o p then k.faultPart core fl ⟨cSOFTERR, n, true, 2 * 2 ^ 16, 0⟩
      else
        let r := op (vecIn k fl.iss o p tiles)
        let ws := vecWrites (k.ctx x).vbase n p (fl.iss.destsOf n) r
        countStart o p t { k with vparts := k.vparts ++ [⟨fl, false, ws⟩] }
  | _ => k
/-- The effect of a vector or crossbar part: a split VB waits for its lane groups (R180). -/
def vecEff (i : Instr) (op : VIn → VRes) : Eff := fun s b m =>
  m.upd m.focusCore (fun k =>
    if b.split = true ∧ partNo i = 3 then Core.inc { k with vparts := k.vparts ++ [⟨⟨i, b⟩, true, []⟩] } 0xA2 1
    else vecStart m.focusCore s.mach.tick ⟨i, b⟩ op k)

/-! ### The instructions -/

/-- VADD (R185). -/
def execVadd (p : Part) (s : State) : Out := runPart (.vadd p) (vecEff (.vadd p) vintOp) s
/-- VSUB (R185). -/
def execVsub (p : Part) (s : State) : Out := runPart (.vsub p) (vecEff (.vsub p) vintOp) s
/-- VMUL (R185). -/
def execVmul (p : Part) (s : State) : Out := runPart (.vmul p) (vecEff (.vmul p) vintOp) s
/-- VMULHS (R185). -/
def execVmulhs (p : Part) (s : State) : Out := runPart (.vmulhs p) (vecEff (.vmulhs p) vintOp) s
/-- VMULHU (R185). -/
def execVmulhu (p : Part) (s : State) : Out := runPart (.vmulhu p) (vecEff (.vmulhu p) vintOp) s
/-- VMIN (R185). -/
def execVmin (p : Part) (s : State) : Out := runPart (.vmin p) (vecEff (.vmin p) vintOp) s
/-- VMAX (R185). -/
def execVmax (p : Part) (s : State) : Out := runPart (.vmax p) (vecEff (.vmax p) vintOp) s
/-- VMINU (R185). -/
def execVminu (p : Part) (s : State) : Out := runPart (.vminu p) (vecEff (.vminu p) vintOp) s
/-- VMAXU (R185). -/
def execVmaxu (p : Part) (s : State) : Out := runPart (.vmaxu p) (vecEff (.vmaxu p) vintOp) s
/-- VAND (R185). -/
def execVand (p : Part) (s : State) : Out := runPart (.vand p) (vecEff (.vand p) vintOp) s
/-- VOR (R185). -/
def execVor (p : Part) (s : State) : Out := runPart (.vor p) (vecEff (.vor p) vintOp) s
/-- VXOR (R185). -/
def execVxor (p : Part) (s : State) : Out := runPart (.vxor p) (vecEff (.vxor p) vintOp) s
/-- VSHL (R185). -/
def execVshl (p : Part) (s : State) : Out := runPart (.vshl p) (vecEff (.vshl p) vintOp) s
/-- VSHRL (R185). -/
def execVshrl (p : Part) (s : State) : Out := runPart (.vshrl p) (vecEff (.vshrl p) vintOp) s
/-- VSHRA (R185). -/
def execVshra (p : Part) (s : State) : Out := runPart (.vshra p) (vecEff (.vshra p) vintOp) s
/-- VABS (R185). -/
def execVabs (p : Part) (s : State) : Out := runPart (.vabs p) (vecEff (.vabs p) vintOp) s
/-- VNEG (R185). -/
def execVneg (p : Part) (s : State) : Out := runPart (.vneg p) (vecEff (.vneg p) vintOp) s
/-- VMOV (R185). -/
def execVmov (p : Part) (s : State) : Out := runPart (.vmov p) (vecEff (.vmov p) vintOp) s
/-- VSEL (R185). -/
def execVsel (p : Part) (s : State) : Out := runPart (.vsel p) (vecEff (.vsel p) vintOp) s
/-- VMAD (R185). -/
def execVmad (p : Part) (s : State) : Out := runPart (.vmad p) (vecEff (.vmad p) vintOp) s
/-- VCMPEQ (R186). -/
def execVcmpeq (p : Part) (s : State) : Out := runPart (.vcmpeq p) (vecEff (.vcmpeq p) vcmpOp) s
/-- VCMPNE (R186). -/
def execVcmpne (p : Part) (s : State) : Out := runPart (.vcmpne p) (vecEff (.vcmpne p) vcmpOp) s
/-- VCMPLT (R186). -/
def execVcmplt (p : Part) (s : State) : Out := runPart (.vcmplt p) (vecEff (.vcmplt p) vcmpOp) s
/-- VCMPLTU (R186). -/
def execVcmpltu (p : Part) (s : State) : Out := runPart (.vcmpltu p) (vecEff (.vcmpltu p) vcmpOp) s
/-- VCMPLE (R186). -/
def execVcmple (p : Part) (s : State) : Out := runPart (.vcmple p) (vecEff (.vcmple p) vcmpOp) s
/-- VCMPLEU (R186). -/
def execVcmpleu (p : Part) (s : State) : Out := runPart (.vcmpleu p) (vecEff (.vcmpleu p) vcmpOp) s
/-- VREDADD (R187). -/
def execVredadd (p : Part) (s : State) : Out := runPart (.vredadd p) (vecEff (.vredadd p) vredOp) s
/-- VREDMIN (R187). -/
def execVredmin (p : Part) (s : State) : Out := runPart (.vredmin p) (vecEff (.vredmin p) vredOp) s
/-- VREDMAX (R187). -/
def execVredmax (p : Part) (s : State) : Out := runPart (.vredmax p) (vecEff (.vredmax p) vredOp) s
/-- VREDMINU (R187). -/
def execVredminu (p : Part) (s : State) : Out := runPart (.vredminu p) (vecEff (.vredminu p) vredOp) s
/-- VREDMAXU (R187). -/
def execVredmaxu (p : Part) (s : State) : Out := runPart (.vredmaxu p) (vecEff (.vredmaxu p) vredOp) s
/-- VCOMPACT (R188). -/
def execVcompact (p : Part) (s : State) : Out := runPart (.vcompact p) (vecEff (.vcompact p) vmaskOp) s
/-- VEXPAND (R188). -/
def execVexpand (p : Part) (s : State) : Out := runPart (.vexpand p) (vecEff (.vexpand p) vmaskOp) s
/-- VMASKCNT (R188). -/
def execVmaskcnt (p : Part) (s : State) : Out := runPart (.vmaskcnt p) (vecEff (.vmaskcnt p) vmaskOp) s
/-- VIOTA (R188). -/
def execViota (p : Part) (s : State) : Out := runPart (.viota p) (vecEff (.viota p) vmaskOp) s
/-- VREQ (R191). -/
def execVreq (p : Part) (s : State) : Out := runPart (.vreq p) (vecEff (.vreq p) vreqOp) s
/-- VREQ8 (R191). -/
def execVreq8 (p : Part) (s : State) : Out := runPart (.vreq8 p) (vecEff (.vreq8 p) vreqOp) s

end Sys2Proof.Machine
end

