-- ==== Sys2Proof/Machine/VFloat.lean ====
section
/-! DEFINITION. Float operations of the lanes (R186, R187, R189), conversion and rounding (R190), VFREQ (R191) and the
approximations (R192). -/
namespace Sys2Proof.Machine
open Sys2Proof

/-- The value of element `i` of source `s`. -/
def VIn.val (v : VIn) (s i : Nat) : Val := valueOf (v.at s i) v.f 0
/-- A value rounded into the element type. -/
def VIn.round (v : VIn) (x : Val) : Nat := roundVal x v.f v.rnd v.sat v.dscale

/-! ### Arithmetic and compares -/

/-- v of R189 for one element. -/
def vfloatElem (v : VIn) (i : Nat) : Val :=
  let a := v.val 0 i
  let b := v.val 1 i
  let c := v.val 2 i
  match v.o with
  | 0x201 => a.add b v.rnd
  | 0x202 => a.add b.neg v.rnd
  | 0x203 => a.mul b
  | 0x204 => (a.mul b).add c v.rnd
  | 0x205 => (a.mul b).add c.neg v.rnd
  | 0x206 => (a.mul b).neg.add c v.rnd
  | 0x207 => valMin a b
  | 0x208 => valMax a b
  | 0x209 => a.abs
  | _ => a.neg
/-- VFADD to VFNEG (R189). -/
def vfloatOp (v : VIn) : VRes := v.each (fun i => v.round (vfloatElem v i))
/-- VFCMPEQ to VFCMPUN (R186). -/
def vfcmpOp (v : VIn) : VRes := v.mask (fun i => floatCmp (v.o - 0x220) (v.val 0 i) (v.val 1 i))

/-! ### Reductions (R187) -/

/-- Add of R187: a sum rounded into FP32. -/
def fpAdd (rnd : Rnd) (sat : Bool) (a b : Val) : Val := ofFp32 (toFp32 (a.add b rnd) rnd sat)
/-- One level of the tree over a piece. -/
def foldPairs {α : Type} (g : α → α → α) : List α → List α
  | a :: b :: t => g a b :: foldPairs g t
  | l => l
/-- The levels, until one value is left. -/
def treeSum {α : Type} (d : α) (g : α → α → α) : Nat → List α → α
  | 0, l => l.headD d
  | f + 1, l => if l.length ≤ 1 then l.headD d else treeSum d g f (foldPairs g l)
/-- VFREDADD. -/
def vfSum (v : VIn) : Val :=
  let n := v.w / v.e
  let g := fpAdd v.rnd v.sat
  let piece := fun (j : Nat) => treeSum Val.nan g 7 ((List.range n).map (fun k => v.val 0 (j * n + k)))
  let acc := (List.range (v.c / v.w - 1)).foldl (fun a j => g a (piece (j + 1))) (piece 0)
  if v.p.cw.src2 = Desc.zero then acc else g acc (v.val 1 0)
/-- VFREDADD, VFREDMIN, VFREDMAX. -/
def vfredOp (v : VIn) : VRes :=
  let vals := v.values.map (fun x => valueOf x v.f 0)
  v.reduced false (v.round (match v.o with
    | 0x230 => vfSum v
    | 0x231 => vals.foldl valMin .nan
    | _ => vals.foldl valMax .nan))

/-! ### Conversion (R190, R191) -/

/-- One element converted from format `sf` with scale `sb` to format `f` with scale `db` (R190); a residue stays as it is (R141, R218). -/
def cvtElem (sf f : Fmt) (sb db : Int) (rnd : Rnd) (sat : Bool) (x : Nat) : Nat :=
  if f = .mod64 ∧ sf = .mod64 then x % 2 ^ 64
  else if f.isInt ∧ sf.isInt then roundInt (if sf = .uint8 then (x : Int) else sext x sf.width) f sat
  else
    let y := valueOf x sf sb
    if f.isInt then cvtToInt y f rnd else roundVal y f rnd sat db
/-- VCVT. -/
def vcvtOp (v : VIn) : VRes :=
  let es := v.c / v.sfmt.width
  let ed := v.n
  let part := v.p.cw.aux.toNat / 16
  v.each (fun i =>
    let j := part * ed + i
    if j ≥ es then 0
    else
      cvtElem v.sfmt v.f v.sscale v.dscale v.rnd v.sat ((srcAt v.srcs 0).elem j v.sfmt.width))
/-- VFROUND: to an integer in the element type, a zero result keeping the sign. -/
def vfroundOp (v : VIn) : VRes :=
  v.each (fun i => match v.val 0 i with
    | .fin q =>
      let n := roundToInteger q v.rnd
      roundVal (Val.ofQ (Q.ofInt n) q.isNeg) v.f .rne false 0
    | x => roundVal x v.f .rne false 0)
/-- VFREQ: FP32 sources, an offset of +0 where SRC3 is left out. -/
def vfreqOp (v : VIn) : VRes :=
  let x := fun (s i : Nat) => ofFp32 ((srcAt v.srcs s).elem i 32)
  v.narrow 32 (fun i =>
    let o := if v.p.cw.src3 = Desc.zero then Val.zero false else x 2 i
    let y := ((x 0 i).mul (x 1 i)).add o v.rnd
    if v.f.isInt then cvtToInt y v.f v.rnd else v.round y)

/-! ### Special functions (R192) -/

/-- VRCP to VEXP2. -/
def vspecOp (v : VIn) : VRes :=
  v.each (fun i => match v.o with
    | 0x250 => rcpApprox (v.at 0 i)
    | 0x251 => rsqApprox (v.at 0 i)
    | 0x252 => rcpStep (v.at 0 i) (v.at 1 i)
    | 0x253 => rsqStep (v.at 0 i) (v.at 1 i)
    | _ => exp2Approx (v.at 0 i))

/-! ### The instructions -/

/-- VFADD (R189). -/
def execVfadd (p : Part) (s : State) : Out := runPart (.vfadd p) (vecEff (.vfadd p) vfloatOp) s
/-- VFSUB (R189). -/
def execVfsub (p : Part) (s : State) : Out := runPart (.vfsub p) (vecEff (.vfsub p) vfloatOp) s
/-- VFMUL (R189). -/
def execVfmul (p : Part) (s : State) : Out := runPart (.vfmul p) (vecEff (.vfmul p) vfloatOp) s
/-- VFMA (R189). -/
def execVfma (p : Part) (s : State) : Out := runPart (.vfma p) (vecEff (.vfma p) vfloatOp) s
/-- VFMS (R189). -/
def execVfms (p : Part) (s : State) : Out := runPart (.vfms p) (vecEff (.vfms p) vfloatOp) s
/-- VFNMA (R189). -/
def execVfnma (p : Part) (s : State) : Out := runPart (.vfnma p) (vecEff (.vfnma p) vfloatOp) s
/-- VFMIN (R189). -/
def execVfmin (p : Part) (s : State) : Out := runPart (.vfmin p) (vecEff (.vfmin p) vfloatOp) s
/-- VFMAX (R189). -/
def execVfmax (p : Part) (s : State) : Out := runPart (.vfmax p) (vecEff (.vfmax p) vfloatOp) s
/-- VFABS (R189). -/
def execVfabs (p : Part) (s : State) : Out := runPart (.vfabs p) (vecEff (.vfabs p) vfloatOp) s
/-- VFNEG (R189). -/
def execVfneg (p : Part) (s : State) : Out := runPart (.vfneg p) (vecEff (.vfneg p) vfloatOp) s
/-- VFCMPEQ (R186). -/
def execVfcmpeq (p : Part) (s : State) : Out := runPart (.vfcmpeq p) (vecEff (.vfcmpeq p) vfcmpOp) s
/-- VFCMPLT (R186). -/
def execVfcmplt (p : Part) (s : State) : Out := runPart (.vfcmplt p) (vecEff (.vfcmplt p) vfcmpOp) s
/-- VFCMPLE (R186). -/
def execVfcmple (p : Part) (s : State) : Out := runPart (.vfcmple p) (vecEff (.vfcmple p) vfcmpOp) s
/-- VFCMPUN (R186). -/
def execVfcmpun (p : Part) (s : State) : Out := runPart (.vfcmpun p) (vecEff (.vfcmpun p) vfcmpOp) s
/-- VFREDADD (R187). -/
def execVfredadd (p : Part) (s : State) : Out := runPart (.vfredadd p) (vecEff (.vfredadd p) vfredOp) s
/-- VFREDMIN (R187). -/
def execVfredmin (p : Part) (s : State) : Out := runPart (.vfredmin p) (vecEff (.vfredmin p) vfredOp) s
/-- VFREDMAX (R187). -/
def execVfredmax (p : Part) (s : State) : Out := runPart (.vfredmax p) (vecEff (.vfredmax p) vfredOp) s
/-- VCVT (R190). -/
def execVcvt (p : Part) (s : State) : Out := runPart (.vcvt p) (vecEff (.vcvt p) vcvtOp) s
/-- VFROUND (R190). -/
def execVfround (p : Part) (s : State) : Out := runPart (.vfround p) (vecEff (.vfround p) vfroundOp) s
/-- VFREQ (R191). -/
def execVfreq (p : Part) (s : State) : Out := runPart (.vfreq p) (vecEff (.vfreq p) vfreqOp) s
/-- VRCP (R192). -/
def execVrcp (p : Part) (s : State) : Out := runPart (.vrcp p) (vecEff (.vrcp p) vspecOp) s
/-- VRSQ (R192). -/
def execVrsq (p : Part) (s : State) : Out := runPart (.vrsq p) (vecEff (.vrsq p) vspecOp) s
/-- VRCPS (R192). -/
def execVrcps (p : Part) (s : State) : Out := runPart (.vrcps p) (vecEff (.vrcps p) vspecOp) s
/-- VRSQS (R192). -/
def execVrsqs (p : Part) (s : State) : Out := runPart (.vrsqs p) (vecEff (.vrsqs p) vspecOp) s
/-- VEXP2 (R192). -/
def execVexp2 (p : Part) (s : State) : Out := runPart (.vexp2 p) (vecEff (.vexp2 p) vspecOp) s

end Sys2Proof.Machine
end

