-- ==== Sys2Proof/Machine/Copies.lean ====
section
/-! DEFINITION. The copy engine (R208 to R223): the copies, how they start and land, their faults with parking, replay and
decline (R318), and the code overlay (R346). CPCOLL's collective stands apart. -/
namespace Sys2Proof.Machine
open Sys2Proof

/-! ### The copies -/

/-- A copy as it enters the command queue. -/
def newCopy (f : Flight) : Copy :=
  ⟨f, false, f.iss.seq, cpBarOf f, if arOf f.i then f.iss.abr else none, none, false, false, none, [], (cpIn f).bytes, false, none⟩
/-- A CP part issues: the copy enters the command queue (R209, R229). -/
def copyStart (i : Instr) : Eff := onFocus (fun _ b k =>
  let f : Flight := ⟨i, b⟩
  Core.inc { k with cq := k.cq ++ [newCopy f] } 0xB2 1)
/-- CPLIN (R212, R213). -/
def execCplin (p : Cp) (s : State) : Out := runPart (.cplin p) (copyStart (.cplin p)) s
/-- CPLIN.code (R346). -/
def execCplinCode (p : Cp) (s : State) : Out := runPart (.cplinCode p) (copyStart (.cplinCode p)) s
/-- CPSTR (R213). -/
def execCpstr (p : Cp) (s : State) : Out := runPart (.cpstr p) (copyStart (.cpstr p)) s
/-- CPGATH (R214). -/
def execCpgath (p : Cp) (s : State) : Out := runPart (.cpgath p) (copyStart (.cpgath p)) s
/-- CPCONV (R215). -/
def execCpconv (p : Cp) (s : State) : Out := runPart (.cpconv p) (copyStart (.cpconv p)) s
/-- CPVER (R217). -/
def execCpver (p : Cp) (s : State) : Out := runPart (.cpver p) (copyStart (.cpver p)) s
/-- CPCOMP (R216). -/
def execCpcomp (p : Cp) (s : State) : Out := runPart (.cpcomp p) (copyStart (.cpcomp p)) s
/-- CPST (R212). -/
def execCpst (p : Cp) (s : State) : Out := runPart (.cpst p) (copyStart (.cpst p)) s
/-- CPSTS (R213). -/
def execCpsts (p : Cp) (s : State) : Out := runPart (.cpsts p) (copyStart (.cpsts p)) s
/-- CPBANK (R218). -/
def execCpbank (p : Cp) (s : State) : Out := runPart (.cpbank p) (copyStart (.cpbank p)) s
/-- CPWB (R219). -/
def execCpwb (p : Cp) (s : State) : Out := runPart (.cpwb p) (copyStart (.cpwb p)) s
/-- CPDISC (R219). -/
def execCpdisc (p : Cp) (s : State) : Out := runPart (.cpdisc p) (copyStart (.cpdisc p)) s
/-- CPPREF (R219). -/
def execCppref (p : Cp) (s : State) : Out := runPart (.cppref p) (copyStart (.cppref p)) s
/-- CPCOLL (R220). -/
def execCpcoll (p : Cp) (s : State) : Out := runPart (.cpcoll p) (copyStart (.cpcoll p)) s

/-! ### What an inbound copy reads -/

/-- A piece of a tile: bytes of memory, or bytes the engine writes itself. -/
inductive Cell where
  | mem (va n : Nat)
  | fill (bs : List Byte)
  deriving DecidableEq, Repr

/-- A convolution descriptor (R215). -/
structure Conv where
  w0 : Nat
  w1 : Nat
  w2 : Nat
  w3 : Nat
  rest : Nat
  deriving DecidableEq, Repr
def Conv.ofBytes (bs : List Byte) : Conv :=
  let w := fun i => leNat ((bs.drop (8 * i)).take 8)
  ⟨w 0, w 1, w 2, w 3, leNat (bs.drop 32)⟩
/-- N, H, W, C; KH, KW, SY, SX, DY, DX, PADT, PADL. -/
def Conv.dim (d : Conv) (i : Nat) : Nat := elemAt d.w0 i 16
def Conv.par (d : Conv) (i : Nat) : Nat := elemAt d.w1 i 8
def Conv.oh (d : Conv) : Nat := bitsOf d.w2 15 0
def Conv.ow (d : Conv) : Nat := bitsOf d.w2 31 16
def Conv.esize (d : Conv) : Nat := bitsOf d.w2 33 32
def Conv.padval (d : Conv) : Nat := bitsOf d.w3 31 0
/-- A field outside its limits, or a reserved bit (R215). -/
def Conv.bad (d : Conv) : Bool :=
  (List.range 4).any (fun i => d.dim i == 0) || (List.range 6).any (fun i => d.par i == 0) ||
  decide (d.oh = 0 ∨ d.ow = 0 ∨ d.esize > 2 ∨ d.w2 ≥ 2 ^ 34 ∨ d.w3 ≥ 2 ^ 32 ∨ d.padval ≥ 2 ^ (8 * 2 ^ d.esize) ∨
    d.rest ≠ 0)
/-- Element `c` of row `r` of a patch tile: zero past the patch, PADVAL outside the image, else an address (R215). -/
def Conv.elem (d : Conv) (base p0 k0 r c : Nat) : Option (Option Nat) :=
  let p := p0 + r
  let k := k0 + c
  if k ≥ d.par 0 * d.par 1 * d.dim 3 then none
  else
    let n := p / (d.oh * d.ow)
    let oy := p / d.ow % d.oh
    let ox := p % d.ow
    let ky := k / (d.par 1 * d.dim 3)
    let kx := k / d.dim 3 % d.par 1
    let iy : Int := ((oy * d.par 2 + ky * d.par 4 : Nat) : Int) - (d.par 6 : Int)
    let ix : Int := ((ox * d.par 3 + kx * d.par 5 : Nat) : Int) - (d.par 7 : Int)
    if n ≥ d.dim 0 ∨ iy < 0 ∨ iy ≥ (d.dim 1 : Int) ∨ ix < 0 ∨ ix ≥ (d.dim 2 : Int) then some none
    else some (some ((base + (((n * d.dim 1 + iy.toNat) * d.dim 2 + ix.toNat) * d.dim 3 + k % d.dim 3) * 2 ^ d.esize)
      % 2 ^ 64))
/-- The cells of a patch tile, in order. -/
def Conv.grid (d : Conv) (base x : Nat) : List (Option (Option Nat)) :=
  (List.range 32).flatMap (fun r => (List.range (128 / 2 ^ d.esize)).map (fun c =>
    d.elem base (bitsOf x 31 0) (bitsOf x 63 32) r c))
/-- Gather elements: runs of consecutive in-range elements of one row within one 64-byte granule (R215). The granules are those of
the device's addresses: DESIGN CHOICE, the spec does not say where they are counted from (log 49). -/
def granuleRuns : Option Nat → List (Option (Option Nat)) → Nat
  | _, [] => 0
  | g, some (some a) :: t => (if g = some (a / 64) then 0 else 1) + granuleRuns (some (a / 64)) t
  | _, _ :: t => granuleRuns none t
def Conv.runs (d : Conv) (base x : Nat) : Nat :=
  let cols := 128 / 2 ^ d.esize
  ((List.range 32).map (fun r => granuleRuns none (((d.grid base x).drop (r * cols)).take cols))).sum

/-- What a copy reads before it knows its pieces: the index array of CPGATH, the descriptor of CPCONV. -/
def CpIn.head (i : CpIn) : List (Nat × Nat) :=
  if i.op = 3 then [(i.x, 4 * (i.n / 4 % 8192))] else if i.op = 4 then [(i.n, 64)] else []
/-- The pieces of an inbound copy in tile order, how many elements were out of range, how many gather elements it takes; or
the code of the slot fault of a bad descriptor, or of an image base that is no multiple of the element size it gives (R212 to R216;
log 36). -/
def CpIn.cells (i : CpIn) (head : List Byte) : Except Nat (List Cell × Nat × Nat) :=
  match i.op with
  | 2 => .ok ((List.range i.rows).map (fun j => .mem (strideAddr i.a j (sext i.x 64)) i.rowb), 0, 0)
  | 3 =>
    let e : Nat := 2 ^ (i.n % 4)
    let cnt := i.n / 4 % 8192
    .ok ((List.range cnt).map (fun j => .mem (strideAddr i.a 1 (sext (leNat ((head.drop (4 * j)).take 4)) 32 * (e : Int))) e),
      0, cnt)
  | 4 =>
    let d := Conv.ofBytes head
    if d.bad then .error cILLSLOT
    else if i.a % 2 ^ d.esize ≠ 0 then .error cALIGN
    else
      let g := d.grid i.a i.x
      let e := 2 ^ d.esize
      .ok (g.map (fun c => match c with
        | none => .fill (leBytes 0 e)
        | some none => .fill (leBytes d.padval e)
        | some (some a) => .mem a e), g.count (some none), d.runs i.a i.x)
  | 6 =>
    let rows := (List.range 64).filter (fun j => bitAt i.x j)
    let keep := rows.take (4096 / i.n)
    .ok (keep.map (fun j => .mem ((i.a + j * i.n) % 2 ^ 64) i.n), rows.length - keep.length, 0)
  | _ => .ok ([.mem i.a i.n], 0, 0)
def Cell.range (c : Cell) : Option (Nat × Nat) :=
  match c with
  | .mem va n => some (va, n)
  | .fill _ => none

/-- An earlier access of the context to a byte of the ranges is still to be performed (R223), an earlier acquire to read (R237), or a
home die of the ranges does not serve (R348). -/
def rangesHeld (s : State) (core : Nat) (f : Flight) (a : Acc) (rs : List (Nat × Nat)) : Bool :=
  let k := s.mach.core core
  s.sleeps (agentOf core) f.iss.asid rs || k.acquiring f.iss ||
  decide (k.stores ≠ [] ∨ k.atomics ≠ [] ∨ k.loads ≠ []) && rs.any (fun (va, n) => (pageRuns va n).any (fun (v, m) =>
    earlierAccess s core k f.iss (place s core f.iss.asid v a) m))
/-- The cells read in order; bytes that race are free (R223; log 9). -/
def readCells (s : State) (core : Nat) (b : Issue) (a : Acc) : List Cell → Except (Nat × Nat) (List Byte)
  | [] => .ok []
  | .fill bs :: t => (readCells s core b a t).map (bs ++ ·)
  | .mem va n :: t => match readVa s (agentOf core) b.asid va n a with
    | .error e => .error e
    | .ok bs => (readCells s core b a t).map (s.copyRacing core b va bs ++ ·)

/-- What a copy comes to when it runs: it waits; a translation fault; a slot fault; an uncorrectable error in its source; a
void tile; or its data, with the counts of R215 and R216. -/
inductive CpRun where
  | wait
  | fault (va : Nat) (wr : Bool) (reason : Nat)
  | trap (t : Trap)
  | soft (va : Nat)
  | void
  | ok (bs : List Byte) (oor gath : Nat)
  deriving DecidableEq, Repr

/-- An inbound copy's data (R212 to R216, R346). -/
def copyRead (s : State) (core : Nat) (f : Flight) : CpRun :=
  let i := cpIn f
  let asid := f.iss.asid
  let acc := if i.code then accCode else accRead
  match readCells s core f.iss accRead (i.head.map (fun r => .mem r.1 r.2)) with
  | .error (va, r) => .fault va false r
  | .ok hd =>
    if rangesHeld s core f accRead i.head then .wait
    else match softAt s core asid i.head with
      | some va => .soft va
      | none => match i.cells hd with
        | .error code => .trap ⟨code, 6, true, 0, if code = cALIGN then i.a else 0⟩
        | .ok (cs, oor, g) =>
          let rs := cs.filterMap Cell.range
          match readCells s core f.iss acc cs with
          | .error (va, r) => .fault va false r
          | .ok bs =>
            if rangesHeld s core f accRead rs then .wait
            else match softAt s core asid rs with
              | some va => .soft va
              | none => .ok bs oor g

/-- CPBANK's data: the run converted element by element (R218). -/
def bankRead (k : Core) (f : Flight) : CpRun :=
  let i := cpIn f
  let sb := Tab.get 0 f.iss.fmt (i.a / 0x10000 % 16)
  let q := (queueOf i.p.dest).getD 0
  let db := k.queueFmt f.iss.ctx q
  let sf := fmtOf sb
  let df := fmtOf db
  let w := sf.width
  let o := i.a % 0x10000 * 8
  match k.badGranule i.a ((i.n * w + 7) / 8) with
  | some g => .soft g
  | none =>
    if sf = .raw then .ok (k.spBytes i.a i.n) 0 0
    else
      let rnd := (Rnd.ofCode (fld db 14 12)).getD .rne
      let bits := k.spBits (i.a / 0x10000) o (i.n * w)
      let v := packElems df.width ((List.range i.n).map (fun j =>
        cvtElem sf df (biasOf sb) (biasOf db) rnd (flag db 15) (elemAt bits j w)))
      .ok (leBytes v 4096) 0 0

/-- A tile out as the engine finds it (R89, R221). -/
def tileRead (k : Core) (c : Copy) : CpRun :=
  match c.data with
  | some t => .ok (leBytes t.toNat 4096) 0 0
  | none => match fetchTiles k c.fl.iss.redo c.fl.iss.ctx 6 (c.fl.iss.readsOf 6) with
    | .wait => .wait
    | .trap t => .trap t
    | .void => .void
    | .ok ts => .ok (leBytes (ts.headD 0).toNat 4096) 0 0

/-- The bytes of a tile out that an uncorrectable error has struck in its slot (R221). -/
def badOut (k : Core) (c : Copy) : List Nat :=
  match c.data with
  | some _ => c.bad
  | none => (c.fl.iss.readsOf 6).flatMap (fun r => let s := (k.queue c.fl.iss.ctx r.q).slotOf r.pos
      (k.poisoned.filter (fun e => e.1 == .spadBytes && e.2 / 4096 == s)).map (fun e => e.2 % 4096))
/-- The pages on which a range copy acts, each translated as a read; a prefetch skips those without (R219). -/
def rangeRun (s : State) (core : Nat) (f : Flight) : CpRun :=
  let i := cpIn f
  match (if i.op = 12 then none else firstUnmapped s (agentOf core) f.iss.asid i.a i.n accRead) with
  | some (va, r) => .fault va false r
  | none => if rangesHeld s core f accRead [(i.a, i.n)] then .wait else .ok [] 0 0

/-- An outbound copy's tile, once every range it writes has a translation for writing. -/
def writeRun (s : State) (core : Nat) (c : Copy) : CpRun :=
  let i := cpIn c.fl
  match tileRead (s.mach.core core) c with
  | .ok t _ _ =>
    let outs := (i.outs t).map (fun o => (o.1, o.2.length)) ++ (if i.op = 5 then [(i.x, 8)] else [])
    match outs.findSome? (fun (va, n) => firstUnmapped s (agentOf core) c.fl.iss.asid va n accWrite) with
    | some (va, r) => .fault va true r
    | none => if rangesHeld s core c.fl accWrite outs then .wait else .ok t 0 0
  | r => r
/-- What a copy comes to (R221). CPCOLL is not run here. -/
def copyRun (s : State) (core : Nat) (c : Copy) : CpRun :=
  let i := cpIn c.fl
  if i.tileOut then writeRun s core c
  else if i.range then rangeRun s core c.fl
  else if i.op = 9 then bankRead (s.mach.core core) c.fl
  else copyRead s core c.fl

/-! ### Ends of a copy (R221, R318) -/

/-- Copy `idx` leaves the engine. -/
def Core.dropCopy (k : Core) (idx : Nat) : Core := { k with cq := dropNth k.cq idx }
/-- A copy ends: its bytes count, then its part retires (R221). -/
def Core.endCopy (k : Core) (c : Copy) (n : Nat) : Core := (k.landOn c.bar n).retire c.fl
/-- A landing: CPBYTES counts too (R229). -/
def Core.landCopy (k : Core) (c : Copy) (n : Nat) : Core := (k.inc 0xB3 (.ofNat 64 n)).endCopy c n
/-- The positions of a copy. -/
def Copy.dests (c : Copy) : List DestRes := c.fl.iss.destsOf 6
/-- A position of a copy filled; a replay replaces what the fault left there (R318). -/
def Core.putAt (k : Core) (core : Nat) (c : Copy) (d : DestRes) (st : PSt) (t : Tile) : Core :=
  if c.rerun then k.refill core c.fl.iss.ctx d.q d.pos st t c.fl.iss.seq true else k.put core c.fl d st t
/-- Positions of a copy filled alike. -/
def Core.putAll (k : Core) (core : Nat) (c : Copy) (st : PSt) (t : Tile) : Core :=
  c.dests.foldl (fun k d => k.putAt core c d st t) k
/-- A slot fault of a copy: POISON in its positions, at `a`, and the record of its part (R91, R305). -/
def Core.copyTrap (k : Core) (core : Nat) (c : Copy) (t : Trap) (a : Nat) : Core :=
  (k.putAll core c .poison (poisonTile t.code a)).slotFault c.fl none t
/-- May the copy's tiles be written: is each slot's earlier position free (R90, R221)? -/
def Core.canLand (k : Core) (c : Copy) : Bool :=
  c.dests.all (fun d => let q := k.queue c.fl.iss.ctx d.q
    c.fl.iss.redo || c.rerun || decide (q.role = .producer) || !q.alloc || q.canFill d.pos)
/-- The record of a translation fault (R318). -/
def faultRecord (va asid core slot : Nat) (wr : Bool) (reason : Nat) (declined savearea : Bool) : List Byte :=
  leBytes (va % 2 ^ 56) 8 ++
  leBytes (asid % 65536 + core % 1024 * 2 ^ 16 + slot % 8 * 2 ^ 26 + b2n wr * 2 ^ 29 + reason % 4 * 2 ^ 30 +
    b2n declined * 2 ^ 32 + b2n savearea * 2 ^ 33) 8 ++ leBytes 0 16
/-- The fault ring of a port takes a record: it is enabled and not full (R320). -/
def Mach.ringRoom (m : Mach) (port : Nat) : Bool :=
  let r := m.portReg port 0x440
  flag r 4 && decide (4 ≤ fld r 3 0 ∧ fld r 3 0 ≤ 12) &&
  decide ((m.portReg port 0x448 - m.portReg port 0x450).toNat < 2 ^ fld r 3 0)
/-- A record written into the ring, if it has room. -/
def ringWrite (port : Nat) (bs : List Byte) (s : State) : State :=
  if s.mach.ringRoom port then
    let r := s.mach.portReg port 0x440
    let w := s.mach.portReg port 0x448
    let at' := fld r 63 12 * 4096 + 32 * (w.toNat % 2 ^ fld r 3 0)
    { mach := s.mach.setPortReg port 0x448 (w + 1), mem := s.mem.store (2 + port) at' bs }
  else s
/-- The lowest-numbered free replay slot (R318). -/
def Core.freeReplay (k : Core) : Option Nat := (List.range Config.replaySlots).find? (fun i => (Tab.get none k.parked i).isNone)
/-- The positions a copy fills at the far ends of splices, as their cores name them. -/
def Core.awayOf (k : Core) (c : Copy) : List (Nat × Nat × Nat × Nat) :=
  c.dests.filterMap (fun d =>
    let q := k.queue c.fl.iss.ctx d.q
    let a := QAddr.ofWord q.partner.toNat
    if q.role = .producer then some (a.core, a.ctx, a.q, d.pos) else none)
/-- Those positions noted at, or struck from, their cores (R319). -/
def Mach.noteAway (m : Mach) (l : List (Nat × Nat × Nat × Nat)) (on : Bool) : Mach :=
  l.foldl (fun m e => m.upd e.1 (fun k => { k with away := if on then e.2 :: k.away else k.away.erase e.2 })) m
/-- A copy meets a translation fault (R221, R318): POISON in its positions, FAULT on its barrier; it is parked, or declined
at once when no slot or no room in the ring is left. A tile out it has read is kept for the replay; a wait for windows of the slot
table is counted (R211, R229). -/
def copyFault (core idx : Nat) (c : Copy) (va : Nat) (wr : Bool) (reason : Nat) (s : State) : State :=
  let k := (s.mach.core core).dropCopy idx
  let k := if c.port then k.incAc s.mach.tick 0xB8 else k
  let tile := match c.data, tileRead k c with
    | some t, _ => some t
    | none, .ok bs _ _ => if (cpIn c.fl).tileOut then some (BitVec.ofNat 32768 (leNat bs)) else none
    | none, _ => none
  let k := if c.data.isNone ∧ tile.isSome = true then k.endReads c.fl.iss.ctx (c.fl.iss.readsOf 6) else k
  let k := ((k.inc 0xBA 1).putAll core c .poison (poisonTile cXLATE va)).faultOn c.bar va
  let host := Tab.get none s.mach.tenants c.fl.iss.asid
  let room := (host.map s.mach.ringRoom).getD false
  match k.freeReplay, room with
  | some sl, true =>
    let parked : Copy := { c with active := false, port := false, data := tile, bad := badOut (s.mach.core core) c }
    let k := { k with parked := Tab.set none k.parked sl (some parked) }
    ringWrite (host.getD 0) (faultRecord va c.fl.iss.asid core sl wr reason false false)
      { s with mach := ((s.mach.setCore core k).dropPorts core c.seq).noteAway (if c.rerun then [] else k.awayOf c) true }
  | _, _ =>
    let m := ((s.mach.setCore core (k.endCopy c c.total)).dropPorts core c.seq).noteAway (if c.rerun then k.awayOf c else []) false
    match host with
    | some h => ringWrite h (faultRecord va c.fl.iss.asid core 0 wr reason true false) { s with mach := m }
    | none => { s with mach := m }
/-- A parked copy is declined (R318): its positions stay POISON, its bytes count, its AR bit arrives. -/
def Core.declineAt (k : Core) (slot : Nat) : Core :=
  match Tab.get none k.parked slot with
  | none => k
  | some c => Core.endCopy { k with parked := Tab.set none k.parked slot none } c c.total
/-- A parked copy runs again (R318): its fills replace what the fault left. -/
def Core.replayAt (k : Core) (slot : Nat) : Core :=
  match Tab.get none k.parked slot with
  | none => k
  | some c =>
    let c' : Copy := { c with active := false, rerun := true }
    { k with parked := Tab.set none k.parked slot none, cq := k.cq ++ [c'] }
/-- A decline strikes the copy's positions from the targets' cores. A position being replayed stays noted until the tile arrives
there (R319). -/
def Mach.declineAt (m : Mach) (core slot : Nat) : Mach :=
  let k := m.core core
  let l := ((Tab.get none k.parked slot).map k.awayOf).getD []
  (m.setCore core (k.declineAt slot)).noteAway l false

/-! ### Memory effects -/

/-- An outbound copy's rows stored in order under its POLICY (R254); what no port reaches is dropped (R327). -/
def storeOuts (core asid pol : Nat) (outs : List (Nat × List Byte)) (s : State) : State :=
  outs.foldl (fun s o => storeRuns s core asid o.1 o.2 pol) s
/-- The lines that the bytes in error of a tile out are written to carry poison (R221, R310). -/
def poisonOuts (s : State) (core asid : Nat) (bad : List Nat) : Nat → List (Nat × List Byte) → Mem
  | _, [] => s.mem
  | o, (va, bs) :: t =>
    (bad.filter (fun b => decide (o ≤ b ∧ b < o + bs.length))).foldl (fun m b =>
      match translate s (agentOf core) asid ((va + (b - o)) % 2 ^ 64) accWrite with
      | .ok sp ad _ => m.setPoison sp ad true
      | .fail _ => m) (poisonOuts s core asid bad (o + bs.length) t)
/-- A tile out is written (R212, R213, R217, R221). -/
def writeTile (core : Nat) (c : Copy) (t : List Byte) (s : State) : State :=
  let i := cpIn c.fl
  let bad := badOut (s.mach.core core) c
  let s := storeOuts core c.fl.iss.asid i.p.policy.toNat (i.outs t) s
  if bad = [] then s else { s with mem := poisonOuts s core c.fl.iss.asid bad 0 (i.outs t) }
/-- Bytes of the instruction scratchpad written (R346), eight at a time. -/
def Core.writeCode (k : Core) (a : Nat) (bs : List Byte) : Core :=
  { k with ispad := (List.range (bs.length / 8)).foldl (fun t j =>
      Tab.set 0 t (a / 8 + j) (BitVec.ofNat 64 (leNat ((bs.drop (8 * j)).take 8)))) k.ispad }

/-! ### Starting (R208, R211) -/

/-- The copies of a context that have taken a slot fault and are to run again (R92). -/
def Ctx.owedCopies (c : Ctx) : List Flight := (c.owed.map (·.fl)).filter (fun f => decide (partNo f.i = 6))
/-- A copy with SEQ = 01 waits while an earlier copy of its context has not landed: one in the engine, a parked one, one that ERET
is to execute again (R38, R92, R221). -/
def Core.seqWaits (k : Core) (c : Copy) : Bool :=
  let early := fun (d : Copy) => decide (d.fl.iss.ctx = c.fl.iss.ctx ∧ d.seq < c.seq)
  (cpIn c.fl).seq && (k.cq.any early || (List.range 8).any (fun i => ((Tab.get none k.parked i).map early).getD false) ||
    (k.ctx c.fl.iss.ctx).owedCopies.any (fun f => decide (f.iss.seq < c.seq)))
/-- Does a read wait for a position of a frozen target at or beyond its final tail (R98)? -/
def Core.beyond (k : Core) (x : Nat) (r : ReadRes) : Bool :=
  let q := k.queue x r.q
  decide (q.role = .target) && q.frozen && decide (q.dist q.head r.pos ≥ q.dist q.head q.tail)
/-- A copy that a save cancels instead of waiting for it: a collective's, and one whose tile out lies beyond a final tail (R98, R222,
R337). -/
def Core.cancels (k : Core) (c : Copy) : Bool :=
  decide ((cpIn c.fl).op = 13) ||
  ((cpIn c.fl).tileOut && c.data.isNone && (c.fl.iss.readsOf 6).any (k.beyond c.fl.iss.ctx))
/-- May copy `idx` start: at most four are active, and those before it have started or wait for SEQ. A copy that a save under way
cancels holds no place (R222). -/
def Core.copyReady (k : Core) (saving : Bool) (idx : Nat) : Bool :=
  let out := fun (d : Copy) => saving && k.cancels d
  match k.cq[idx]? with
  | none => false
  | some c => !c.active && !out c && decide ((k.cq.filter (fun d => d.active && !out d)).length < Config.activeCopies) &&
      !k.seqWaits c && (k.cq.take idx).all (fun d => d.active || k.seqWaits d || out d)
/-- The descriptor of a CPCOLL as its words, zero where it has no translation (R334). -/
def CpIn.collWords (i : CpIn) (s : State) (core asid : Nat) : List W64 :=
  (List.range 8).map (fun j => BitVec.ofNat 64 (wordVa s (agentOf core) asid (i.a + 8 * j)))
/-- What a copy moves: how, and over which ranges of memory, its index array, descriptor and version word among them (R211, R212,
R335). -/
def CpIn.moves (i : CpIn) (s : State) (core : Nat) (f : Flight) : List (Move × List (Nat × Nat)) :=
  let rd := Move.read i.p.policy.toNat
  if i.op = 9 ∨ i.op = 11 then []
  else if i.op = 10 then [(.back, [(i.a, i.n)])]
  else if i.op = 12 then [(.read 0, [(i.a, i.n)])]
  else if i.tileOut then (if i.op = 5 then [(rd, [(i.x, 8)])] else []) ++
    [(.write, (i.outs (leBytes 0 4096)).map (fun o => (o.1, o.2.length)))]
  else if i.op = 13 then
    let d := i.collWords s core f.iss.asid
    let n := ((s.mach.core core).ctx f.iss.ctx).memberCount (dLevel d)
    if dBad d n then [(rd, [(i.a, 64)])]
    else [(rd, [(i.a, 64), (dSrc d, dLen d)]), (.write, if dDst d = 0 then [] else [(dDst d, dResult d n)])]
  else [(rd, i.head ++ (match readCells s core f.iss accRead (i.head.map (fun r => .mem r.1 r.2)) with
    | .ok hd => (match i.cells hd with
      | .ok c => c.1.filterMap Cell.range
      | .error _ => [])
    | .error _ => []))]
/-- The ranges that a copy reads. -/
def CpIn.reads (i : CpIn) (s : State) (core : Nat) (f : Flight) : List (Nat × Nat) :=
  (i.moves s core f).flatMap (fun e => match e.1 with
    | .read _ => e.2
    | _ => [])

/-- The agents of the die take up the translations of a copy's ranges (R316). -/
def noteRanges (s : State) (core asid : Nat) (rs : List (Nat × Nat)) (m : Mach) : Mach :=
  rs.foldl (fun m r => (pageRuns r.1 r.2).foldl (fun m q => noteTlb s (agentOf core) asid q.1 m) m) m
/-- COPY_START (R208, R211): a copy becomes active and makes its requests at the ports. One that meets a translation fault
is parked or declined (R318). -/
def copyBegin (core idx : Nat) (c : Copy) (s : State) : State :=
  let i := cpIn c.fl
  let t := s.mach.tick
  match (if i.op = 13 then .wait else copyRun s core c) with
  | .fault va wr r => copyFault core idx c va wr r (if i.seq then s.onCore core (fun k => k.incAc t 0xB7) else s)
  | _ =>
    let mv := i.moves s core c.fl
    let reqs := mv.flatMap (fun e => portNeeds s core c.fl.iss.asid core c.seq false e.1 e.2)
    let waits := i.tileOut && decide (tileRead (s.mach.core core) c = .wait)
    let k := s.mach.core core
    let k := { k with cq := setNth k.cq idx { c with active := true, port := decide (reqs ≠ []) } }
    let k := if i.seq then k.incAc t 0xB7 else k
    let k := if waits then (k.incAc t 0xB4).upd c.fl.iss.ctx (fun x =>
      (c.fl.iss.readsOf 6).foldl (fun x r => x.incAc t (0x68 + r.q)) x) else k
    let m := noteRanges s core c.fl.iss.asid (mv.flatMap (·.2)) (s.mach.setCore core k)
    { s with mach := { m with portReqs := m.portReqs ++ reqs } }

/-! ### Landing (R221) -/

/-- What ends every landing: the copy leaves the engine and the ports; its waits for windows of the slot table, and a tile's for its
bank, are counted (R115, R211, R229). -/
def leaveEngine (core idx : Nat) (c : Copy) (f : Core → Core) (s : State) : State :=
  let k' := (s.mach.core core).dropCopy idx
  let k' := if c.port then k'.incAc s.mach.tick 0xB8 else k'
  let k' := if (cpIn c.fl).range then k' else k'.bankWait
  { s with mach := (s.mach.setCore core (f k')).dropPorts core c.seq }
/-- A CPBANK notes the guard granules its run touches (R118, R218). -/
def Core.noteRun (k : Core) (c : Copy) : Core :=
  let i := cpIn c.fl
  let n := (i.n * (fmtOf (Tab.get 0 c.fl.iss.fmt (i.a / 0x10000 % 16))).width + 7) / 8
  if i.op = 9 then k.noteGuard c.fl.iss.ctx i.a n false else k
/-- An error in the source of a copy (R221, R327): POISON in its positions with the record of R91, its bytes count. What a
code overlay brings from such a line is not stated and is free (log 6). Out-of-range and gather elements are not counted: DESIGN
CHOICE, the spec does not say (log 49). -/
def landSoft (core idx : Nat) (c : Copy) (va : Nat) (s : State) : State :=
  let i := cpIn c.fl
  let junk := leBytes (Config.freeTile s.mach.tick).toNat i.n
  let s' := leaveEngine core idx c (fun k =>
    ((if i.code then k.writeCode i.e junk else k.noteRun c).putAll core c .poison (poisonTile cSOFTERR va)).landCopy c c.total) s
  if i.op = 9 then s' else s'.noteLostAt core c.fl.iss.asid va
/-- The counts of a gather (R214 to R216): of a copy that was parked, its replay's landing counts them. -/
def Core.countGather (k : Core) (c : Copy) (oor g : Nat) : Core := (k.inc 0xB9 (.ofNat 64 g)).outOfRange c.bar oor
/-- What a range copy does to the lines of its range (R219): CPWB writes back, with SPEC[0] and invalidates; CPDISC drops; CPPREF
fills a tier. -/
def CpIn.onLines (i : CpIn) (t : Nat) (rs : List (Nat × Nat)) (m : Mem) : Mem :=
  if i.op = 10 then (m.writeBack (decide (i.p.spec.toNat % 2 = 1)) rs).mirror rs
  else if i.op = 11 then m.discard t rs
  else m.fillRuns (decide (i.p.spec.toNat % 4 = 1)) false rs
/-- A copy with its data lands. -/
def landData (core idx : Nat) (c : Copy) (bs : List Byte) (oor g : Nat) (s : State) : State :=
  let i := cpIn c.fl
  let x := c.fl.iss.ctx
  let asid := c.fl.iss.asid
  let done := fun (k : Core) => k.landCopy c i.bytes
  if i.code then leaveEngine core idx c (fun k => done (k.writeCode i.e bs)) (s.reads core asid i.p.policy.toNat [(i.a, i.n)])
  else if i.range then
    leaveEngine core idx c done { s with mem := i.onLines s.mach.tick (rangeLines s core asid i.a i.n) s.mem }
  else if i.tileOut then
    let s := writeTile core c bs s
    leaveEngine core idx c (fun k => done (if c.data.isSome then k else k.endReads x (c.fl.iss.readsOf 6))) s
  else
    let t := BitVec.ofNat 32768 (leNat bs)
    leaveEngine core idx c (fun k => done (((k.noteRun c).countGather c oor g).putAll core c .present t))
      (s.reads core asid i.p.policy.toNat (i.reads s core c.fl))
/-- A copy that runs comes to one of its ends; CPVER's commit is a step of its own. -/
def copyEnd (core idx : Nat) (c : Copy) (s : State) : Option State :=
  let i := cpIn c.fl
  let n := i.bytes
  match copyRun s core c with
  | .wait => none
  | .fault va wr r => some (copyFault core idx c va wr r s)
  | .trap t => some (leaveEngine core idx c (fun k => k.copyTrap core c t t.eaddr) s)
  | .void => some (leaveEngine core idx c (fun k => ((k.inc 0xB3 (.ofNat 64 n)).landOn c.bar n).voidPart core c.fl) s)
  | .soft va => if (s.mach.core core).canLand c then some (landSoft core idx c va s) else none
  | .ok bs oor g =>
    if i.op = 5 ∨ (s.mach.core core).canLand c = false then none else some (landData core idx c bs oor g s)

/-- CPVER_COMMIT (R217): the version word is read, compared and, if it holds the expected value, the tile and the word are
written, indivisibly. A version word in a poisoned line, or that no port reaches, is not seen to hold it. -/
def verCommit (core idx : Nat) (c : Copy) (s : State) : Option State :=
  let i := cpIn c.fl
  let asid := c.fl.iss.asid
  let ag := agentOf core
  match copyRun s core c with
  | .ok t _ _ =>
    let seen := (softAt s core asid [(i.x, 8)]).isNone
    let hit := seen && decide (wordVa s ag asid i.x = i.n)
    let s := (s.reads core asid i.p.policy.toNat [(i.x, 8)]).noteLostAt core asid i.x
    let s1 := if hit then writeTile core c t s else s
    let s2 := if hit then storeRuns s1 core asid i.x (leBytes (i.n + 1) 8) i.p.policy.toNat else s1
    some (leaveEngine core idx c (fun k =>
      let k := if c.data.isSome then k else k.endReads c.fl.iss.ctx (c.fl.iss.readsOf 6)
      (if hit then k else k.verFail c.bar).landCopy c i.bytes) s2)
  | _ => none
/-- The copy at a place of the engine, active and with its ports drained. -/
def activeCopy (core idx : Nat) (s : State) : Option Copy :=
  match (s.mach.core core).cq[idx]? with
  | some c => if c.active ∧ portsDone s.mach core c.seq = true then some c else none
  | none => none
def cpverCommit (core idx : Nat) (s : State) : Option State :=
  match activeCopy core idx s with
  | some c => if (cpIn c.fl).op = 5 then verCommit core idx c s else none
  | none => none
/-- CPVER_COMMIT. -/
def execCpverCommit (core idx : Nat) (s : State) : Out :=
  if core ≥ 640 then .fault .noSuchUnit else stepState s (cpverCommit core idx s)

end Sys2Proof.Machine
end

