-- ==== Sys2Proof/Machine/Collectives.lean ====
section
/-! DEFINITION. Collectives (R334 to R337) and reduction rounds (R331, R332), with the steps that start and land copies. -/
namespace Sys2Proof.Machine
open Sys2Proof

/-! ### Combining (R331, R335) -/

/-- A value of a format combined with another: 0 adds, 1 takes the lesser, 2 the greater; sums of integers wrap, sums of
floats round to nearest even. -/
def combineElem (f : Fmt) (redop a b : Nat) : Nat :=
  if f.isInt then
    wrapTo (match redop with
      | 0 => sext a f.width + sext b f.width
      | 1 => if sext a f.width < sext b f.width then sext a f.width else sext b f.width
      | _ => if sext a f.width < sext b f.width then sext b f.width else sext a f.width) f.width
  else
    let x := valueOf a f 0
    let y := valueOf b f 0
    roundVal (match redop with
      | 0 => x.add y .rne
      | 1 => valMin x y
      | _ => valMax x y) f .rne false 0
/-- The fixed tree over a list: adjacent pairs, an odd last one going up unchanged (R331). -/
def treeFold (g : Nat → Nat → Nat) (l : List Nat) : Nat := treeSum 0 g l.length l
/-- The fold in the order of the list. -/
def arriveFold (g : Nat → Nat → Nat) : List Nat → Nat
  | [] => 0
  | a :: t => t.foldl g a
/-- A list sorted by a key, equal keys in their order. -/
def insertBy {α : Type} (key : α → Nat) (a : α) : List α → List α
  | [] => [a]
  | b :: t => if key a < key b then a :: b :: t else b :: insertBy key a t
def sortBy {α : Type} (key : α → Nat) (l : List α) : List α := l.foldl (fun t a => insertBy key a t) []

/-! ### The descriptor (R334) -/

/-- The bytes a member counts: its result where it writes one, and its tiles (R335). -/
def dTotal (d : List W64) (m tiles : Nat) : Nat := (if dDst d = 0 then 0 else dResult d m) + 4096 * tiles

/-! ### Members and results (R335, R336) -/

/-- A rank: device number, module core number, context (R331). -/
def rankNo (dev core ctx : Nat) : Nat := (dev * 1024 + core) * 4 + ctx
def CollMember.rank (y : CollMember) : Nat := rankNo y.dev y.core y.ctx
/-- The members in rank order (R331, R335). -/
def Coll.ranked (c : Coll) : List CollMember := sortBy CollMember.rank c.members
/-- The members disagree, or one's descriptor was bad (R336). -/
def Coll.mismatched (c : Coll) : Bool :=
  c.members.any (fun m => m.bad) ||
  c.members.any (fun a => c.members.any (fun b =>
    [0, 3, 4].any (fun i => decide (dWord a.desc i ≠ dWord b.desc i))))
/-- The element-wise combination of every contribution. -/
def Coll.reduced (c : Coll) : List Byte :=
  match c.members with
  | [] => []
  | m0 :: _ =>
    let d := m0.desc
    let f := dFmt d
    let e := f.width / 8
    let g := combineElem f (dRedop d)
    let ms := if dArrival d then c.members else c.ranked
    (List.range (dLen d / e)).flatMap (fun i =>
      let vs := ms.map (fun m => leNat ((m.data.drop (i * e)).take e))
      leBytes (if dArrival d then arriveFold g vs else treeFold g vs) e)
/-- The rank of a member among the members. -/
def Coll.rankOf (c : Coll) (m : CollMember) : Nat := (c.members.filter (fun y => decide (y.rank < m.rank))).length
/-- A member's result. -/
def Coll.result (c : Coll) (m : CollMember) : List Byte :=
  match dOp m.desc with
  | 0 => c.reduced
  | 1 =>
    let n := dLen m.desc / c.count
    (c.reduced.drop (c.rankOf m * n)).take n
  | 2 => c.ranked.flatMap (fun y => y.data)
  | _ => ((c.ranked[dRoot m.desc]?).map (fun y => y.data)).getD []

/-- Does a copy anywhere, running, parked or saved, still belong to the collective? -/
def Core.inColl (k : Core) (id : Nat) : Bool :=
  let of := fun (c : Copy) => (c.coll.map (fun j => j.1 == id)).getD false
  k.cq.any of || (List.range 8).any (fun i => ((Tab.get none k.parked i).map of).getD false)
def Mach.inColl (m : Mach) (id : Nat) : Bool := m.cores.any (fun e => e.2.inColl id) || m.saved.any (fun v => v.core.inColl id)
/-- A member's descriptor was bad, and its launch still runs: the others learn of it, and the member's part, run again, finds that it
has joined (R336, R337). -/
def Mach.collKept (m : Mach) (c : Coll) : Bool :=
  c.members.any (fun y => dBad y.desc c.count && m.launches.any (fun l =>
    decide (y.launch = some l.id ∧ l.stat = .bound ∧ l.status = 0) && !l.ended.contains y.lindex))
/-- Collectives that no member's copy is in any more, whether they are over or their launch was stopped, are forgotten. -/
def Mach.pruneColls (m : Mach) : Mach := { m with colls := m.colls.filter (fun c => m.inColl c.id || m.collKept c) }
/-- The collectives that the sequencer holds: those not over, and those that still owe a result. -/
def Mach.collsHeld (m : Mach) : List Coll := m.colls.filter (fun c => !c.isOver || m.inColl c.id)
/-- The collective of an identifier, and its replacement. -/
def Mach.coll (m : Mach) (id : Nat) : Option Coll := m.colls.find? (fun c => c.id == id)
def Mach.setColl (m : Mach) (c : Coll) : Mach :=
  { m with colls := m.colls.map (fun d => if d.id = c.id then c else d) }
/-- A counter that both port blocks show (R324). -/
def Mach.incBoth (m : Mach) (off : Nat) (d : W64) : Mach := (m.incPort 0 off d).incPort 1 off d

/-! ### Rounds of contributions (R331, R332) -/

/-- The rank of a contribution: device, core, context. -/
def Contrib.rank (c : Contrib) : Nat := rankNo c.dev c.core c.ctx
/-- Two contributions to one location's round. -/
def Contrib.meets (a b : Contrib) : Bool := decide (a.space = b.space ∧ a.addr = b.addr ∧ a.win = b.win)
/-- `⊕` of a window: an opcode of R243 on integers, or FP32 add, min or max (R330). -/
def Contrib.merge (c : Contrib) (x y : Nat) : Nat :=
  if c.fp then combineElem .fp32 (if c.opc = 4 then 1 else if c.opc = 5 then 2 else 0) x y
  else amoValue c.opc (8 * c.len) x y 0
/-- Contributions of a round that agree in the mode, the count, the operation and the width. -/
def Contrib.agrees (a b : Contrib) : Bool :=
  a.ordered == b.ordered && a.fp == b.fp && decide (a.count = b.count ∧ a.opc = b.opc ∧ a.len = b.len)
/-- The merged value of a round; none where its contributions disagree, in their windows or in what they do: R330 leaves it undefined,
or no rule gives it (log 49). -/
def mergedValue (l : List Contrib) : Option Nat :=
  match l with
  | [] => some 0
  | c :: t =>
    if !t.all c.agrees then none else some <|
    if c.ordered then treeFold c.merge ((sortBy Contrib.rank l).map (fun y => y.val.toNat % 2 ^ (8 * c.len)))
    else arriveFold c.merge (l.map (fun y => y.val.toNat % 2 ^ (8 * c.len)))
/-- Is a contribution merged by the sequencer of the home device (R332)? -/
def Mach.homeMerged (m : Mach) (c : Contrib) : Bool := flag (m.redwin c.win 0) 4
/-- The open rounds of the home merge, by one contribution of each. -/
def Mach.openRounds (m : Mach) : List Contrib :=
  m.rounds.foldl (fun l c => if m.homeMerged c && !l.any c.meets then c :: l else l) []
/-- The 32 MiB of chunk buffers are full, at 64 bytes an open round (R332). -/
def Mach.chunksFull (m : Mach) : Bool := decide (m.rounds.length ≥ 0x80000) && decide (m.openRounds.length ≥ 0x80000)
/-- A contribution that would open a round finds them full. -/
def Mach.buffersFull (m : Mach) (c : Contrib) : Bool := m.homeMerged c && !m.rounds.any c.meets && m.chunksFull

/-! ### Joining (R335, R337) -/

/-- A member's contribution joins its collective, or opens it; none when the sequencer holds 64 or its chunk buffers are full of open
rounds (R337; how much of these a collective takes, the spec does not say: log 47). The place among the members is answered. -/
def Mach.joinColl (m : Mach) (asid level ident : Nat) (ph : Bool) (k count : Nat) (y : CollMember) : Option (Mach × Nat × Nat) :=
  match m.colls.find? (fun c => !c.isOver && decide (c.asid = asid ∧ c.level = level ∧ c.ident = ident ∧ c.phase = ph ∧ c.k = k)) with
  | some c => some (m.setColl { c with members := c.members ++ [y] }, c.id, c.members.length)
  | none =>
    if m.collsHeld.length ≥ 64 ∨ m.chunksFull = true then none
    else
      let c : Coll := ⟨m.nextId, asid, level, ident, ph, k, count, [y], false⟩
      some ({ m with colls := m.colls ++ [c], nextId := m.nextId + 1 }, c.id, 0)
/-- The sequencer is powered (R348): in RETAIN or OFFSR nothing on it serves. -/
def Mach.collOn (m : Mach) : Bool := !flag (m.portReg m.mgmtPort 0x068) 9
/-- The contribution a part has already made (R337: it is accepted once): its collective, and the place among the members. -/
def Mach.joined (m : Mach) (core ctx seq : Nat) : Option (Coll × Nat × CollMember) :=
  let k := m.core core
  m.colls.findSome? (fun c => (List.range c.members.length).findSome? (fun j => (c.members[j]?).bind (fun y =>
    if y.launch = k.launch ∧ y.lindex = k.lindex ∧ y.ctx = ctx ∧ y.seq = seq then some (c, j, y) else none)))
/-- The copy at `idx` notes its collective and the bytes it counts; a wait for the sequencer's buffers is over, which COLLBUFNS counts,
as COLLSLOTNS counts that for the slot table (R324). -/
def setJoined (core idx : Nat) (c : Copy) (j : Nat × Nat) (total : Nat) (m : Mach) : Mach :=
  let m := if c.waited then m.incBoth 0x4C8 (acOf m.tick 0x4C8) else m
  let m := if c.port then m.incBoth 0x4D0 (acOf m.tick 0x4D0) else m
  m.upd core (fun k => { k with cq := setNth k.cq idx { c with active := true, coll := some j, total := total, waited := false } })
/-- The copy at `idx` has found the sequencer full, and waits (R337). -/
def setWaited (core idx : Nat) (c : Copy) (s : State) : Option State :=
  if c.waited then none else some (s.onCore core (fun k => { k with cq := setNth k.cq idx { c with waited := true } }))
/-- The copy at `idx` takes the next number of its context's collectives at a level (R335). -/
def Core.takeTurn (k : Core) (idx : Nat) (c : Copy) (x level : Nat) : Core :=
  let n := Tab.get 0 (k.ctx x).collSeq level
  Core.upd { k with cq := setNth k.cq idx { c with turn := some n } } x (fun c => { c with collSeq := Tab.set 0 c.collSeq level (n + 1) })
/-- An earlier collective of the copy's context has no number yet: numbers go in issue order (R335). -/
def Core.turnWaits (k : Core) (c : Copy) : Bool :=
  let early := fun (d : Copy) => decide ((cpIn d.fl).op = 13 ∧ d.fl.iss.ctx = c.fl.iss.ctx ∧ d.seq < c.seq) && d.turn.isNone && d.coll.isNone
  k.cq.any early || (List.range 8).any (fun i => ((Tab.get none k.parked i).map early).getD false)
/-- What a mismatched collective leaves a member (R336): POISON in its positions with the descriptor's address, FAULT and FADDR on its
barrier, its bytes counted. -/
def Core.mismatch (k : Core) (core : Nat) (c : Copy) (n : Nat) : Core :=
  let a := (cpIn c.fl).a
  (((k.putAll core c .poison (poisonTile cILLSLOT a)).faultOn c.bar a).inc 0xB3 (.ofNat 64 n)).landOn c.bar n

/-- A CPCOLL that is active and has not joined reads its descriptor, takes its number, reads its contribution and joins (R334, R335).
A bad descriptor is a slot fault and ends the collective as mismatched (R336); a member that runs again after it retires (log 49). -/
def collJoin (core idx : Nat) (c : Copy) (s : State) : Option State :=
  let i := cpIn c.fl
  let f := c.fl
  let ag := agentOf core
  let asid := f.iss.asid
  let x := f.iss.ctx
  let k := s.mach.core core
  if s.mach.collOn = false then none
  else match s.mach.joined core x c.seq with
  | some (q, j, y) =>
    if dBad y.desc q.count then some (leaveEngine core idx c (fun k => (k.putAll core c .poison (poisonTile cILLSLOT i.a)).retire f) s)
    else some { s with mach := setJoined core idx c (q.id, j) (dTotal y.desc q.count c.dests.length) s.mach }
  | none =>
    if k.turnWaits c then none else
    match readVa s ag asid i.a 64 accRead with
    | .error (va, r) => some (copyFault core idx c va false r s)
    | .ok hd =>
      if rangesHeld s core f accRead [(i.a, 64)] then none
      else match softAt s core asid [(i.a, 64)] with
        | some va => if k.canLand c then some (landSoft core idx c va s) else none
        | none =>
          let d := (List.range 8).map (fun j => BitVec.ofNat 64 (leNat ((hd.drop (8 * j)).take 8)))
          let ctx := k.ctx x
          let lv := dLevel d
          let cnt := ctx.memberCount lv
          let total := dTotal d cnt c.dests.length
          let join := fun (n : Nat) (bs : List Byte) (bad : Bool) =>
            s.mach.joinColl asid lv (fld (Tab.get 0 ctx.domid lv) 47 24) (ctx.phase lv) n cnt
              ⟨s.mach.deviceNo, core, x, k.launch, k.lindex, c.seq, d, bs, bad⟩
          if dLevelOk d = false ∨ ctx.inDomain x lv = false then
            some (leaveEngine core idx c (fun k => k.copyTrap core c ⟨cILLSLOT, 6, true, 0, 0⟩ i.a) s)
          else match c.turn with
          | none => some (s.onCore core (fun k => k.takeTurn idx c x lv))
          | some n =>
            if dBad d cnt then
              match join n [] true with
              | none => setWaited core idx c s
              | some (m, _, _) => some (leaveEngine core idx c
                  (fun k => (k.mismatch core c total).slotFault f none ⟨cILLSLOT, 6, true, 0, 0⟩) { s with mach := m })
            else
              match readVa s ag asid (dSrc d) (dLen d) accRead with
              | .error (va, r) => some (copyFault core idx { c with total := total } va false r s)
              | .ok bs =>
                if rangesHeld s core f accRead [(dSrc d, dLen d)] then none
                else
                  let soft := softAt s core asid [(dSrc d, dLen d)]
                  match join n bs soft.isSome with
                  | none => setWaited core idx c s
                  | some (m, id, j) =>
                    let s' := { s.reads core asid i.p.policy.toNat [(i.a, 64), (dSrc d, dLen d)] with
                      mach := setJoined core idx c (id, j) total m }
                    some (match soft with
                      | some va => s'.noteLostAt core asid va
                      | none => s')

/-- A member of a collective that is over takes its result (R335, R336). -/
def collLand (core idx : Nat) (c : Copy) (s : State) : Option State :=
  let i := cpIn c.fl
  match c.coll with
  | none => none
  | some (id, j) =>
    match s.mach.coll id with
    | none => none
    | some q =>
      match q.members[j]? with
      | none => none
      | some y =>
        if q.isOver = false ∨ (s.mach.core core).canLand c = false then none
        else
          let out := fun (s : State) => { s with mach := s.mach.pruneColls }
          if q.mismatched then
            some (out (leaveEngine core idx c (fun k =>
              (k.mismatch core c c.total).retire c.fl) s))
          else
            let r := q.result y
            let dst := dDst y.desc
            match (if dst = 0 then none else firstUnmapped s (agentOf core) c.fl.iss.asid dst r.length accWrite) with
            | some (va, e) => some (copyFault core idx c va true e s)
            | none =>
              if dst ≠ 0 ∧ rangesHeld s core c.fl accWrite [(dst, r.length)] = true then none else
              let s := if dst = 0 then s else storeOuts core c.fl.iss.asid i.p.policy.toNat [(dst, r)] s
              let ds := c.dests
              some (out (leaveEngine core idx c (fun k =>
                ((List.range ds.length).foldl (fun k n => match ds[n]? with
                  | some d => k.putAt core c d .present (BitVec.ofNat 32768 (leNat ((r.drop (4096 * n)).take 4096)))
                  | none => k) k).landCopy c c.total) s))

/-- COPY_START (R208, R334). -/
def copyStarts (core idx : Nat) (s : State) : Option State :=
  let k := s.mach.core core
  match k.cq[idx]? with
  | none => none
  | some c =>
    if k.copyReady (s.mach.saving core) idx = false then none
    else
      let s1 := copyBegin core idx c s
      if (cpIn c.fl).op = 13 ∧ c.coll.isNone = true then
        match activeCopy core idx s1 with
        | some c1 => some ((collJoin core idx c1 s1).getD s1)
        | none => some s1
      else some s1
def execCopyStart (core idx : Nat) (s : State) : Out :=
  if core ≥ 640 then .fault .noSuchUnit else stepState s (copyStarts core idx s)
/-- COPY_LAND (R221, R335): a CPCOLL joins once its ports have moved what it reads and the sequencer has room. -/
def copyLands (core idx : Nat) (s : State) : Option State :=
  match activeCopy core idx s with
  | none => none
  | some c =>
    if (cpIn c.fl).op = 13 then
      match c.coll with
      | none => collJoin core idx c s
      | some _ => collLand core idx c s
    else copyEnd core idx c s
def execCopyLand (core idx : Nat) (s : State) : Out :=
  if core ≥ 640 then .fault .noSuchUnit else stepState s (copyLands core idx s)

/-- The members of a collective among the running copies: core and order number. -/
def Mach.membersOf (m : Mach) (id : Nat) : List (Nat × Nat) :=
  m.cores.flatMap (fun e => (e.2.cq.filter (fun c => c.active && (c.coll.map (fun j => j.1 == id)).getD false)).map
    (fun c => (e.1, c.seq)))
/-- One member's copy lands if it can; a copy that cannot lands later by COPY_LAND. -/
def deliverTo (s : State) (e : Nat × Nat) : State :=
  let k := s.mach.core e.1
  match (List.range k.cq.length).find? (fun i => ((k.cq[i]?).map (fun c => c.seq == e.2)).getD false) with
  | none => s
  | some idx => match k.cq[idx]? with
    | some c => (collLand e.1 idx c s).getD s
    | none => s
/-- COLLECTIVE_COMPLETE (R335, R336): every member has joined; the results go out. -/
def collComplete (idx : Nat) (s : State) : Option State :=
  match s.mach.colls[idx]? with
  | none => none
  | some q =>
    if q.isOver ∨ q.members.length < q.count ∨ s.mach.collOn = false then none
    else
      let m := (s.mach.setColl { q with isOver := true }).incBoth (if q.mismatched then 0x4D8 else 0x4C0) 1
      let s1 := (s.mach.membersOf q.id).foldl deliverTo { s with mach := m }
      some { s1 with mach := s1.mach.pruneColls }
def execCollectiveComplete (idx : Nat) (s : State) : Out := stepState s (collComplete idx s)

/-! ### Reduction rounds (R331 to R333) -/

/-- May a contribution enter its round: none of its rank is in that yet, and none of its rank for that place is before it (R232,
R331)? -/
def Mach.mayEnterRound (m : Mach) (idx : Nat) (c : Contrib) : Bool :=
  !(m.rounds ++ m.contribs.take idx).any (fun r => r.meets c && r.rank == c.rank)
/-- CONTRIB_ARRIVE (R331, R332): at most one contribution of a rank in a round; a full round's merged value is written at the home
as one write; a value that the rules leave open is free. Accepted, a contribution of this device ends its atomic. It waits while its
home die or the sequencer does not serve (R348). A home line that is poisoned is left as it stands. -/
def contribArrive (idx : Nat) (s : State) : Option State :=
  match s.mach.contribs[idx]? with
  | none => none
  | some c =>
    let m := s.mach
    if m.mayEnterRound idx c = false ∨ m.asleep c.space c.addr = true ∨ m.homeMerged c = true ∧ m.collOn = false then none
    else if m.buffersFull c then
      (if c.waited then none else some { s with mach := { m with contribs := setNth m.contribs idx { c with waited := true } } })
    else
      let m := if c.waited then m.incBoth 0x4C8 (acOf m.tick 0x4C8) else m
      let m := { m.accepted c with contribs := dropNth m.contribs idx, rounds := m.rounds ++ [c] }
      let round := m.rounds.filter (fun r => r.meets c)
      let settled := fun (s : State) => some (if c.seq.isSome then s.settle c.core c.ctx else s)
      if round.length < c.count then settled { s with mach := m }
      else
        let m := { m with rounds := m.rounds.filter (fun r => !r.meets c) }
        if s.mem.poisoned c.space c.addr then settled { s with mach := m }
        else
          let v := ((mergedValue round).map (c.merge (s.mem.read c.space c.addr c.len))).getD (Config.freeWord m.tick).toNat
          settled { mach := m, mem := s.mem.write c.space c.addr c.len v }
def execContribArrive (idx : Nat) (s : State) : Out := stepState s (contribArrive idx s)

end Sys2Proof.Machine
end

