-- ==== Sys2Proof/Machine/Ephemeris.lean ====
section
/-! DEFINITION. Ephemeris tables and their bindings (R258 to R264), the MARK check (R262). -/
namespace Sys2Proof.Machine
open Sys2Proof

/-! ### Entries (R258, R259) -/

/-- Entry `i` of a table in memory, or the reason it cannot be read: 2 no translation, 3 an uncorrectable error. -/
def entryBytes (s : State) (b : Binding) (i : Nat) : Except Nat (List Nat) :=
  let va := b.table + 32 * i
  match readVa s (engineAgent b.die) b.asid va 32 accRead with
  | .error _ => .error 2
  | .ok bs => match softAt s (160 * b.die) b.asid [(va, 32)] with
    | some _ => .error 3
    | none => .ok ((List.range 4).map (fun j => leNat ((bs.drop (8 * j)).take 8)))
/-- Under which name the ports know the entries of a binding. -/
def Binding.holder (b : Binding) : Nat := 1024 + 16 * b.die + b.num
/-- The core of the module in which the die's engine works. -/
def Binding.agent (b : Binding) : Nat := 160 * b.die
/-- The fields of an entry's four words. -/
def entryOf (i : Nat) (w : List Nat) : EphEntry :=
  let v := fun n => w.getD n 0
  ⟨i, bitsOf (v 0) 55 0, bitsOf (v 1) 19 0, bitsOf (v 1) 29 20, bitsOf (v 2) 39 0, bitsOf (v 2) 42 40, bitsOf (v 2) 45 43,
    bitsOf (v 3) 18 0, bitsOf (v 3) 37 19, false, false⟩
/-- The launch of a binding, for its core list. -/
def Mach.launchOf (m : Mach) (id : Option Nat) : Option Launch :=
  match id with
  | none => none
  | some n => m.launches.find? (fun l => l.id == n)
/-- A page of a range lies outside far DRAM (R259). -/
def notFar (s : State) (b : Binding) (e : EphEntry) : Bool :=
  (pageRuns e.src e.len).any (fun (v, _) => match translate s (engineAgent b.die) b.asid v accRead with
    | .ok sp ad _ => decide (sp ≠ 0) || !isFar ad
    | .fail _ => false)
/-- R259: is the entry bad? -/
def entryBad (s : State) (b : Binding) (w : List Nat) (e : EphEntry) : Bool :=
  let v := fun n => w.getD n 0
  let cores := ((s.mach.launchOf b.launch).map (fun l => l.plan.cores.length)).getD 0
  decide (v 0 ≥ 2 ^ 56 ∨ v 1 ≥ 2 ^ 30 ∨ v 2 ≥ 2 ^ 46 ∨ v 3 ≥ 2 ^ 38 ∨ e.src % 64 ≠ 0 ∨ e.off % 64 ≠ 0 ∨ e.len % 64 ≠ 0 ∨
    e.len < 64 ∨ e.action = 0 ∨ e.action > 4 ∨ e.tier > 3 ∨ e.due < e.start ∨ e.start < b.prevStart) ||
  (if e.tier = 0 then decide (e.action ≠ 1 ∨ e.off + e.len > 0x100000 ∨ e.lcore ≥ cores) else decide (v 1 ≠ 0)) ||
  (decide (e.tier = 3) && (decide (e.src % 65536 ≠ 0 ∨ e.len % 65536 ≠ 0) || notFar s b e))
/-- DUE of entry `i` as the check needs it. -/
def Binding.due (b : Binding) (s : State) (i : Nat) : Nat :=
  match b.started.find? (fun e => e.idx == i) with
  | some e => e.due
  | none => match entryBytes s b i with
    | .ok w => (entryOf i w).due
    | .error _ => 0
/-- Does entry `i` still stand to be done? A table being unbound has dropped what had not started (R264). -/
def Binding.owes (b : Binding) (i : Nat) : Bool := !b.dones.contains i && (!b.unbinding || b.started.any (fun e => e.idx == i))
/-- The first incomplete entry with DUE at or below `m` (R262, R264). -/
def Binding.firstMiss (b : Binding) (s : State) (m : Nat) : Option Nat :=
  (List.range b.count).find? (fun i => b.owes i && decide (b.due s i ≤ m))
/-- Binding number `idx` changed. -/
def Mach.onBinding (m : Mach) (idx : Nat) (f : Binding → Binding) : Mach :=
  match m.bindings[idx]? with
  | none => m
  | some b => { m with bindings := setNth m.bindings idx (f b) }
/-- The binding of a context's domain at a level. -/
def Mach.bindingOf (m : Mach) (y : Member) (n : Nat) : Option Binding :=
  match y.domain n with
  | none => none
  | some d => m.bindings.find? (fun b => decide (b.level = n ∧ b.dom = d ∧ (n ≥ 2 ∨ b.launch = y.launch)))
/-- The marker value of a domain: the least CURMARK of its members, saved ones included (R260, R82). -/
def Mach.markerOf (m : Mach) (n : Nat) (d : Nat × Nat) : Nat :=
  let ms := (m.members.filter (fun z => decide (z.domain n = some d))).map (fun z => fld (z.ctx.rC csrCURMARK) 18 0)
  match ms with
  | [] => 0
  | a :: t => t.foldl Nat.min a
/-- An entry fails: the binding stops with the first error (R259, R261, R264). -/
def Binding.fails (b : Binding) (code i : Nat) : Binding :=
  if b.err = 0 then { b with err := code, erridx := i, read := none } else b

/-! ### MARK (R78, R262) -/

/-- What the residency check of a context finds: it passes, a binding is in error, or an entry misses; with the binding's
number and EADDR. -/
inductive MarkChk where
  | pass
  | err (n a : Nat)
  | miss (n a : Nat)
  deriving DecidableEq, Repr
/-- The check of MARK `n` over every binding of the context's domains. -/
def markCheck (core x n : Nat) (s : State) : MarkChk :=
  let y := s.mach.member core x
  let bs := [0, 1, 2, 3].filterMap (fun l => s.mach.bindingOf y l)
  match bs.find? (fun b => b.err ≠ 0) with
  | some b => .err b.num (b.table + 32 * b.erridx)
  | none => match bs.findSome? (fun b => (b.firstMiss s n).map (fun i => (b.num, b.table + 32 * i))) with
    | some r => .miss r.1 r.2
    | none => .pass
/-- EPHMISS (R262, R304): a slot fault of the control field. -/
def missTrap (n a : Nat) : Trap := ⟨cEPHMISS, 0, true, n % 16 * 2 ^ 16, a⟩
/-- What follows the check under the policy of the bundle that makes it: EPHMISS, the stall, or the context goes on (R127, R262). -/
def markThen (fl : Flight) (b : Issue) (r : MarkChk) (k : Core) : Core :=
  let x := fl.iss.ctx
  let pol := fld (b.rC csrEPHPOL) 1 0
  match r with
  | .pass => k
  | .err n a => k.slotFault fl none (missTrap n a)
  | .miss n a =>
    if pol = 1 then k.upd x (fun c => { c with markWait := some fl })
    else if pol = 2 then k.upd x (fun c => c.inc 0xD3 1)
    else k.slotFault fl none (missTrap n a)
/-- The mark of a MARK. -/
def markOf (i : Instr) : Nat :=
  match i with
  | .mark _ m => m.toNat
  | _ => 0
/-- MARK: CURMARK, then the check. -/
def markEff (i : Instr) : Eff := fun s b m =>
  let c := m.focusCore
  let m := m.upd c (fun k => k.upd b.ctx (fun x => x.wC csrCURMARK (.ofNat 64 (markOf i))))
  m.upd c (markThen ⟨i, b⟩ b (markCheck c b.ctx (markOf i) { s with mach := m }))
def execMark (g : BitVec 4) (m : BitVec 19) (s : State) : Out := runPart (.mark g m) (markEff (.mark g m)) s
/-- EPH_STALL_PASS (R262): the stalled MARK passes, or meets a binding in error. -/
def stallPass (core x : Nat) (s : State) : Option State :=
  match ((s.mach.core core).ctx x).markWait with
  | none => none
  | some fl =>
    let clear := fun (k : Core) => k.upd x (fun c => { c with markWait := none })
    match markCheck core x (markOf fl.i) s with
    | .pass => some ((s.onCore core clear).settle core x)
    | .err n a => some (s.onCore core (fun k => Core.slotFault (clear k) fl none (missTrap n a)))
    | .miss _ _ => none
def execEphStallPass (core ctx : Nat) (s : State) : Out :=
  if core ≥ 640 ∨ ctx ≥ 4 then .fault .noSuchUnit else stepState s (stallPass core ctx s)

/-! ### EPHBIND and EPHSTAT (R264) -/

/-- The lowest free binding number of a die's engine. -/
def Mach.freeBinding (m : Mach) (die : Nat) : Option Nat :=
  (List.range Config.engineBindings).find? (fun n => !m.bindings.any (fun b => b.die == die && b.num == n))
/-- What an EPHBIND that unbinds a table remembers of it: its number, its die and its address. -/
def Binding.mark (q : Binding) : W64 := .ofNat 64 (q.num + 16 * q.die + 64 * q.table)
/-- The bindings without the one of a number on a die. -/
def Mach.unbind (m : Mach) (q : Binding) : Mach :=
  { m with
    bindings := m.bindings.filter (fun z => !(z.die == q.die && z.num == q.num))
    portReqs := m.portReqs.filter (fun r => r.core ≠ q.holder)
    asked := m.asked.filter (fun e => e.1 ≠ q.holder) }
/-- EPHBIND. -/
def ephbindEff (p : Part) : Eff := fun _ b m =>
  let c := m.focusCore
  let k := m.core c
  let fl : Flight := ⟨.ephbind p, b⟩
  let n := p.cw.aux.toNat % 8
  let y := m.member c b.ctx
  let a := (k.opnd b p.cw p.cw.src1).toNat
  let cnt := (k.opnd b p.cw p.cw.src2).toNat
  let fail := fun (e : Nat) => m.setCore c (k.sysDone fl p (.error e))
  match y.domain n with
  | none => fail 1
  | some d => match m.bindingOf y n with
    | some q =>
      if a ≠ 0 then fail 2
      else
        let m := { m with bindings := m.bindings.map (fun z => if z = q then { z with unbinding := true, read := none } else z) }
        if q.started = [] then (m.unbind q).setCore c (k.sysDone fl p (.ok (.ofNat 64 q.num)))
        else m.setCore c ((k.sysWait fl).upd b.ctx (fun y => { y with answer := some q.mark }))
    | none =>
      if a = 0 then fail 2
      else match m.freeBinding (dieOf c) with
        | none => fail 3
        | some num =>
          if a % 64 ≠ 0 ∨ cnt = 0 ∨ cnt > 65536 then fail 4
          else
            let q : Binding := ⟨num, dieOf c, b.asid, y.launch, n, d, a, cnt, 0, none, 0, [], [], 0, 0, false⟩
            ({ m with bindings := m.bindings ++ [q] }).setCore c (k.sysDone fl p (.ok (.ofNat 64 num)))
def execEphbind (p : Part) (s : State) : Out := runPart (.ephbind p) (ephbindEff p) s
/-- An unbinding EPHBIND completes once every started entry is complete or has failed (R264): the table it unbinds has gone. -/
def ephbindFinish (core x : Nat) (s : State) : Option State :=
  match ((s.mach.core core).ctx x).answer with
  | none => none
  | some a =>
    if s.mach.bindings.any (fun q => q.unbinding && q.mark == a) then none
    else some (waitDone core x (fun k => k) (.ok (.ofNat 64 (fld a 3 0))) s)
/-- The status word of EPHSTAT. -/
def Binding.statWord (b : Binding) : Nat :=
  let st := if b.err ≠ 0 then 2 else if b.dones.length = b.count then 3 else 1
  st + b.next * 2 ^ 2 + b.dones.length * 2 ^ 19 + b.err * 2 ^ 36 + b.erridx * 2 ^ 39
/-- EPHSTAT. -/
def ephstatEff (p : Part) : Eff := fun s b m =>
  let c := m.focusCore
  let k := m.core c
  let n := p.cw.aux.toNat % 8
  let y := m.member c b.ctx
  let r : Except Nat W64 := match y.domain n with
    | none => .error 1
    | some d => match m.bindingOf y n with
      | none => .error 2
      | some q => .ok (.ofNat 64 (match p.cw.aux.toNat / 8 with
        | 0 => q.statWord
        | 1 => m.markerOf n d
        | _ => (q.firstMiss { s with mach := m } (fld ((k.ctx b.ctx).rC csrCURMARK) 18 0)).getD 65536))
  m.setCore c (k.sysDone ⟨.ephstat p, b⟩ p r)
def execEphstat (p : Part) (s : State) : Out := runPart (.ephstat p) (ephstatEff p) s

/-! ### The walk (R259 to R261) -/

/-- The name of the table read of a binding among its requests at the ports. -/
def Binding.readTag (b : Binding) : Nat := 65536 + b.next
/-- ENTRY_READ: the next entry is read, through the ports and once its home serves, and checked (R256, R259, R348); a table read that
faults is ERR 2 (R264). -/
def entryRead (idx : Nat) (s : State) : Option State :=
  match s.mach.bindings[idx]? with
  | none => none
  | some b =>
    if b.err ≠ 0 ∨ b.unbinding = true ∨ b.read.isSome = true ∨ b.next ≥ b.count then none
    else
      let va := b.table + 32 * b.next
      if s.sleeps (engineAgent b.die) b.asid [(va, 32)] then none
      else s.viaPorts b.holder b.readTag (portNeeds s b.agent b.asid b.holder b.readTag true (.read 0) [(va, 32)]) (fun s =>
        let put := fun (f : Binding → Binding) => some { s with mach := s.mach.onBinding idx f }
        match entryBytes s b b.next with
        | .error c => put (fun b => b.fails c b.next) |>.map (fun s => s.noteLostAt b.agent b.asid va)
        | .ok w =>
          let e := entryOf b.next w
          if entryBad s b w e then put (fun b => b.fails 1 b.next) else put (fun b => { b with read := some e }))
def execEntryRead (idx : Nat) (s : State) : Out := stepState s (entryRead idx s)

/-- Which lines of an entry's range ask for a port (R255, R260, R261). -/
def EphEntry.move (e : EphEntry) : Option Move :=
  match e.action, e.tier with
  | 1, 3 => some .write
  | 1, _ => some (.read 0)
  | 4, _ => none
  | _, 1 => some .fromL2
  | _, 2 => some .fromMsc
  | _, _ => some .frames
/-- ENTRY_START (R260): the marker has reached START, and fewer than 16 entries are under way. -/
def entryStart (idx : Nat) (s : State) : Option State :=
  match s.mach.bindings[idx]? with
  | none => none
  | some b => match b.read with
    | none => none
    | some e =>
      if b.err ≠ 0 ∨ b.unbinding = true ∨ b.started.length ≥ 16 ∨ s.mach.markerOf b.level b.dom < e.start then none
      else
        let reqs := match e.move with
          | none => []
          | some w => portNeeds s b.agent b.asid b.holder e.idx true w [(e.src, e.len)]
        let m := s.mach.onBinding idx (fun b =>
          { b with started := b.started ++ [{ e with port := decide (reqs ≠ []) }], read := none, next := b.next + 1, prevStart := e.start })
        some { s with mach := { m with portReqs := m.portReqs ++ reqs } }
def execEntryStart (idx : Nat) (s : State) : Out := stepState s (entryStart idx s)

/-- The far pages of the runs that a FETCH 3 still has to stage, with their dies; their frames are still to be found. -/
def pagesToStage (mem : Mem) (b : Binding) (rs : List (Nat × Nat)) : List Staged :=
  (rs.filterMap (fun (ad, _) =>
    if mem.isStaged (ad / 64) then none else some ⟨homeDie ad, b.asid, ad / 65536, b.launch, 0⟩)).eraseDups
/-- Do new frames pass a die's quota of the tenant, or its staging area (R255, R261)? -/
def overQuota (s : State) (asid : Nat) (new : List Staged) : Bool :=
  (List.range 4).any (fun d =>
    let n := (new.filter (fun g => g.die == d)).length
    decide (n > 0) &&
    decide (n + (s.mem.staged.filter (fun g => g.die == d && g.asid == asid)).length > Tab.get 0 s.mach.quotas (d * 65536 + asid) ∨
      n + (s.mem.staged.filter (fun g => g.die == d)).length > fld (s.mach.dieReg d 0x1A0) 37 19))
/-- Pages staged, each into the lowest free frame of its die's staging area; none where an area has no free frame (R255). -/
def stagePages (m : Mach) : List Staged → Mem → Option Mem
  | [], mem => some mem
  | g :: t, mem =>
    let r := m.dieReg g.die 0x1A0
    match mem.freeFrame g.die (fld r 18 0) (fld r 37 19) with
    | none => none
    | some f => stagePages m t { mem with staged := mem.staged ++ [{ g with frame := f }] }
/-- The core that launch core index `i` names: where it runs, or ran until the launch ended there; none while it is saved or being
saved (R261). -/
def Mach.coreOf (m : Mach) (launch : Option Nat) (i : Nat) : Option Nat :=
  if m.saved.any (fun v => decide (some v.launch = launch ∧ v.lindex = i)) then none
  else match m.cores.find? (fun e => decide (e.2.launch = launch ∧ e.2.lindex = i)) with
    | some e => if m.saves.any (fun r => r.core == e.1 && r.stopped) then none else some e.1
    | none => (m.launchOf launch).bind (fun l => (l.plan.cores[i]?).map (fun c => c.core))
/-- What an entry comes to: it waits, or fails with a code, or completes; with the lines it has moved and the state it leaves. -/
inductive EntryRun where
  | wait
  | fail (code lines : Nat) (s : State)
  | done (lines : Nat) (s : State)
/-- FETCH 0: the bytes land in the scratchpad, once their banks are free (R115); the granules of a poisoned line do not (R261). -/
def fetchSpad (s : State) (b : Binding) (e : EphEntry) : EntryRun :=
  match s.mach.coreOf b.launch e.lcore with
  | none => .wait
  | some c =>
    if (s.mach.core c).owner ≠ some b.asid then .fail 5 0 s
    else
      let lines := (List.range (e.len / 64)).map (fun i => 64 * i)
      let bad := fun (o : Nat) => (softAt s b.agent b.asid [(e.src + o, 64)]).isSome
      let s' := (s.reads b.agent b.asid 0 [(e.src, e.len)]).onCore c (fun k => lines.foldl (fun k o =>
        if bad o then k else match readVa s (engineAgent b.die) b.asid (e.src + o) 64 accRead with
          | .ok bs => k.spStore (e.off + o) bs
          | .error _ => k) k.bankWait)
      match lines.find? bad with
      | some o => .fail 3 (lines.filter (fun o => !bad o)).length (s'.noteLostAt b.agent b.asid (e.src + o))
      | none => .done lines.length s'
/-- The action of an entry (R261). -/
def entryRun (s : State) (b : Binding) (e : EphEntry) : EntryRun :=
  match firstUnmapped s (engineAgent b.die) b.asid e.src e.len accRead with
  | some _ => .fail 2 0 s
  | none =>
    let rs := rangeLines s b.agent b.asid e.src e.len
    let m := s.mem
    let l2 := m.l2In rs
    let msc := m.mscIn rs
    let dirty := l2.filter (fun l => (older m.dirty l).isSome)
    let mdirty := msc.filter (fun l => (older m.mdirty l).isSome)
    let fr := m.frames.filter (fun f => inRuns rs f.1)
    let all := (rs.map (fun r => r.2 / 64)).sum
    let moved := fun (n : Nat) (m : Mem) => EntryRun.done n { s with mem := m }
    match e.action, e.tier with
    | 1, 0 => fetchSpad s b e
    | 1, 1 => moved (all - l2.length) (m.fillRuns false false rs)
    | 1, 2 => moved (all - msc.length) (m.fillRuns true true rs)
    | 1, _ =>
      let new := pagesToStage m b rs
      if overQuota s b.asid new then .fail 4 0 s
      else match stagePages s.mach new m with
        | none => .fail 4 0 s
        | some m => moved (1024 * new.length) (m.mirror rs)
    | 2, 1 => moved dirty.length (((l2.foldl (fun m l => (m.l2Down l).dropL2 l) m)).mirror rs)
    | 2, 2 => moved mdirty.length (((msc.foldl (fun m l => (m.mscDown l).dropMsc l) m)).mirror rs)
    | 2, _ => moved fr.length ((m.frameBack rs).unstage rs)
    | 3, 1 => moved dirty.length ((dirty.foldl Mem.l2Down m).mirror rs)
    | 3, 2 => moved mdirty.length ((mdirty.foldl Mem.mscDown m).mirror rs)
    | 3, _ => moved fr.length (m.frameBack rs)
    | _, 1 => moved 0 (l2.foldl (fun m l => m.l2Discard s.mach.tick l) m)
    | _, 2 => moved 0 (msc.foldl (fun m l => m.mscDiscard s.mach.tick l) m)
    | _, _ => moved 0 ((m.frameDrop s.mach.tick rs).unstage rs)
/-- A started entry leaves its binding, which goes once it is unbound and has none left (R264). -/
def Mach.entryLeaves (m : Mach) (idx : Nat) (b : Binding) (e : EphEntry) (f : Binding → Binding) : Mach :=
  let b' := f { b with started := b.started.filter (fun z => z.idx ≠ e.idx) }
  let m := (m.dropPorts b.holder e.idx).onBinding idx (fun _ => b')
  if b'.unbinding ∧ b'.started = [] then m.unbind b' else m
/-- ENTRY_COMPLETE (R261, R263): a started entry whose transfers are done completes or fails; a FETCH 0 into a core that is saved
waits. TEENTRIES and TEBYTES count; TESLOTFC and TESAVEFC only for an entry that asked for a port, or that waited for such a core, by
free numbers (log 2). -/
def entryComplete (idx entry : Nat) (s : State) : Option State :=
  match s.mach.bindings[idx]? with
  | none => none
  | some b => match b.started.find? (fun e => e.idx == entry) with
    | none => none
    | some e =>
      if portsDone s.mach b.holder e.idx = false then none
      else
        let t := s.mach.tick
        let count := fun (n : Nat) (m : Mach) =>
          let m := m.incDie b.die 0x1B8 (.ofNat 64 (64 * n))
          let m := if e.port then m.incDie b.die 0x1C0 (acOf t 0x1C0) else m
          if e.held then m.incDie b.die 0x1C8 (acOf t 0x1C8) else m
        match entryRun s b e with
        | .wait =>
          if e.held then none
          else some { s with mach := s.mach.onBinding idx (fun b =>
            { b with started := b.started.map (fun z => if z.idx = e.idx then { z with held := true } else z) }) }
        | .fail c n s' => some { s' with mach := count n (s'.mach.entryLeaves idx b e (fun b => b.fails c e.idx)) }
        | .done n s' =>
          let m := s'.mach.entryLeaves idx b e (fun b => { b with dones := b.dones ++ [e.idx] })
          some { s' with mach := (count n m).incDie b.die 0x1B0 1 }
def execEntryComplete (idx entry : Nat) (s : State) : Out := stepState s (entryComplete idx entry s)

end Sys2Proof.Machine
end

