-- ==== Sys2Proof/Machine/Micro.lean ====
section
/-! DEFINITION. The micro-ops of the matrix unit (R155 to R174) and the array's arithmetic (R143 to R146): each acts on the
running routine of the core in focus. -/
namespace Sys2Proof.Machine
open Sys2Proof

/-! ### Accumulators and partials -/

/-- Elements of an accumulator. -/
def Core.accElems (k : Core) (a : Nat) : List Nat := elemsOf (Tab.get 0 k.acc a).toNat 1024 32
/-- An accumulator written. -/
def Core.setAcc (k : Core) (a : Nat) (es : List Nat) : Core :=
  { k with acc := Tab.set 0 k.acc a (BitVec.ofNat 32768 (packElems 32 es)) }
/-- A table of the non-zero partials. -/
def partTab (es : List Nat) : Tab (BitVec 26) :=
  (List.range es.length).filterMap (fun c => let v := BitVec.ofNat 26 (es.getD c 0); if v = 0 then none else some (c, v))
/-- The partials of the cells, in order. -/
def Core.partElems (k : Core) : List Nat := (List.range 1024).map (fun c => (Tab.get 0 k.part c).toNat)
/-- One cell promoted (R144). -/
def promoteCell (a p : Nat) : Nat := toFp32 ((ofFp32 a).add (decodeFp26 p) .rne)
/-- Promote (R144, R145): a partial of +0 with count 0 leaves the accumulator as it stands. -/
def Core.promote (k : Core) : Core :=
  if k.partN = 0 then k
  else { k.setAcc k.partAcc (List.zipWith promoteCell (k.accElems k.partAcc) k.partElems) with part := [], partN := 0 }
/-- Promotion before a micro-op that names accumulator `a` (R145). -/
def Core.promoteAcc (k : Core) (a : Nat) : Core := if k.partAcc = a then k.promote else k
/-- Partials that wait for an accumulator with an uncorrectable error: the promotion reads it (R174). -/
def Core.badPromote (k : Core) : Bool := decide (k.partN ≠ 0) && k.poisoned.contains (.acc, k.partAcc)
/-- Does a micro-op that names accumulator `a` meet an uncorrectable error in it: in what it reads, or in a promotion? -/
def Core.badAcc (k : Core) (a : Nat) (reads : Bool) : Bool :=
  (reads && k.poisoned.contains (.acc, a)) || (decide (k.partAcc = a) && k.badPromote)

/-! ### Operand geometry (R157 to R159) -/

/-- Kt, the slice size and the slices per tile of a format the array takes (R157, R144). -/
def arrayClass (f : Fmt) : Option (Nat × Nat × Nat) :=
  match f with
  | .int8 => some (128, 16, 8)
  | .uint8 => some (128, 16, 8)
  | .tf8 => some (128, 16, 8)
  | .tf6 => some (160, 20, 8)
  | .int16 => some (64, 4, 16)
  | .bf16 => some (64, 4, 16)
  | .fp16 => some (64, 4, 16)
  | .raw => none
  | .int32 => none
  | .int64 => none
  | .fp32 => none
  | .mod64 => none
/-- Do the stage and block formats form a pair, and is its path the integer one (R164)? -/
def pairPath (a b : Fmt) : Option Bool :=
  let i8 := fun (f : Fmt) => decide (f = .int8 ∨ f = .uint8)
  let e8 := fun (f : Fmt) => i8 f || decide (f = .tf8)
  let h := fun (f : Fmt) => decide (f = .bf16 ∨ f = .fp16)
  if i8 a && i8 b then some true
  else if e8 a && e8 b then some false
  else if a = .tf6 ∧ b = .tf6 then some false
  else if a = .int16 ∧ b = .int16 then some true
  else if h a && h b then some false
  else none
/-- F of a sparsity mode. -/
def sparsity (mode : Nat) : Nat := if mode = 1 then 2 else if mode = 2 then 4 else 1
/-- Tag of a weight-buffer block: FORMAT and BIAS as a bank register holds them, VALID at bit 16 (R150). -/
def Core.wtag (k : Core) (b : Nat) : W64 := Tab.get 0 k.wtags b
/-- Mask nibble `n` (R158). -/
def maskNibble (ms : List Byte) (n : Nat) : Nat :=
  let b := (ms.getD (n / 2) 0).toNat
  if n % 2 = 0 then b % 16 else b / 16
/-- Every mask keeps the rule of its mode (R158). -/
def masksOk (ms : List Byte) (f : Nat) : Bool :=
  (List.range (2 * ms.length)).all (fun n => decide (popCount (maskNibble ms n) 4 = (if f = 2 then 2 else 1)))
/-- The logical k that column `j` retains, in order. -/
def retained (ms : List Byte) (f kt j : Nat) : List Nat :=
  if f = 1 then List.range kt
  else
    let g := f * kt / 4
    (List.range g).flatMap (fun i =>
      let m := maskNibble ms (j * g + i)
      ((List.range 4).filter (fun t => m.testBit t)).map (fun t => 4 * i + t))
/-- Element code `n` of the selected block image, through the codebook where it is on (R159). -/
def blockCode (k : Core) (b : Bsel) (e n : Nat) : Nat :=
  let blk := (Tab.get 0 k.blocks b.blk).toNat
  if bitAt b.cb 0 then
    let m := if bitAt b.cb 1 then 2048 else 4096
    let idx := elemAt blk (b.part * m + n) 4
    elemAt (Tab.get 0 k.books b.blk).toNat idx (if bitAt b.cb 1 then 16 else 8)
  else elemAt blk n e

/-! ### The array (R143 to R146) -/

/-- The rows of a stage as values: element (i, k) over all its tiles. -/
def stageRows (tiles : List (Tile × W64)) (f : Fmt) (kt : Nat) : List (Array Val) :=
  (List.range 32).map (fun i => (tiles.flatMap (fun t =>
    (List.range kt).map (fun c => valueOf (elemAt t.1.toNat (i * kt + c) f.width) f (biasOf t.2)))).toArray)
/-- A column of the block: the values retained, each with its logical k. -/
def blockCols (k : Core) (b : Bsel) (f : Fmt) (bias : Int) (kt : Nat) : List (List (Nat × Val)) :=
  (List.range 32).map (fun j =>
    let ks := retained b.masks (sparsity b.mode) kt j
    (List.range kt).map (fun r => (ks.getD r 0, valueOf (blockCode k b f.width (j * kt + r)) f bias)))
/-- The products of one slice of one cell. -/
def sliceProducts (row : Array Val) (col : List (Nat × Val)) (sz j : Nat) : List Val :=
  ((col.drop (j * sz)).take sz).map (fun c => (row.getD c.1 .nan).mul c.2)
/-- A cell of the float path over its slices: accumulator, partial, count (R144). -/
def floatCell (p : Nat) (sums : List Val) (a q n : Nat) : Nat × Nat :=
  let r := sums.foldl (fun (st : Nat × Nat × Nat) s =>
    let q' := roundFp26 ((decodeFp26 st.2.1).add (decodeFp26 (roundFp26 s)) .rne)
    if st.2.2 + 1 = p then (promoteCell st.1 q', 0, 0) else (st.1, q', st.2.2 + 1)) (a, q, n)
  (r.1, r.2.1)
/-- A cell of the integer path (R146). -/
def intCell (ps : List Val) (a : Nat) : Nat := wrapTo (sext a 32 + (ps.map (fun v => v.toQ.num)).sum) 32
/-- MMAC's work: `n` slices of the stage and the selected block into accumulator `a` with interval `p`. -/
def Core.macArray (k : Core) (a p n : Nat) (tiles : List (Tile × W64)) (b : Bsel) (fa fb : Fmt) (isInt : Bool)
    (kt sz : Nat) : Core :=
  let rows := stageRows tiles fa kt
  let cols := blockCols k b fb (biasOf (k.wtag b.blk)) kt
  let k := if k.partAcc = a ∧ k.partP = p then k else k.promote
  let acc := (k.accElems a).toArray
  let par := k.partElems.toArray
  let cell := fun (g : List (List Val) → Nat → Nat → Nat × Nat) (c : Nat) =>
    let row := rows.getD (c / 32) #[]
    let col := cols.getD (c % 32) []
    g ((List.range n).map (sliceProducts row col sz)) (acc.getD c 0) (par.getD c 0)
  let k := { k with partAcc := a, partP := p }
  if isInt then k.setAcc a ((List.range 1024).map (fun c => (cell (fun ps x q => (intCell ps.flatten x, q)) c).1))
  else
    let n0 := k.partN
    let res := (List.range 1024).map (cell (fun ps x q => floatCell p (ps.map sliceSum) x q n0))
    { k.setAcc a (res.map (·.1)) with part := partTab (res.map (·.2)), partN := (n0 + n) % p }

/-! ### The running routine -/

/-- The running routine (R150). -/
def Core.running (k : Core) : Option Routine := k.rq.find? (fun r => r.started && !r.mret)
/-- A routine of the queue replaced. -/
def Core.setRoutine (k : Core) (r : Routine) : Core := { k with rq := k.rq.map (fun o => if o.seq = r.seq then r else o) }
/-- What a micro-op comes to: it waits, faults, or is done. -/
inductive URes where
  | wait (k : Core) (r : Routine)
  | fault (k : Core) (r : Routine) (t : Trap)
  | ok (k : Core) (r : Routine)
/-- A slot fault of the MX part at its micro-op (R174, R304). -/
def uTrap (r : Routine) (code extra eaddr : Nat) : Trap := ⟨code, 5, true, r.upc % 4096 * 2 ^ 16 + extra, eaddr⟩
def URes.ill (k : Core) (r : Routine) : URes := .fault k r (uTrap r cILLSLOT 0 0)
/-- An uncorrectable error of a structure it reads (R174, R304). -/
def URes.soft (k : Core) (r : Routine) (n : Nat) : URes := .fault k r ⟨cSOFTERR, 5, true, n * 2 ^ 16, 0⟩
/-- On to the next word. -/
def Routine.next (r : Routine) : Routine := { r with upc := r.upc + 1, pend := none }
/-- The routine leaves the running position for the fault record (R174): partials promoted, its unfilled positions POISON. -/
def Core.routineFault (k : Core) (core : Nat) (r : Routine) (t : Trap) : Core :=
  let k := k.promote
  let k := { k with rq := k.rq.filter (fun o => o.seq ≠ r.seq) }
  k.partFault core r.fl r.resv (some r) t
/-- One micro-op on the core in focus. Without a running routine nothing happens (log 14). -/
def uopRun (f : Nat → Core → Routine → URes) (s : State) : Out :=
  let c := s.mach.focusCore
  let t := s.mach.tick
  let k := s.mach.core c
  match k.running with
  | none => stutter s
  | some r =>
    let res := if k.poisoned.contains (.micro, r.upc) then URes.soft k r 6 else f c k r
    let k' := match res with
      | .wait k r => k.setRoutine r
      | .fault k r tr => k.routineFault c r tr
      | .ok k r => k.setRoutine r
    stepMach s (s.mach.setCore c (k'.incAc t 0x90))
where
  /-- A step that changes no memory; a step that is not enabled. -/
  stepMach (s : State) (m : Mach) : Out := .next { s with mach := m.ticked }
  stutter (s : State) : Out := .next s

/-! ### Parameter registers (R155) -/

def Routine.reg (r : Routine) (n : BitVec 3) : W64 := Tab.get 0 r.regs n.toNat
def Routine.setReg (r : Routine) (n : BitVec 3) (v : Nat) : Routine :=
  { r with regs := Tab.set 0 r.regs n.toNat (BitVec.ofNat 64 v) }
/-- A field of a register copy stepped. -/
def Routine.stepField (r : Routine) (n : BitVec 3) (l w d : Nat) : Routine :=
  let v := (r.reg n).toNat
  r.setReg n (setField v l w (bitsOf v (l + w - 1) l + d))
/-- Queue layout: queue and offset; the offset of a destination is 0. -/
def queueField (v : W64) (dst : Bool) : Option (Nat × Nat) :=
  match decodeDesc (fld v 17 0) with
  | some (.queue q o false) => if dst && decide (o ≠ 0) then none else some (q.toNat, o.toNat)
  | _ => none
/-- Accumulator layout: the window's number, if it lies in the window (R119). -/
def accField (k : Core) (r : Routine) (v : W64) : Option Nat :=
  if fld v 3 0 < (k.ctx r.fl.iss.ctx).acount then some (fld v 3 0) else none
/-- The accumulator of the core that a window's number names. -/
def Core.accOf (k : Core) (r : Routine) (a : Nat) : Nat := (k.ctx r.fl.iss.ctx).abase + a

/-! ### Reading a tile (R161, R88, R89, R173) -/

/-- A tile as a micro-op reads it, or `none` at a VOID position. The read stays outstanding. -/
structure URead where
  k : Core
  r : Routine
  res : ReadRes
  tile : Option Tile
/-- The position is resolved when the micro-op executes, marked, and read; a fetch channel must be free (R172). A void routine counts
once in VOIDOPS, at its first VOID read: R66 does not say whether each of its micro-ops counts (log 46). -/
def uRead (k : Core) (r : Routine) (t : Nat) (reg : W64) (last : Bool) : Except URes URead :=
  let x := r.fl.iss.ctx
  let got : Except URes (Core × Routine × ReadRes) :=
    match r.pend with
    | some p => .ok (k, r, p)
    | none => match queueField reg false with
      | none => .error (URes.ill k r)
      | some (q, off) =>
        let d := k.queue x q
        let p := d.wrap (d.ihead + off)
        if off ≥ d.readable then .error (.fault k r (uTrap r cQBEYOND (q * 2 ^ 28 + p * 2 ^ 31) 0))
        else
          let res : ReadRes := ⟨5, q, off, p, last⟩
          let k := k.onQueue x q (fun d => (d.takeRead p last).passMarks (4 * d.cap))
          .ok (k, { r with pend := some res }, res)
  if k.fetches.length ≥ 4 then .error (.wait k r)
  else match got with
    | .error e => .error e
    | .ok (k, r, p) => match k.peekFor r.fl.iss.redo x p.q p.pos with
      | .wait => .error (.wait ((k.incAc t 0x92).upd x (fun c => c.incAc t (0x68 + p.q))) r)
      | .lap => .error (.fault k r (uTrap r cQLAP (p.q * 2 ^ 28 + p.pos * 2 ^ 31) 0))
      | .poison c a => .error (.fault k r (uTrap r cQPOISON (p.q * 2 ^ 28 + p.pos * 2 ^ 31 + c * 2 ^ 40) a))
      | .void => .ok ⟨if r.void then k else k.upd x (fun c => c.inc 0x55 1), { r with void := true }, p, none⟩
      | .data d => .ok ⟨k, r, p, if r.void then none else some d⟩
/-- A fetch takes its channel; its wait for the bank is counted (R172). That of a void micro-op holds the same stage or block, and
writes nothing there (R173). -/
def Core.startFetch (k : Core) (t : Nat) (v : URead) (stage : Option Nat) (block : Nat) (books : Bool) : Core :=
  let x := v.r.fl.iss.ctx
  { k.incAc t 0x79 with fetches := k.fetches ++ [⟨v.r.seq, stage, block, books, x, k.queueFmt x v.res.q, v.tile.getD 0, v.res, v.tile.isNone⟩] }

/-! ### The micro-ops -/

/-- MZERO and MPROMO (R160); void, they still promote the partials of earlier MMACs (R173). -/
def uAcc (zero : Bool) (u : Uop) (t : Nat) (_ : Nat) (k : Core) (r : Routine) : URes :=
  match accField k r (r.reg u.pa) with
  | none => .fault k r (uTrap r cVRANGE 0 0)
  | some a =>
    let n := k.accOf r a
    if k.badAcc n (!zero && !r.void) then URes.soft k r 3
    else
      let k := (k.promoteAcc n).incAc t 0x91
      let k := if zero && !r.void then { k.setAcc n [] with poisoned := k.poisoned.filter (fun e => e != (.acc, n)) } else k
      .ok k r.next
/-- MZERO (R160). -/
def execMzero (u : Uop) (s : State) : Out := uopRun (uAcc true u s.mach.tick) s
/-- MPROMO (R160). -/
def execMpromo (u : Uop) (s : State) : Out := uopRun (uAcc false u s.mach.tick) s

/-- The stages of the array. -/
def Core.stage (k : Core) (st : Nat) : Stage := (Tab.get none k.stages st).getD ⟨[], 4, false⟩
def Core.setStage (k : Core) (st : Nat) (v : Stage) : Core := { k with stages := Tab.set none k.stages st (some v) }
/-- Fetches on their way into a stage. -/
def Core.fetchesInto (k : Core) (st : Nat) : List Fetch := k.fetches.filter (fun f => decide (f.stage = some st))
/-- MLDA (R161). -/
def uMlda (u : Uop) (t : Nat) (_ : Nat) (k : Core) (r : Routine) : URes :=
  let x := r.fl.iss.ctx
  let st := b2n (flag (r.reg u.pa) 18)
  if (k.fetchesInto st).any (fun f => decide (f.tag ≠ x)) then .wait k r
  else match uRead k r t (r.reg u.pa) (bitAt u.flags.toNat 0) with
    | .error e => e
    | .ok v =>
      if v.tile.isNone then .ok (v.k.startFetch t v (some st) 64 false) v.r.next
      else
        let g := v.k.stage st
        let empty := g.isSealed || decide (g.tag ≠ x)
        let g := if empty then ⟨[], x, false⟩ else g
        if g.tiles.length + ((v.k.fetchesInto st).filter (fun f => !f.void)).length ≥ 4 then URes.ill v.k v.r
        else
          let k := v.k.setStage st g
          let k := if empty then { k with poisoned := k.poisoned.filter (fun e => e != (.aStage, st)) } else k
          .ok (k.startFetch t v (some st) 64 false) v.r.next
def execMlda (u : Uop) (s : State) : Out := uopRun (uMlda u s.mach.tick) s

/-- MLDB (R162). -/
def uMldb (u : Uop) (_ : Nat) (k : Core) (r : Routine) : URes :=
  let v := r.reg u.pa
  let b := fld v 5 0
  let part := fld v 7 6
  let fl := u.flags.toNat
  let cb := fl / 4
  let mode := fl % 4
  let top := if bitAt cb 0 then (if bitAt cb 1 then 3 else 1) else 0
  let stepped := r.stepField u.pa 0 6 (fld v 13 8)
  if part > top ∨ flag v 14 = true ∨ mode = 3 then URes.ill k r
  else if k.fetches.any (fun f => decide (f.stage = none) &&
      (if f.books then decide (f.block ≤ b) else decide (f.block = b))) then .wait k r
  else if r.void then .ok k stepped.next
  else
    let fmt := fmtOf (k.wtag b)
    let cls := arrayClass fmt
    let f := sparsity mode
    let cbOk := bitAt cb 0 = false ∨ (if bitAt cb 1 then cls.map (·.1) = some 64 else cls.map (·.1) = some 128)
    if flag (k.wtag b) 16 = false ∨ ¬ cbOk then URes.ill k r
    else if f = 1 then .ok k { stepped with bsel := some ⟨b, part, mode, cb, []⟩ }.next
    else
      let mw := r.metaWord
      let n := 4 * f * (cls.map (·.1)).getD 0
      let ms := (List.range n).map (fun i =>
        let a := r.mp + i
        BitVec.ofNat 8 (elemAt (Tab.get 0 k.ispad (a / 8)).toNat (a % 8) 8))
      if cls.isNone ∨ fld mw 2 0 ≠ 0 ∨ fld mw 63 18 ≠ 0 ∨ r.mp + n > 0x40000 ∨ masksOk ms f = false then URes.ill k r
      else .ok k { stepped with bsel := some ⟨b, part, mode, cb, ms⟩, mp := r.mp + n }.next
def execMldb (u : Uop) (s : State) : Out := uopRun (uMldb u) s

/-- P of the Interval layout (R155). -/
def intervalOk (p : Nat) : Bool := decide (p = 1 ∨ p = 2 ∨ p = 4 ∨ p = 8 ∨ p = 16 ∨ p = 32 ∨ p = 64)
/-- Would an MMAC on accumulator `a` with interval `p` promote partials first (R145)? -/
def Core.mmacPromotes (k : Core) (a p : Nat) : Bool := decide (k.partAcc ≠ a ∨ k.partP ≠ p)
/-- MMAC (R163): the checks in its order, then the slices; void, it still promotes the partials of earlier MMACs and holds the array
(R173), and adds no slices to MXSLICES: DESIGN CHOICE, the spec does not say (log 49). -/
def uMmac (u : Uop) (t : Nat) (_ : Nat) (k : Core) (r : Routine) : URes :=
  let x := r.fl.iss.ctx
  let v := r.reg u.pa
  let st := b2n (flag v 4)
  let p := fld (r.reg u.pb) 6 0
  let stepped := r.stepField u.pa 0 4 (fld v 7 5)
  match accField k r v with
  | none => .fault k r (uTrap r cVRANGE 0 0)
  | some a =>
    if intervalOk p = false then URes.ill k r
    else if k.fetchesInto st ≠ [] then .wait (k.incAc t 0x93) r
    else if r.void = true then
      (if k.mmacPromotes (k.accOf r a) p && k.badPromote then URes.soft k r 3
       else .ok ((if k.mmacPromotes (k.accOf r a) p then k.promote else k).incAc t 0x91) stepped.next)
    else
      let n := k.accOf r a
      let g := k.stage st
      match r.bsel, g.tiles with
      | some b, (_, w) :: _ =>
        let fa := fmtOf w
        let fb := fmtOf (k.wtag b.blk)
        if g.tag ≠ x ∨ g.tiles.length ≠ sparsity b.mode ∨ g.tiles.any (fun e => decide (fld e.2 11 0 ≠ fld w 11 0)) = true then
          URes.ill k r
        else match pairPath fa fb, arrayClass fa with
          | some isInt, some (kt, sz, m) =>
            if r.kcount > m then URes.ill k r
            else if k.poisoned.contains (.aStage, st) then URes.soft k r 4
            else if k.poisoned.contains (.wblock, b.blk) then URes.soft k r 5
            else if k.poisoned.contains (.acc, n) || (k.mmacPromotes n p && k.badPromote) then URes.soft k r 3
            else
              let c := if r.kcount = 0 then m else r.kcount
              let k := k.macArray n p c g.tiles b fa fb isInt kt sz
              let k := (k.setStage st { g with isSealed := true }).inc 0x97 (BitVec.ofNat 64 c)
              .ok (k.incAc t 0x91) stepped.next
          | _, _ => URes.ill k r
      | _, _ => URes.ill k r
def execMmac (u : Uop) (s : State) : Out := uopRun (uMmac u s.mach.tick) s

/-- MACC (R165); void, it promotes and holds the array, and writes nothing (R173). Where several of its fields fail, the accumulator's
VRANGE comes before what its queue raises: DESIGN CHOICE, the spec gives no order (log 49). -/
def uMacc (u : Uop) (t : Nat) (_ : Nat) (k : Core) (r : Routine) : URes :=
  match accField k r (r.reg u.pa) with
  | none => .fault k r (uTrap r cVRANGE 0 0)
  | some a => match uRead k r t (r.reg u.pb) (bitAt u.flags.toNat 0) with
    | .error e => e
    | .ok v =>
      let x := r.fl.iss.ctx
      let n := v.k.accOf r a
      let fmt := fmtOf (v.k.queueFmt x v.res.q)
      let done := fun (k : Core) => ((k.doneRead x v.res.q v.res.pos).incAc t 0x91).incAc t 0x79
      match v.tile with
      | none =>
        if v.k.badAcc n false then URes.soft v.k v.r 3
        else .ok (done (v.k.promoteAcc n)) v.r.next
      | some d =>
        if fmt ≠ .fp32 ∧ fmt ≠ .int32 then URes.ill v.k v.r
        else if v.k.badAcc n true then URes.soft v.k v.r 3
        else
          let k := v.k.promoteAcc n
          let add := fun (p q : Nat) => if fmt = .int32 then (p + q) % 2 ^ 32 else toFp32 ((ofFp32 p).add (ofFp32 q) .rne)
          let k := k.setAcc n (List.zipWith add (k.accElems n) (elemsOf d.toNat 1024 32))
          .ok (done k) v.r.next
def execMacc (u : Uop) (s : State) : Out := uopRun (uMacc u s.mach.tick) s

/-- The formats MOUT writes (R166). -/
def outFmtOk (f : Fmt) : Bool := f != .raw && f != .int64 && f != .mod64
/-- The tile MOUT appends (R166). -/
def outTile (es : List Nat) (o : W64) (f : Fmt) (bank : W64) : Tile :=
  let scale := sext (fld o 11 4) 8
  let rnd := (Rnd.ofCode (if fld o 14 12 = 6 then fld bank 14 12 else fld o 14 12)).getD .rne
  let sat := if fld o 16 15 = 2 then flag bank 15 else fld o 16 15 = 1
  let srcint := flag o 17
  BitVec.ofNat 32768 (packElems f.width (es.map (fun a =>
    let v := (if srcint then Val.ofInt (sext a 32) else ofFp32 a).scale scale
    if f.isInt then
      (if srcint then roundInt (roundToInteger v.toQ rnd) f sat else cvtToInt v f rnd)
    else roundVal v f rnd sat (biasOf bank))))
/-- MOUT (R166, R156). Where several of its fields fail, the accumulator's VRANGE comes before what its queue raises, and that before the
checks of its output: DESIGN CHOICE, the spec gives no order (log 49). -/
def uMout (u : Uop) (t : Nat) (core : Nat) (k : Core) (r : Routine) : URes :=
  let x := r.fl.iss.ctx
  let o := r.reg u.pc
  match accField k r (r.reg u.pa), queueField (r.reg u.pb) true with
  | none, _ => .fault k r (uTrap r cVRANGE 0 0)
  | some _, none => URes.ill k r
  | some a, some (q, _) =>
    let n := k.accOf r a
    let bank := k.queueFmt x q
    let f? := if fld o 3 0 = 0 then some (fmtOf bank) else Fmt.ofCode (fld o 3 0)
    match r.resv.find? (fun d => d.q == q) with
    | none => URes.ill k r
    | some d =>
      let r' := { r with resv := r.resv.erase d }.next
      if fld o 63 18 ≠ 0 ∨ fld o 14 12 = 7 ∨ fld o 16 15 = 3 then URes.ill k r
      else if r.void then
        (if k.badAcc n false then URes.soft k r 3
         else .ok (((k.promoteAcc n).put core r.fl d .void 0 (some r.seq)).incAc t 0x91) r')
      else match f? with
        | none => URes.ill k r
        | some f =>
          if outFmtOk f = false ∨ f ≠ fmtOf bank then URes.ill k r
          else if k.badAcc n true then URes.soft k r 3
          else
            let k := k.promoteAcc n
            .ok ((k.put core r.fl d .present (outTile (k.accElems n) o f bank) (some r.seq)).incAc t 0x91 |>.incAc t 0x79) r'
def execMout (u : Uop) (s : State) : Out := uopRun (uMout u s.mach.tick) s

/-- MWBL (R167). -/
def uMwbl (u : Uop) (t : Nat) (_ : Nat) (k : Core) (r : Routine) : URes :=
  let b := r.reg u.pb
  if fld b 7 6 ≠ 0 then URes.ill k r
  else match uRead k r t (r.reg u.pa) (bitAt u.flags.toNat 0) with
    | .error e => e
    | .ok v => .ok (v.k.startFetch t v none (fld b 5 0) (flag b 14)) (v.r.stepField u.pb 0 6 (fld b 13 8)).next
def execMwbl (u : Uop) (s : State) : Out := uopRun (uMwbl u s.mach.tick) s

/-- MSETK (R168). -/
def uMsetk (u : Uop) (_ : Nat) (k : Core) (r : Routine) : URes :=
  let n := if bitAt u.flags.toNat 0 then fld (r.reg u.pa) 4 0 else u.imm.toNat % 65536
  if n > 16 then URes.ill k r else .ok k { r with kcount := n }.next
def execMsetk (u : Uop) (s : State) : Out := uopRun (uMsetk u) s
/-- MLOOP (R169). -/
def uMloop (u : Uop) (_ : Nat) (k : Core) (r : Routine) : URes :=
  if r.loops.length ≥ 4 then URes.ill k r else .ok k { r with loops := u.imm.toNat % 65536 :: r.loops }.next
def execMloop (u : Uop) (s : State) : Out := uopRun (uMloop u) s
/-- MEND (R169). -/
def uMend (u : Uop) (_ : Nat) (k : Core) (r : Routine) : URes :=
  match r.loops with
  | [] => URes.ill k r
  | n :: t =>
    if n - 1 ≠ 0 then .ok k { r with loops := (n - 1) :: t, upc := u.imm.toNat % 4096 }
    else .ok k { r with loops := t }.next
def execMend (u : Uop) (s : State) : Out := uopRun (uMend u) s
/-- MBR (R170). -/
def uMbr (u : Uop) (_ : Nat) (k : Core) (r : Routine) : URes :=
  let n := sext (r.reg u.pa).toNat 64
  let c := match u.flags.toNat with
    | 0 => decide (n = 0)
    | 1 => decide (n ≠ 0)
    | 2 => decide (n < 0)
    | _ => decide (n > 0)
  .ok k (if c then { r with upc := u.imm.toNat % 4096 } else r.next)
def execMbr (u : Uop) (s : State) : Out := uopRun (uMbr u) s
/-- MRET (R171): partials promoted, the positions still unfilled VOID; a promotion into an accumulator with an error faults it
(R174). -/
def uMret (_ : Uop) (core : Nat) (k : Core) (r : Routine) : URes :=
  if k.badPromote then URes.soft k r 3 else
  let k := r.resv.foldl (fun k d => k.put core r.fl d .void 0 (some r.seq)) k.promote
  .ok k { r.next with resv := [], mret := true }
def execMret (u : Uop) (s : State) : Out := uopRun (uMret u) s

end Sys2Proof.Machine
end

