-- ==== Sys2Proof/Machine/Matrix.lean ====
section
/-! DEFINITION. Calling and running routines: MCALL (R152), the start and the retirement of a routine (R153, R154), the
sequencer (R171, R172), the fetch channels, and MSLOAD (R177). -/
namespace Sys2Proof.Machine
open Sys2Proof

/-- MCALL (R152): the routine's private registers, its metadata word and its positions go to the routine queue. MDPC is read as it
stood before the bundle (R127; log 42). -/
def mcallEff (g : BitVec 4) (ar : Bool) (n : BitVec 8) (imm : BitVec 18) : Eff := onFocus (fun _ b k =>
  let e := Tab.get REntry.zero k.rtab n.toNat
  let a7 := setField (b.pre.rA 7).toNat 0 18 imm.toNat
  let regs := Tab.set 0 b.pre.a 7 (BitVec.ofNat 64 a7)
  let pc := (b.rC csrMDPC).toNat
  let mw := Tab.get 0 k.ispad (pc / 8)
  let k := k.upd b.ctx (fun c =>
    (c.wC csrMDPC (BitVec.ofNat 64 ((pc + 8) % 0x40000))).onRegs (fun r =>
      r.wA 7 (BitVec.ofNat 64 (setField (r.rA 7).toNat 0 18 imm.toNat))))
  { k with rq := k.rq ++ [⟨⟨.mcall g ar n imm, b⟩, b.seq, n.toNat, e.start, regs, mw, [], 0, fld mw 17 0, none,
      b.destsOf 5, none, false, false, false, false⟩] })
def execMcall (g : BitVec 4) (ar : Bool) (r : BitVec 8) (imm : BitVec 18) (s : State) : Out :=
  runPart (.mcall g ar r imm) (mcallEff g ar r imm) s

/-- Does a faulted routine of the context stand, so that its later ones wait (R153)? -/
def Core.routineFaulted (k : Core) (x seq : Nat) : Bool :=
  let c := k.ctx x
  (c.waiting ++ c.handling.toList).any (fun r => r.parts.any (fun p => match p.routine with
    | some o => decide (o.seq < seq)
    | none => false))
/-- ROUTINE_START (R153): the first routine that has not started becomes the running one; a controller's call waits for no faulted
routine, since it is of no context. -/
def routineStart (k : Core) : Option Core :=
  if k.running.isSome then none
  else match k.rq.find? (fun r => !r.started) with
    | none => none
    | some r =>
      if !r.ctrl && k.routineFaulted r.fl.iss.ctx r.seq then none
      else
        let k := k.setRoutine { r with started := true }
        some (if r.fl.iss.redo then k else k.inc 0x96 1)
def execRoutineStart (core : Nat) (s : State) : Out := coreStep core routineStart s

/-- STAGE_FETCH_DONE (R172): the tile is in its stage or block, the read is complete. Fetches into one stage, or into the
weight buffer, finish in order. -/
def fetchDone (idx : Nat) (k : Core) : Option Core :=
  match k.fetches[idx]? with
  | none => none
  | some f =>
    if (k.fetches.take idx).any (fun g => decide (g.stage = f.stage)) then none
    else
      let k := { k with fetches := dropNth k.fetches idx }
      let k := k.doneRead f.tag f.read.q f.read.pos
      if f.void then some k
      else match f.stage with
        | some st =>
          let g := k.stage st
          some (k.setStage st { g with tiles := g.tiles ++ [(f.data, f.fmt)] })
        | none =>
          if f.books then
            some { k with books := (List.range (64 - f.block)).foldl (fun t i =>
              Tab.set 0 t (f.block + i) (BitVec.ofNat 256 (elemAt f.data.toNat i 256))) k.books }
          else
            some { k with blocks := Tab.set 0 k.blocks f.block f.data, wtags := Tab.set 0 k.wtags f.block (f.fmt &&& 0xFFF ||| 0x10000), poisoned := k.poisoned.filter (fun e => e != (.wblock, f.block)) }
def execStageFetchDone (core idx : Nat) (s : State) : Out := coreStep core (fetchDone idx) s

/-- An append of a routine is on its way to the far end of a splice. -/
def Core.appending (k : Core) (r : Routine) : Bool :=
  k.out.any (fun m => match m with
    | .append _ src _ pos _ _ _ _ => decide (src.ctx = r.fl.iss.ctx) && (r.fl.iss.destsOf 5).any (fun d => d.q == src.q && d.pos == pos)
    | _ => false)
/-- ROUTINE_RETIRE (R154): after its MRET, its fetches and its appends. -/
def routineRetire (idx : Nat) (k : Core) : Option Core :=
  match k.rq[idx]? with
  | none => none
  | some r =>
    if r.mret = false ∨ k.fetches.any (fun f => decide (f.seq = r.seq)) = true ∨
        k.fills.any (fun f => decide (f.seq = some r.seq)) = true ∨ k.appending r = true then none
    else some (({ k with rq := dropNth k.rq idx }).retire r.fl)
def execRoutineRetire (core idx : Nat) (s : State) : Out := coreStep core (routineRetire idx) s

/-! ### The sequencer -/

/-- A micro-op of the running routine. -/
def uopExec (i : Instr) (s : State) : Option Out :=
  match i with
  | .mzero u => some (execMzero u s)
  | .mlda u => some (execMlda u s)
  | .mldb u => some (execMldb u s)
  | .mmac u => some (execMmac u s)
  | .mpromo u => some (execMpromo u s)
  | .macc u => some (execMacc u s)
  | .mout u => some (execMout u s)
  | .mwbl u => some (execMwbl u s)
  | .msetk u => some (execMsetk u s)
  | .mloop u => some (execMloop u s)
  | .mend u => some (execMend u s)
  | .mbr u => some (execMbr u s)
  | .mret u => some (execMret u s)
  | _ => none
/-- The routine runs past its last word, or meets a word that is no micro-op: ILLSLOT (R171). -/
def uPastEnd (s : State) : Out := uopRun (fun _ k r => URes.ill k r) s
/-- What a controller leaves in the places it holds: ACC0 and ACC1 of its owner's window, weight-buffer blocks 56 to 63, its slots and
their FMT registers. The spec says that it overwrites them, not with what: free (R267; log 10). -/
def Core.rlcSpoil (k : Core) (t x : Nat) : Core :=
  let ab := (k.ctx x).abase
  let v := Config.rlcTile t
  let k := { k with
    acc := [0, 1].foldl (fun a i => Tab.set 0 a (ab + i) (v i)) k.acc
    blocks := (List.range 8).foldl (fun a i => Tab.set 0 a (56 + i) (v (2 + i))) k.blocks
    wtags := (List.range 8).foldl (fun a i => Tab.set 0 a (56 + i) (.ofNat 64 ((v (10 + i)).toNat % 2 ^ 17))) k.wtags
    poisoned := k.poisoned.filter (fun e => decide ((e.1 ≠ ErrPlace.acc ∨ e.2 < ab ∨ e.2 > ab + 1) ∧ (e.1 ≠ ErrPlace.wblock ∨ e.2 < 56))) }
  match k.rlcSlots with
  | none => k
  | some b =>
    let k := (List.range 32).foldl (fun (k : Core) i => { k.soundSlot (b + i) with spad := Tab.set 0 k.spad (b + i) (v (18 + i)) }) k
    [0, 1].foldl (fun (k : Core) i => k.wC (0x80 + b / 16 + i) (.ofNat 64 ((v (50 + i)).toNat % 2 ^ 16))) k
/-- A controller's routine runs to its end: its micro-ops are the implementation's own (R372). -/
def Core.ctrlRun (k : Core) (t : Nat) (r : Routine) : Core :=
  (((k.rlcSpoil t r.fl.iss.ctx).incAc t 0x90).incAc t 0x91).setRoutine { r with mret := true }
/-- The sequencer of the core in focus takes the running routine's next word. A routine that stood faulted while an MSLOAD replaced
its entry goes on under the entry as it stands now (R174, R177; log 46). -/
def seqStep (s : State) : Out :=
  let k := s.mach.core s.mach.focusCore
  match k.running with
  | none => stepMach s s.mach
  | some r =>
    let e := Tab.get REntry.zero k.rtab r.routine
    if r.ctrl then stepMach s (s.mach.setCore s.mach.focusCore (k.ctrlRun s.mach.tick r))
    else if r.upc < e.start ∨ r.upc ≥ e.start + e.nwords then uPastEnd s
    else match decodeUop (Tab.get 0 k.ustore r.upc) with
      | .ok (some i) => (uopExec i s).getD (uPastEnd s)
      | _ => uPastEnd s
where
  /-- A step that changes no memory. -/
  stepMach (s : State) (m : Mach) : Out := .next { s with mach := m.ticked }

/-! ### MSLOAD (R177) -/

/-- Words of an image. -/
def wordsOf (bs : List Byte) (n : Nat) : List W64 :=
  (List.range n).map (fun i => BitVec.ofNat 64 (leNat ((bs.drop (8 * i)).take 8)))
/-- R42 and R168 to R170 for word `i` of a load at `start` of `n` words. -/
def uwordOk (start n i : Nat) (w : W64) : Bool :=
  let target := fun (t : Nat) => decide (start ≤ t ∧ t < start + n)
  match decodeUop w with
  | .ok (some (.msetk u)) => decide (u.imm.toNat ≤ 16)
  | .ok (some (.mend u)) => target u.imm.toNat && decide (u.imm.toNat ≤ start + i)
  | .ok (some (.mbr u)) => target u.imm.toNat && decide (u.imm.toNat > start + i)
  | .ok (some _) => true
  | _ => false
/-- The image header. -/
structure MsHead where
  routine : Nat
  start : Nat
  nwords : Nat
  outa : Nat
  outac : Nat
  outb : Nat
  outbc : Nat
  zero : Bool
  deriving DecidableEq, Repr
def msHead (bs : List Byte) : MsHead :=
  let w := leNat (bs.take 8)
  let f := fun h l => bitsOf w h l
  ⟨f 7 0, f 19 8, f 31 20, f 34 32, f 40 35, f 43 41, f 49 44, decide (f 63 50 = 0) && (bs.drop 8).all (· = 0)⟩
/-- Does the load overlap the words of another valid entry? -/
def Core.overlaps (k : Core) (h : MsHead) : Bool :=
  (List.range 256).any (fun n =>
    let e := Tab.get REntry.zero k.rtab n
    decide (n ≠ h.routine) && e.valid && decide (e.start < h.start + h.nwords ∧ h.start < e.start + e.nwords))
/-- The first failure of MSLOAD, as 2^63 less: code + 256 × i. -/
def msCheck (k : Core) (h : MsHead) (ws : List W64) : Option Nat :=
  if h.zero = false ∨ h.nwords > 2048 ∨ (h.outac ≠ 0 ∧ h.outbc ≠ 0 ∧ h.outa = h.outb) then some 1
  else if h.routine < 0x80 then some 2
  else if h.nwords = 0 then none
  else if h.start < 2048 ∨ h.start + h.nwords > 4096 then some 3
  else if k.overlaps h then some 4
  else (firstBelow h.nwords (fun i => !uwordOk h.start h.nwords i (ws.getD i 0))).map (fun i => 5 + 256 * i)
/-- The words and the entry written. -/
def msWrite (h : MsHead) (ws : List W64) (k : Core) : Core :=
  if h.nwords = 0 then { k with rtab := Tab.set REntry.zero k.rtab h.routine REntry.zero }
  else
    let st := (List.range h.nwords).foldl (fun t i => Tab.set 0 t (h.start + i) (ws.getD i 0)) k.ustore
    { k with ustore := st, rtab := Tab.set REntry.zero k.rtab h.routine ⟨true, false, h.start, h.nwords, h.outa, h.outac, h.outb, h.outbc⟩, poisoned := k.poisoned.filter (fun e => decide (e.1 ≠ .micro ∨ e.2 < h.start ∨ e.2 ≥ h.start + h.nwords)) }
/-- MSLOAD (R177): the load is made once the routine queue holds no routine. -/
def execMsload (p : Part) (s : State) : Out :=
  runPart (.msload p) (onFocus (fun _ b k => k.sysWait ⟨.msload p, b⟩)) s
/-- MSLOAD completes. An image whose header fails BADHDR or BADIDX is refused before its words are read; a word without a translation
raises XLATE before BADRANGE, OVERLAP and BADWORD are tested (R177; log 46). -/
def msloadFinish (core x : Nat) (fl : Flight) (p : Part) (s : State) : Option State :=
  let k := s.mach.core core
  if k.rq ≠ [] then none
  else
    let va := (scalarOp fl.iss.pre (k.ctx x).cbank p.cw p.cw.src1).toNat
    let rd := fun (a n : Nat) => readVa s (agentOf core) fl.iss.asid a n accRead
    match rd va 64 with
    | .error (a, r) => some (waitFault core fl (xlateTrap 1 false r a) s)
    | .ok hd =>
      let h := msHead hd
      let n := if msCheck k { h with nwords := 0 } [] = none ∧ h.nwords ≤ 2048 then h.nwords else 0
      match rd (va + 64) (8 * n) with
      | .error (a, r) => some (waitFault core fl (xlateTrap 1 false r a) s)
      | .ok bs => match softAt s core fl.iss.asid [(va, 64 + 8 * n)] with
        | some a => some ((waitFault core fl (softTrap 1 a) s).noteLostAt core fl.iss.asid a)
        | none =>
          s.transfer core fl.iss.asid (waitHolder core) fl.iss.seq [(.read 0, [(va, 64 + 8 * n)])] (fun s =>
            let ws := wordsOf bs n
            some (waitDone core x (if (msCheck k h ws).isNone then msWrite h ws else (fun k => k))
              (match msCheck k h ws with
               | some c => .error c
               | none => .ok (.ofNat 64 h.start)) (s.reads core fl.iss.asid 0 [(va, 64 + 8 * n)])))

end Sys2Proof.Machine
end

