-- ==== Sys2Proof/Machine/Front.lean ====
section
/-! DEFINITION. The front end (R280 to R288): the queue table, polling, the reading of launch and graph descriptors and of
kernel records (R289, R290, R293, R340 to R342), the validation of batches, and the packets. -/
namespace Sys2Proof.Machine
open Sys2Proof

/-! ### What the front end reads -/

/-- Words at a virtual address of a tenant; none where a byte has no translation, or cannot be read (R286, R311; log 23).
The front end translates with the tables of die 0 (log 23). -/
def feWords (s : State) (asid va n : Nat) : Option (List W64) :=
  match readVa s feAgent asid va (8 * n) accRead with
  | .error _ => none
  | .ok bs => if (softAt s 0 asid [(va, 8 * n)]).isSome then none else some (wordsOf bs n)
/-- Word `i` of a list. -/
def wordAt (ws : List W64) (i : Nat) : W64 := ws.getD i 0
/-- `n` words from word `i` on. -/
def wordsAt (ws : List W64) (i n : Nat) : List W64 := (ws.drop i).take n
/-- A 56-bit address that is a multiple of `m`. -/
def addrOk (a : W64) (m : Nat) : Bool := decide (a.toNat < 2 ^ 56 ∧ a.toNat % m = 0)

/-! ### Launch descriptors (R289, R290) -/

/-- A context record. -/
def ctxRecOf (ws : List W64) : CtxRec :=
  let w := wordAt ws
  ⟨flag (w 0) 0, flag (w 0) 1, .ofNat 4 (fld (w 0) 5 2), .ofNat 64 (fld (w 0) 23 6), fld (w 0) 33 24, fld (w 0) 38 34,
    (List.range 4).map (fun i => .ofNat 64 (fld (w (1 + i)) 24 0)), fld (w 4) 48 25, wordsAt ws 5 8⟩
/-- A context record that breaks R290. -/
def ctxRecBad (ws : List W64) : Bool :=
  let w := wordAt ws
  let r := ctxRecOf ws
  if !r.bind then ws.any (· ≠ 0)
  else
    decide ((w 0).toNat ≥ 2 ^ 39 ∨ r.pc.toNat % 8 ≠ 0 ∨ r.vcount % 8 ≠ 0 ∨ r.vcount > 640 ∨ r.acount > 16 ∨
      (w 4).toNat ≥ 2 ^ 49) || [1, 2, 3].any (fun i => decide ((w i).toNat ≥ 2 ^ 25)) ||
    (flag (w 4) 24 && decide (r.members = 0)) || (ws.drop 13).any (· ≠ 0)
/-- The record of a core: eight words, then sixteen for each context. -/
def lcoreOf (ws : List W64) : LCore :=
  ⟨fld (wordAt ws 0) 9 0, ctxNums.map (fun c => ctxRecOf (wordsAt ws (8 + 16 * c) 16))⟩
def lcoreBad (ws : List W64) : Bool :=
  decide ((wordAt ws 0).toNat ≥ 640) || (wordsAt ws 1 7).any (· ≠ 0) ||
  ctxNums.any (fun c => ctxRecBad (wordsAt ws (8 + 16 * c) 16))
/-- A header, with its cores, that breaks R289 or R290. -/
def launchBad (hd : List W64) (cs : List (List W64)) : Bool :=
  let w := wordAt hd
  let nos := cs.map (fun c => (lcoreOf c).core)
  !addrOk (w 0) 64 || decide ((w 1).toNat ≥ 3072) || !addrOk (w 2) 64 || !addrOk (w 3) (2 ^ 21) ||
  (hd.drop 4).any (· ≠ 0) || cs.any lcoreBad ||
  (List.range nos.length).any (fun i => (nos.take i).contains (nos.getD i 0))

/-! ### Kernel records (R340 to R342) -/

/-- Fields of an image descriptor. -/
def imgHalf (d : List W64) : Nat := fld (wordAt d 0) 32 32
def imgLen (d : List W64) : Nat := fld (wordAt d 2) 17 0
def imgMdpc (d : List W64) : Nat := fld (wordAt d 2) 35 18
def imgRout (d : List W64) : Nat := fld (wordAt d 7) 7 0
def imgRoutAt (d : List W64) (i : Nat) : Nat := (wordAt d 5).toNat + (64 + 8 * 2048) * i
/-- An image descriptor that breaks R340. -/
def imgBad (d : List W64) : Bool :=
  let w := wordAt d
  decide (fld (w 0) 31 27 ≠ 0 ∨ fld (w 0) 63 33 ≠ 0 ∨ imgLen d % 8 ≠ 0 ∨ imgLen d < 8 ∨ imgLen d > 131072 ∨
    (w 2).toNat ≥ 2 ^ 36 ∨ imgMdpc d / 0x20000 ≠ imgHalf d ∨ (w 7).toNat > 128) ||
  [1, 3, 4, 5, 6].any (fun i => !addrOk (w i) 64)
/-- R341: the image matches the device. -/
def imgMatches (m : Mach) (d : List W64) : Bool :=
  let w := wordAt d 0
  decide (fld w 7 0 = 2 ∧ fld w 15 8 ≤ m.minor.toNat ∧ (fld w 23 16 = 0xFF ∨ fld w 23 16 = m.stepping.toNat)) &&
  (List.range 3).all (fun b => !flag w (24 + b) || bitAt m.features b)
/-- The order of R341: highest MINOR, then most features; the earlier of equals stands. -/
def imgBetter (a b : List W64) : Bool :=
  let r := fun (d : List W64) => fld (wordAt d 0) 15 8 * 4 + popCount (fld (wordAt d 0) 26 24) 3
  decide (r b > r a)
/-- The image chosen (R341). -/
def chooseImg (m : Mach) (imgs : List (List W64)) : Option (List W64) :=
  match imgs.filter (imgMatches m) with
  | [] => none
  | d :: t => some (t.foldl (fun a b => if imgBetter a b then b else a) d)

/-- Entries of the launch table. -/
def ltabFmt (t : List W64) (n : Nat) : Option W64 :=
  let e := wordAt t n
  if flag e 16 then some (e &&& 0xFFFF) else none
def ltabQueue (t : List W64) (q : Nat) : Option (Nat × Nat) :=
  let e := wordAt t (16 + q)
  if flag e 0 then some (fld e 3 1, fld e 11 4) else none
/-- What FMTn will hold on a core once the launch is bound (R294, R343). -/
def fmtAfter (t : List W64) (asid : Nat) (k : Core) (n : Nat) : W64 :=
  match ltabFmt t n with
  | some v => v
  | none => if k.lastUser = some asid then k.fmtReg n else 0
/-- A queue entry that QALLOC would refuse on a core: capacity, base, slots taken by another entry, mixed formats (R102). -/
def ltabQueueBad (t : List W64) (asid : Nat) (k : Core) (q : Nat) : Bool :=
  match ltabQueue t q with
  | none => false
  | some (lc, base) =>
    let cap := 2 ^ lc
    decide (lc = 0 ∨ base % cap ≠ 0 ∨ base + cap > 256) ||
    (List.range q).any (fun r => match ltabQueue t r with
      | some (l, b) => decide (b < base + cap ∧ base < b + 2 ^ l)
      | none => false) ||
    (List.range cap).any (fun i => fmtAfter t asid k ((base + i) / 16) ≠ fmtAfter t asid k (base / 16))
/-- A launch table that breaks R340, or holds a value that R116 or R102 refuses (R342). -/
def ltabBad (m : Mach) (asid : Nat) (t : List W64) (cs : List LCore) : Bool :=
  (List.range 16).any (fun n => decide ((wordAt t n).toNat ≥ 2 ^ 17) || (match ltabFmt t n with
    | some v => decide (fld v 3 0 ≥ 12 ∨ fld v 14 12 ≥ 6)
    | none => false)) ||
  (List.range 8).any (fun q => decide ((wordAt t (16 + q)).toNat ≥ 2 ^ 12)) ||
  cs.any (fun c => (List.range 8).any (ltabQueueBad t asid (m.core c.core)))
/-- The MSLOAD images of an image in order, on top of `k`: 9 where one has no translation, 7 where MSLOAD would refuse one
(R177, R342). -/
def loadRoutines (s : State) (asid : Nat) (d : List W64) : Nat → Core → Except Nat Core
  | 0, k => .ok k
  | n + 1, k => match loadRoutines s asid d n k with
    | .error c => .error c
    | .ok k =>
      let a := imgRoutAt d n
      match readVa s feAgent asid a 64 accRead with
      | .error _ => .error 9
      | .ok hd =>
        let h := msHead hd
        match feWords s asid (a + 64) (if h.nwords ≤ 2048 then h.nwords else 0) with
        | none => .error 9
        | some ws => match msCheck k h ws with
          | some _ => .error 7
          | none => .ok (msWrite h ws k)

/-- Pieces of `n` words. -/
def chunks (n : Nat) : Nat → List W64 → List (List W64)
  | 0, _ => []
  | c + 1, ws => ws.take n :: chunks n c (ws.drop n)
/-- A launch descriptor with its kernel record: the reading first (9), of as many cores and images as its counts say, then the
fields, the choice and the record checks (7) (R286 steps 3 and 4). -/
def readLaunch (s : State) (asid desc : Nat) : Except Nat Plan :=
  match feWords s asid desc 8 with
  | none => .error 9
  | some hd =>
    let n := fld (wordAt hd 1) 9 0
    let ker := fld (wordAt hd 0) 55 0
    match feWords s asid (desc + 64) (72 * n), feWords s asid ker 8 with
      | some body, some rh =>
        let nimg := fld (wordAt rh 0) 3 0
        match feWords s asid (ker + 64) (8 * nimg) with
          | none => .error 9
          | some ib =>
            let cs := chunks 72 n body
            let imgs := chunks 8 nimg ib
            let cores := cs.map lcoreOf
            if n = 0 ∨ n > 640 ∨ nimg = 0 ∨ nimg > 8 ∨ desc % 256 ≠ 0 ∨ launchBad hd cs = true ∨ (wordAt rh 0).toNat ≥ 16 ∨ (rh.drop 1).any (· ≠ 0) = true ∨
                imgs.any imgBad = true then .error 7
            else match chooseImg s.mach imgs with
              | none => .error 7
              | some d =>
                let ok := fun (a len : Nat) => (firstUnmapped s feAgent asid a len accRead).isNone
                if !(ok (wordAt d 1).toNat (imgLen d) && ok (wordAt d 3).toNat 16384 && ok (wordAt d 4).toNat 4096) then
                  .error 9
                else match feWords s asid (wordAt d 6).toNat 24, loadRoutines s asid d (imgRout d) Core.zero with
                  | none, _ => .error 9
                  | _, .error c => .error c
                  | some lt, .ok _ =>
                    if ltabBad s.mach asid lt cores then .error 7
                    else .ok ⟨fld (wordAt hd 1) 11 10, (wordAt hd 2).toNat, (wordAt hd 3).toNat, d, lt, cores⟩
      | _, _ => .error 9

/-! ### Checks against the device (R286 step 5) -/

/-- The bound contexts of a launch: core, context, record. -/
def Plan.bound (p : Plan) : List (Nat × Nat × CtxRec) :=
  p.cores.flatMap (fun l => (ctxNums.map (fun x => (l.core, x, l.ctxs.getD x (ctxRecOf [])))).filter (fun r => r.2.2.bind))
/-- The identifier of a record at a level of 2 to 5, if VALID. -/
def CtxRec.id (r : CtxRec) (n : Nat) : Option Nat :=
  let d := wordAt r.dom (n - 2)
  if flag d 24 then some (fld d 23 0) else none
/-- Are two contexts in one domain at a level (R80)? -/
def together (a b : Nat × Nat × CtxRec) (n : Nat) : Bool :=
  if n = 1 then decide (a.1 = b.1) && a.2.2.mask.getLsbD b.2.1
  else match a.2.2.id n, b.2.2.id n with
    | some i, some j => decide (i = j)
    | _, _ => false
/-- Two contexts break the rules of memberships: one domain wider than a unit of its level (2 a cluster, 3 a die), level-1
masks that differ, or domains that do not nest (R80, R291). -/
def pairBad (a b : Nat × Nat × CtxRec) : Bool :=
  (together a b 1 && decide (a.2.2.mask ≠ b.2.2.mask)) ||
  (together a b 2 && decide (clusterOf a.1 ≠ clusterOf b.1)) || (together a b 3 && decide (dieOf a.1 ≠ dieOf b.1)) ||
  [1, 2, 3, 4].any (fun n => together a b n && [2, 3, 4, 5].any (fun m =>
    decide (n < m) && (a.2.2.id m).isSome && (b.2.2.id m).isSome && !together a b m))
/-- The first check against the device that fails: 5 NOTOWNER, 6 NOFIT, 8 BADDOMAIN. -/
def Plan.refused (p : Plan) (m : Mach) (asid : Nat) : Option Nat :=
  let sum := fun (l : LCore) (f : CtxRec → Nat) => ((l.ctxs.filter (fun r => r.bind)).map f).sum
  let cs := p.bound
  if p.cores.any (fun l => decide ((m.core l.core).owner ≠ some asid)) then some 5
  else if p.cores.any (fun l => decide (sum l (fun r => r.vcount) > 640 ∨ sum l (fun r => r.acount) > 16)) then some 6
  else if cs.any (fun a => !a.2.2.mask.getLsbD a.2.1 || cs.any (pairBad a)) then some 8
  else none

/-! ### Graph descriptors (R293) -/

/-- The node of four words. -/
def nodeOf (ws : List W64) (p : Plan) : GNode :=
  let w := wordAt ws 2
  ⟨p, fld (wordAt ws 1) 55 0, (List.range (fld w 2 0)).map (fun i => fld w (15 + 8 * i) (8 + 8 * i))⟩
/-- The reading of every node's launch; of several errors, the one of the earliest step of R286. -/
def readNodes (s : State) (asid : Nat) (ns : List (List W64)) : Except Nat (List GNode) :=
  let rs := ns.map (fun n => (n, readLaunch s asid (fld (wordAt n 0) 55 0)))
  let errs := rs.filterMap (fun r => match r.2 with
    | .error c => some c
    | .ok _ => none)
  if errs = [] then .ok (rs.filterMap (fun r => match r.2 with
    | .ok p => some (nodeOf r.1 p)
    | .error _ => none))
  else .error (if errs.contains 9 then 9 else 7)
/-- A graph descriptor. -/
def readGraph (s : State) (asid desc : Nat) : Except Nat GPlan :=
  match feWords s asid desc 8 with
  | none => .error 9
  | some hd =>
    let n := fld (wordAt hd 0) 8 0
    match feWords s asid (desc + 64) (4 * n) with
      | none => .error 9
      | some body =>
        let ns := chunks 4 n body
        let runs := fld (wordAt hd 1) 15 0
        let st := fld (wordAt hd 2) 55 0
        let entry := fld (wordAt hd 0) 16 9
        let bad := decide (n = 0 ∨ n > 256 ∨ entry ≥ n ∨ runs = 0 ∨ st % 8 ≠ 0) || ns.any (fun w =>
          let k := fld (wordAt w 2) 2 0
          decide (fld (wordAt w 1) 55 0 % 8 ≠ 0 ∨ k > 4) ||
          (List.range k).any (fun i => decide (fld (wordAt w 2) (15 + 8 * i) (8 + 8 * i) ≥ n)))
        match readNodes s asid ns with
        | .error 9 => .error 9
        | .error c => .error c
        | .ok g => if bad then .error 7 else .ok ⟨g, entry, runs, st⟩
/-- The first failure of a graph's nodes against the device. -/
def GPlan.refused (g : GPlan) (m : Mach) (asid : Nat) : Option Nat :=
  let cs := g.nodes.filterMap (fun n => n.plan.refused m asid)
  [5, 6, 8].find? (fun c => cs.contains c)

/-! ### Batches (R286) -/

/-- What validation brings in: packets after expansion, buffers by address and count, plans, graphs by address. -/
structure Got where
  cnt : Nat
  bufs : List (Nat × Nat × List Instr)
  plans : List (Nat × Plan)
  graphs : List (Nat × GPlan)
  deriving DecidableEq, Repr
def Got.none : Got := ⟨0, [], [], []⟩
def Got.join (a b : Got) : Got := ⟨a.cnt + b.cnt, a.bufs ++ b.bufs, a.plans ++ b.plans, a.graphs ++ b.graphs⟩
/-- A packet's own bits as R286 numbers their failures. -/
def pktOf (host : BitVec 1) (q : BitVec 6) (ws : List W64) : Except Nat Instr :=
  match decodePkt host q ws with
  | .ok i => .ok i
  | .error .badType => .error 1
  | .error .badField => .error 2
/-- The step of R286 at which a code is found. -/
def failStep (c : Nat) : Nat :=
  match c with
  | 1 => 1
  | 2 => 1
  | 3 => 2
  | 4 => 2
  | 9 => 3
  | 7 => 4
  | _ => 5
/-- Of the failures found within one packet and what it brings in, the one of the earliest step; of one step, the first found, and
of nesting and length, and the checks against the device, the one that R286 names first. -/
def firstCode (l : List Nat) : Option Nat :=
  let at' := fun (n : Nat) => l.filter (fun c => failStep c == n)
  match (List.range 6).find? (fun n => at' n ≠ []) with
  | none => none
  | some 2 => [3, 4].find? (fun c => l.contains c)
  | some 5 => [5, 6, 8].find? (fun c => l.contains c)
  | some n => (at' n).head?
/-- What a packet or buffer comes to: its failures, in the order they are found, and what it brings in. -/
abbrev Found := List Nat × Got
/-- A LAUNCH, or a GRAPH: its own failure, or the plan read. -/
def foundPlan (s : State) (asid d : Nat) : Found :=
  match readLaunch s asid d with
  | .error c => ([c], ⟨1, [], [], []⟩)
  | .ok p => ((p.refused s.mach asid).toList, ⟨1, [], [(d, p)], []⟩)
def foundGraph (s : State) (asid d : Nat) : Found :=
  match readGraph s asid d with
  | .error c => ([c], ⟨1, [], [], []⟩)
  | .ok g => ((g.refused s.mach asid).toList, ⟨1, [], [], [(d, g)]⟩)
/-- The packets of a batch or buffer in order: every failure with the packet it is found in. `body` packets of a loop with
`trips` are still to come; `inner` says that the whole list stands in a loop body; `tot` counts packets after expansion. Each packet
comes with its index and whether it stands past the 256th of its batch. -/
def valList (s : State) (asid : Nat) (inner : Bool) (nested : Bool → Nat → Nat → Found) :
    List (Nat × Bool × Except Nat Instr) → Nat → Nat → Nat → List (Nat × Nat) × Got
  | [], _, _, _ => ([], Got.none)
  | (idx, late, r) :: t, body, trips, tot =>
    let looped := inner || decide (body > 0)
    let mult := if body > 0 then trips else 1
    let next := fun (f : Found) =>
      let n := mult * f.2.cnt
      let own := f.1 ++ (if late = true ∨ tot + n > 65536 then [4] else [])
      let h := valList s asid inner nested t (body - 1) trips (tot + n)
      (own.map (fun c => (idx, c)) ++ h.1, ({ f.2 with cnt := n } : Got).join h.2)
    match r with
    | .error c => next ([c], ⟨1, [], [], []⟩)
    | .ok i => match i with
      | .beginBatch _ => next ([3], ⟨1, [], [], []⟩)
      | .commitBatch _ => next ([3], ⟨1, [], [], []⟩)
      | .pktLoop _ b n =>
        if looped = true ∨ b.toNat > t.length then next ([3], ⟨1, [], [], []⟩)
        else valList s asid inner nested t b.toNat n.toNat tot
      | .indirectPkt _ a n => next (nested looped a.toNat n.toNat)
      | .launchPkt _ d _ _ => next (foundPlan s asid d.toNat)
      | .graphPkt _ d _ _ => next (foundGraph s asid d.toNat)
      | _ => next ([], ⟨1, [], [], []⟩)
/-- An indirect buffer, with `lvl` levels still allowed. -/
def valBuf (s : State) (host : BitVec 1) (q : BitVec 6) (asid : Nat) : Nat → Bool → Nat → Nat → Found
  | 0, _, _, _ => ([3], Got.none)
  | lvl + 1, looped, a, n =>
    match feWords s asid a (8 * n) with
    | none => ([9], ⟨n, [], [], []⟩)
    | some ws =>
      let ps := (chunks 8 n ws).map (pktOf host q)
      let r := valList s asid looped (valBuf s host q asid lvl) (ps.map (fun p => (0, false, p))) 0 0 0
      (r.1.map (·.2), { r.2 with bufs := (a, n, ps.filterMap (fun p => match p with
        | .ok i => some i
        | .error _ => none)) :: r.2.bufs })
/-- The first failing packet in order, with the code of its failures, or what the batch brings in. -/
def verdict (r : List (Nat × Nat) × Got) : Except (Nat × Nat) Got :=
  match r.1 with
  | [] => .ok r.2
  | (idx, c) :: t => .error (idx, (firstCode (c :: (t.filter (fun e => e.1 == idx)).map (·.2))).getD c)
/-- TYPE and TAG of a packet as fetched. -/
def typeOf (ws : List W64) : Nat := fld (wordAt ws 0) 7 0
def tagOf (ws : List W64) : Nat := fld (wordAt ws 0) 31 16
/-- Does the raw list hold a batch whole: one packet that is no BEGIN, or a BEGIN with its COMMIT? How many packets? -/
def batchLen (raw : List (Nat × List W64)) : Option Nat :=
  match raw with
  | [] => none
  | p :: t => if typeOf p.2 = 1 then (t.findIdx? (fun r => typeOf r.2 = 2)).map (· + 2) else some 1
/-- The packets of a batch with what their own bits say, and which stand past the 256th (R286). -/
def batchItems (host : BitVec 1) (q : BitVec 6) (b : List (Nat × List W64)) : List (Nat × Bool × Except Nat Instr) :=
  (List.range b.length).map (fun j =>
    let r := b.getD j (0, [])
    (r.1, decide (j ≥ 256), pktOf host q r.2))
/-- A whole batch validated. -/
def valBatch (s : State) (host : BitVec 1) (q : BitVec 6) (asid : Nat) (b : List (Nat × List W64)) : Except (Nat × Nat) Got :=
  let go := fun (l : List (Nat × Bool × Except Nat Instr)) (n : Nat) => valList s asid false (valBuf s host q asid 2) l 0 0 n
  match batchItems host q b with
  | (_, _, .ok (.beginBatch _)) :: t =>
    match t.getLast? with
    | some (i, late, .ok (.commitBatch _)) => verdict ((go t.dropLast 2).map (fun l => l ++ if late then [(i, 4)] else []) id)
    | some (i, _, .error c) => verdict ((go t.dropLast 2).map (fun l => l ++ [(i, c)]) id)
    | _ => verdict (go t 1)
  | l => verdict (go l 0)
/-- The ranges that a LAUNCH reads: its descriptor, its kernel record (what an image names is read where it is bound). -/
def launchReads (s : State) (asid d : Nat) : List (Nat × Nat) :=
  let w := fun (a : Nat) => BitVec.ofNat 64 (wordVa s feAgent asid a)
  let ker := fld (w d) 55 0
  [(d, 64 + 576 * fld (w (d + 8)) 9 0), (ker, 64 + 64 * fld (w ker) 3 0)]
/-- The ranges that a packet reads at validation, with `lvl` levels of buffers still allowed. -/
def pktReads (s : State) (host : BitVec 1) (q : BitVec 6) (asid : Nat) : Nat → Except Nat Instr → List (Nat × Nat)
  | 0, _ => []
  | lvl + 1, .ok (.indirectPkt _ a n) => (a.toNat, 64 * n.toNat) :: (match feWords s asid a.toNat (8 * n.toNat) with
    | none => []
    | some ws => (chunks 8 n.toNat ws).flatMap (fun w => pktReads s host q asid lvl (pktOf host q w)))
  | _ + 1, .ok (.launchPkt _ d _ _) => launchReads s asid d.toNat
  | _ + 1, .ok (.graphPkt _ d _ _) =>
    let n := fld (BitVec.ofNat 64 (wordVa s feAgent asid d.toNat)) 8 0
    (d.toNat, 64 + 32 * n) :: (List.range n).flatMap (fun i =>
      launchReads s asid (wordVa s feAgent asid (d.toNat + 64 + 32 * i) % 2 ^ 56))
  | _ + 1, _ => []
/-- The ranges that a batch reads at validation. -/
def batchReads (s : State) (host : BitVec 1) (q : BitVec 6) (asid : Nat) (b : List (Nat × List W64)) : List (Nat × Nat) :=
  (batchItems host q b).flatMap (fun r => pktReads s host q asid 3 r.2.2)

/-! ### Command queues -/

/-- The key of queue `q` of host `h`, the queue, the queue replaced. -/
def feKey (h : BitVec 1) (q : BitVec 6) : Nat := h.toNat * 64 + q.toNat
def Mach.feq (m : Mach) (h : BitVec 1) (q : BitVec 6) : FeQueue := Tab.get FeQueue.zero m.fe (feKey h q)
def Mach.setFeq (m : Mach) (h : BitVec 1) (q : BitVec 6) (f : FeQueue) : Mach :=
  { m with fe := Tab.set FeQueue.zero m.fe (feKey h q) f }
/-- A 64-bit word of a host's memory. -/
def hostWord (s : State) (h : BitVec 1) (a : Nat) : W64 := .ofNat 64 (s.mem.read (2 + h.toNat) a 8)
/-- The queue table entry (R282). -/
def qEntry (s : State) (h : BitVec 1) (q : BitVec 6) : List W64 :=
  let base := fld (s.mach.portReg h.toNat 0x400) 63 12 * 4096 + 32 * q.toNat
  (List.range 4).map (fun i => hostWord s h (base + 8 * i))
/-- The address of packet `i` in the ring (R283). -/
def pktAddr (e : List W64) (i : Nat) : Nat :=
  fld (wordAt e 0) 63 12 * 4096 + 64 * (i % 2 ^ fld (wordAt e 0) 3 0)
/-- The write index less the next index to fetch. -/
def visible (s : State) (h : BitVec 1) (e : List W64) (i : Nat) : Nat :=
  (hostWord s h (wordAt e 1).toNat - .ofNat 64 i).toNat
/-- An entry that R282 disables. -/
def entryDisabled (s : State) (h : BitVec 1) (q : BitVec 6) (e : List W64) : Bool :=
  decide (fld (wordAt e 0) 11 6 ≠ 0 ∨ fld (wordAt e 3) 63 16 ≠ 0 ∨ fld (wordAt e 0) 3 0 < 4 ∨ fld (wordAt e 0) 3 0 > 12 ∨
    Tab.get none s.mach.tenants (fld (wordAt e 3) 15 0) ≠ some h.toNat ∨
    visible s h e (s.mach.feq h q).ridx > 2 ^ fld (wordAt e 0) 3 0)
/-- Is the queue polled: the executive runs, the table is enabled, the entry VALID? -/
def polled (s : State) (h : BitVec 1) (q : BitVec 6) : Bool :=
  flag (s.mach.portReg h.toNat 0x408) 16 && flag (s.mach.portReg h.toNat 0x400) 0 && flag (wordAt (qEntry s h q) 0) 4
/-- FEQERR of a queue set. -/
def Mach.queueError (m : Mach) (h : BitVec 1) (q : BitVec 6) : Mach :=
  m.setPortReg h.toNat 0x410 (m.portReg h.toNat 0x410 ||| .ofNat 64 (2 ^ q.toNat))
/-- The least index that is not past: packets below it have completed or were rejected. -/
def FeQueue.least (f : FeQueue) : Nat := (f.live ++ f.run.map (·.idx) ++ f.raw.map (·.1)).foldl Nat.min f.tail
/-- Readings of batches that are over are dropped. -/
def FeQueue.tidy (f : FeQueue) : FeQueue :=
  let on := fun (b : Nat) => f.run.any (fun p => p.batch == b)
  { f with bufs := f.bufs.filter (fun e => on e.1), plans := f.plans.filter (fun e => on e.1), graphs := f.graphs.filter (fun e => on e.1) }
/-- The queue put back; the read index goes to host memory when it has moved (R283). -/
def putFeq (h : BitVec 1) (q : BitVec 6) (f : FeQueue) (s : State) : State :=
  let f := f.tidy
  let n := f.least
  let m := s.mach.setFeq h q { f with ridx := n }
  if n = f.ridx then { s with mach := m }
  else { mach := m, mem := s.mem.write (2 + h.toNat) (wordAt (qEntry s h q) 2).toNat 8 n }
/-- The error record (R283). -/
def errorRecord (h : BitVec 1) (q : BitVec 6) (idx tag code : Nat) (s : State) : State :=
  let a := (wordAt (qEntry s h q) 2).toNat
  { mach := s.mach.queueError h q, mem := (s.mem.write (2 + h.toNat) (a + 8) 8 idx).write (2 + h.toNat) (a + 16) 8 (tag + code * 65536) }

/-! ### Polling (R280, R283, R288) -/

/-- Packets fetched up to the write index: eight ahead of execution, and a batch that has begun whole. -/
def fetchPkts (s : State) (h : BitVec 1) (e : List W64) (w : Nat) : Nat → FeQueue → FeQueue
  | 0, f => f
  | n + 1, f =>
    let opened := decide (f.raw ≠ []) && (batchLen f.raw).isNone
    if (w + 2 ^ 64 - f.tail % 2 ^ 64) % 2 ^ 64 = 0 ∨ (opened = false ∧ f.raw.length + f.run.length ≥ 8) then f
    else
      let ws := wordsOf (s.mem.bytes (2 + h.toNat) (pktAddr e f.tail) 64) 8
      fetchPkts s h e w n { f with raw := f.raw ++ [(f.tail, ws)], tail := f.tail + 1 }
/-- The batches that are whole, validated one after the other; one whose reading the ports have not moved waits for a later slot
(R256, R348; log 19). -/
def valRaw (h : BitVec 1) (q : BitVec 6) (asid : Nat) : Nat → State → State
  | 0, s => s
  | n + 1, s =>
    let f := s.mach.feq h q
    match batchLen f.raw with
    | none => s
    | some len =>
      let b := f.raw.take len
      let f := { f with raw := f.raw.drop len }
      let first := (b.head?.map (·.1)).getD 0
      let rs := batchReads s h q asid b
      Option.getD (s.transfer 0 asid (queueHolder (feKey h q)) 0 [(.read 0, rs)] (fun s => some (match valBatch s h q asid b with
      | .error (idx, code) =>
        let tag := ((b.find? (fun r => r.1 == idx)).map (fun r => tagOf r.2)).getD 0
        let s := errorRecord h q idx tag code s
        valRaw h q asid n (putFeq h q f { s with mach := s.mach.incPort h.toNat 0x420 1 })
      | .ok g =>
        let ps : List RunPkt := (batchItems h q b).filterMap (fun r => match r.2.2 with
          | .ok i => some ⟨r.1, ((b.find? (fun e => e.1 == r.1)).map (fun e => tagOf e.2)).getD 0, asid, first, none, 0, false, i⟩
          | .error _ => none)
        valRaw h q asid n (putFeq h q { f with run := f.run ++ ps, bufs := f.bufs ++ g.bufs.map (fun e => (first, e)), plans := f.plans ++ g.plans.map (fun e => (first, e)), graphs := f.graphs ++ g.graphs.map (fun e => (first, e)) } s)))) s

/-- The test of a WAITMEM on the word it reads; a word that cannot be read fails it (R285; log 23). -/
def waitHolds (s : State) (asid : Nat) (a mask v : W64) (op : BitVec 2) : Bool :=
  match feWords s asid a.toNat 1 with
  | some [x] =>
    let l := x &&& mask
    let r := v &&& mask
    match op.toNat with
    | 0 => l == r
    | 1 => l != r
    | 2 => decide (l.toNat ≥ r.toNat)
    | _ => decide (l.toNat < r.toNat)
  | _ => false
/-- The head packet leaves; it counts as completed. -/
def popPkt (h : BitVec 1) (q : BitVec 6) (s : State) : State :=
  let f := s.mach.feq h q
  let s := putFeq h q { f with run := f.run.drop 1, since := none } s
  { s with mach := s.mach.incPort h.toNat 0x418 1 }
/-- A WAITMEM that holds its queue reads its word again. -/
def retestWait (h : BitVec 1) (q : BitVec 6) (s : State) : State :=
  let f := s.mach.feq h q
  match f.run, f.since with
  | p :: _, some _ => match p.i with
    | .waitmemPkt _ a m v op _ =>
      Option.getD (s.transfer 0 p.asid (queueHolder (feKey h q)) 1 [(.read 0, [(a.toNat, 8)])] (fun s =>
        some (if waitHolds s p.asid a m v op then popPkt h q s else s))) s
    | _ => s
  | _, _ => s
/-- POLL_SLOT. -/
def pollQueue (h : BitVec 1) (q : BitVec 6) (s : State) : State :=
  let e := qEntry s h q
  if entryDisabled s h q e then { s with mach := s.mach.queueError h q }
  else
    let w := (hostWord s h (wordAt e 1).toNat).toNat
    let f := fetchPkts s h e w 4096 (s.mach.feq h q)
    retestWait h q (valRaw h q (fld (wordAt e 3) 15 0) f.raw.length { s with mach := s.mach.setFeq h q f })
/-- POLL_SLOT (R280, R283). -/
def execPollSlot (h : BitVec 1) (q : BitVec 6) (s : State) : Out :=
  stepState s (if polled s h q then some (pollQueue h q s) else none)

/-! ### Packets (R284, R285, R287) -/

/-- A packet that begins only once every earlier packet of its queue has completed (R287). -/
def fencing (i : Instr) : Bool :=
  match i with
  | .signalPkt .. => true
  | .fetchFence _ => true
  | .pktNop h => h.bar
  | .beginBatch h => h.bar
  | .commitBatch h => h.bar
  | .launchPkt h _ _ _ => h.bar
  | .graphPkt h _ _ _ => h.bar
  | .writePkt h _ _ _ _ _ _ => h.bar
  | .waitmemPkt h _ _ _ _ _ => h.bar
  | .pktLoop h _ _ => h.bar
  | .indirectPkt h _ _ => h.bar
  | _ => false
/-- May the packet at the head of the queue begin: the launch before it is bound, and what it waits for has completed? -/
def FeQueue.mayBegin (f : FeQueue) (i : Instr) : Bool := f.holds.isNone && (!fencing i || decide (f.live = []))
/-- The words of packet `i` of a queue's ring. -/
def ringPkt (s : State) (h : BitVec 1) (q : BitVec 6) (i : Nat) : List W64 :=
  wordsOf (s.mem.bytes (2 + h.toNat) (pktAddr (qEntry s h q) i) 64) 8
/-- A packet read again where it was read before. -/
def refetch (s : State) (h : BitVec 1) (q : BitVec 6) (p : RunPkt) : Except Nat Instr :=
  match p.buf with
  | none => pktOf h q (ringPkt s h q p.idx)
  | some (a, j) => match feWords s p.asid (a + 64 * j) 8 with
    | none => .error 9
    | some ws => pktOf h q ws
/-- What is left of the batch of the packet at the head of a queue. -/
def FeQueue.ownRest (f : FeQueue) (p : RunPkt) : List RunPkt := (f.run.drop 1).takeWhile (fun r => r.batch == p.batch)
/-- What a packet at the head of its queue moves of its tenant's memory as it runs; a FETCHFENCE reads the rest of its batch again. -/
def pktMoves (s : State) (h : BitVec 1) (q : BitVec 6) (p : RunPkt) : List (Move × List (Nat × Nat)) :=
  match p.i with
  | .writePkt _ dst n _ _ _ _ => [(.write, [(dst.toNat, 8 * n.toNat)])]
  | .waitmemPkt _ a _ _ _ _ => [(.read 0, [(a.toNat, 8)])]
  | .signalPkt _ a _ _ _ _ => [(.read 0, [(a.toNat, 8)])]
  | .fetchFence _ => [(.read 0, ((s.mach.feq h q).ownRest p).flatMap (fun r =>
      (r.buf.map (fun e => (e.1 + 64 * e.2, 64))).toList ++ pktReads s h q p.asid (3 - r.lvl) (refetch s h q r)))]
  | _ => []
/-- May a packet of a queue run now: its queue's entry is not disabled and its tenant is the host's (R282)? -/
def pktOk (h : BitVec 1) (q : BitVec 6) (p : RunPkt) (s : State) : Bool :=
  !entryDisabled s h q (qEntry s h q) && decide (Tab.get none s.mach.tenants p.asid = some h.toNat)
/-- The packet at the head of a queue, if it may begin. -/
def headOf (h : BitVec 1) (q : BitVec 6) (s : State) : Option RunPkt :=
  let f := s.mach.feq h q
  match f.run with
  | p :: _ => if f.mayBegin p.i = true ∧ pktOk h q p s = true then some p else none
  | [] => none
/-- Would it go on if it ran now: its ranges' homes serve (R348), and it is not waiting for ports (R256)? -/
def headGoes (h : BitVec 1) (q : BitVec 6) (s : State) (p : RunPkt) : Bool :=
  s.mach.maySend (queueHolder (feKey h q)) 1 && !(pktMoves s h q p).any (fun e => s.sleeps feAgent p.asid e.2)
/-- A packet runs once it is at the head of its queue, may begin, and the ports have moved what it moves (R256); until then nothing
happens (log 14). -/
def pktRun (h : PktHdr) (i : Instr) (f : RunPkt → State → State) (s : State) : Out :=
  stepState s (((headOf h.host h.queue s).filter (fun p => decide (p.i = i))).bind (fun p =>
    s.transfer 0 p.asid (queueHolder (feKey h.host h.queue)) 1 (pktMoves s h.host h.queue p) (fun s => some (f p s))))
/-- A packet that completes as it begins. -/
def pktNow (h : PktHdr) (i : Instr) (f : RunPkt → State → State) (s : State) : Out :=
  pktRun h i (fun p s => popPkt h.host h.queue (f p s)) s

/-- NOP. -/
def execPktNop (h : PktHdr) (s : State) : Out := pktNow h (.pktNop h) (fun _ s => s) s
/-- BEGIN of a validated batch. -/
def execBeginBatch (h : PktHdr) (s : State) : Out := pktNow h (.beginBatch h) (fun _ s => s) s
/-- COMMIT of a validated batch. -/
def execCommitBatch (h : PktHdr) (s : State) : Out := pktNow h (.commitBatch h) (fun _ s => s) s
/-- WRITE: its values at consecutive addresses. A store without a translation is not performed (log 23), nor one that no port
reaches (R327). -/
def execWritePkt (h : PktHdr) (dst : W64) (cnt : BitVec 3) (v0 v1 v2 v3 : W64) (s : State) : Out :=
  pktNow h (.writePkt h dst cnt v0 v1 v2 v3) (fun p s =>
    storeRuns s 0 p.asid dst.toNat (([v0, v1, v2, v3].take cnt.toNat).flatMap (fun v => leBytes v.toNat 8)) 0) s
/-- WAITMEM: it begins, and reads its word. -/
def execWaitmemPkt (h : PktHdr) (a m v : W64) (op : BitVec 2) (tmo : BitVec 32) (s : State) : Out :=
  pktRun h (.waitmemPkt h a m v op tmo) (fun p s =>
    let f := s.mach.feq h.host h.queue
    let since := f.since.getD s.mach.usec
    if waitHolds s p.asid a m v op then popPkt h.host h.queue s
    else { s with mach := s.mach.setFeq h.host h.queue { f with since := some since } }) s
/-- The rest of a batch is skipped. -/
def FeQueue.dropBatch (f : FeQueue) (b : Nat) : FeQueue :=
  { f with run := f.run.dropWhile (fun p => p.batch == b), since := none }
/-- WAITMEM_TIMEOUT (R285): TIMEOUT µs have passed since the WAITMEM at the head began. -/
def waitTimeout (h : BitVec 1) (q : BitVec 6) (s : State) : Option State :=
  let f := s.mach.feq h q
  match f.run, f.since with
  | p :: _, some t => match p.i with
    | .waitmemPkt _ _ _ _ _ tmo =>
      if tmo = 0 ∨ s.mach.usec < t + tmo.toNat then none
      else
        let s := putFeq h q (f.dropBatch p.batch) (errorRecord h q p.idx p.tag 10 s)
        some { s with mach := s.mach.dropPorts (queueHolder (feKey h q)) 1 }
    | _ => none
  | _, _ => none
def execWaitmemTimeout (h : BitVec 1) (q : BitVec 6) (s : State) : Out := stepState s (waitTimeout h q s)
/-- PKT_LOOP: the BODY packets that follow run TRIPS times. -/
def execPktLoop (h : PktHdr) (body : BitVec 6) (trips : BitVec 16) (s : State) : Out :=
  pktRun h (.pktLoop h body trips) (fun p s =>
    let f := s.mach.feq h.host h.queue
    let rest := f.run.drop 1
    let l := (List.replicate trips.toNat ((rest.take body.toNat).map (fun r => { r with looped := true }))).flatten
    popPkt h.host h.queue { s with mach := s.mach.setFeq h.host h.queue { f with run := p :: (l ++ rest.drop body.toNat) } }) s
/-- INDIRECT: the packets of its buffer, as validation read them, run in its place. -/
def execIndirectPkt (h : PktHdr) (a : W64) (n : BitVec 13) (s : State) : Out :=
  pktRun h (.indirectPkt h a n) (fun p s =>
    let f := s.mach.feq h.host h.queue
    let is := ((f.bufs.find? (fun e => decide (e.1 = p.batch ∧ e.2.1 = a.toNat ∧ e.2.2.1 = n.toNat))).map (fun e => e.2.2.2)).getD []
    let l : List RunPkt := (List.range is.length).map (fun j => ⟨p.idx, p.tag, p.asid, p.batch, some (a.toNat, j), p.lvl + 1, p.looped, is.getD j p.i⟩)
    popPkt h.host h.queue { s with mach := s.mach.setFeq h.host h.queue { f with run := p :: (l ++ f.run.drop 1) } }) s
/-- A word added to or stored as a relaxed atomic at system scope; without a translation for an atomic, in a poisoned line
or past the last port it is not performed (R285, R245; log 23). -/
def signalMem (s : State) (asid a : Nat) (v : W64) (store : Bool) : Mem :=
  match translate s feAgent asid a accAtomic with
  | .ok sp ad _ =>
    if s.mem.poisoned sp ad || uliLost s.mach 0 sp then s.mem
    else s.mem.write sp ad 8 (if store then v.toNat else s.mem.read sp ad 8 + v.toNat)
  | .fail _ => s.mem
/-- SIGNAL. -/
def execSignalPkt (h : PktHdr) (a v : W64) (store irq : Bool) (vec : BitVec 8) (s : State) : Out :=
  pktNow h (.signalPkt h a v store irq vec) (fun p s =>
    let m := if irq then { s.mach with msix := s.mach.msix ++ [(h.host.toNat, vec.toNat)] } else s.mach
    State.noteLostAt { mach := m, mem := signalMem s p.asid a.toNat v store } 0 p.asid a.toNat) s

/-- Does one packet stand right before another in the ring, or in one buffer? -/
def RunPkt.before (a b : RunPkt) : Bool :=
  decide (a.lvl = b.lvl ∧ a.looped = b.looped) && (match a.buf, b.buf with
    | none, none => decide (a.idx < b.idx)
    | some (x, i), some (y, j) => decide (a.idx = b.idx ∧ x = y ∧ i < j)
    | _, _ => false)
/-- Packets in runs that stand together in the ring or in a buffer. -/
def runsOf (l : List (RunPkt × Except Nat Instr)) : List (List (RunPkt × Except Nat Instr)) :=
  l.foldr (fun a r => match r with
    | (b :: g) :: r => if a.1.before b.1 then (a :: b :: g) :: r else [a] :: (b :: g) :: r
    | r => [a] :: r) []
/-- The COMMIT that ends a batch in the ring. -/
def endsBatch (e : RunPkt × Except Nat Instr) : Bool :=
  e.1.buf.isNone && (match e.2 with
    | .ok (.commitBatch _) => true
    | _ => false)
/-- The rest of a batch read and validated again, its COMMIT apart: each run at the level and in the loop body that it stands in
(R286). -/
def revalidate (s : State) (h : BitVec 1) (q : BitVec 6) (asid : Nat) (ps : List RunPkt) : Except (Nat × Nat) (List RunPkt × Got) :=
  let l := ps.map (fun p => (p, refetch s h q p))
  let body := if (l.getLast?.map endsBatch).getD false then l.dropLast else l
  let r := (runsOf body).foldl (fun a g => match g with
    | [] => a
    | e :: _ =>
      let r := valList s asid e.1.looped (valBuf s h q asid (2 - e.1.lvl)) (g.map (fun r => (r.1.idx, false, r.2))) 0 0 a.2.cnt
      let got := a.2.join r.2
      (a.1 ++ r.1, got)) (([], Got.none) : List (Nat × Nat) × Got)
  match verdict r with
  | .error e => .error e
  | .ok g => .ok (l.filterMap (fun r => match r.2 with
    | .ok i => some { r.1 with i := i, tag := if r.1.buf.isNone then tagOf (ringPkt s h q r.1.idx) else r.1.tag }
    | .error _ => none), g)
/-- FETCHFENCE (R288): later batches are dropped and will be fetched again; what is left of its own is read and validated
again at once. -/
def fenceFetch (h : PktHdr) (p : RunPkt) (s : State) : State :=
  let f := s.mach.feq h.host h.queue
  let s := { s with mach := s.mach.dropPorts (queueHolder (feKey h.host h.queue)) 0 }
  let own := f.ownRest p
  let later := (f.run.drop 1).dropWhile (fun r => r.batch == p.batch)
  let t := (later.map (·.idx) ++ f.raw.map (·.1)).foldl Nat.min f.tail
  let f := { f with run := [p], raw := [], tail := t, bufs := [], plans := [], graphs := [] }
  match revalidate s h.host h.queue p.asid own with
  | .error (idx, code) =>
    let s := errorRecord h.host h.queue idx (tagOf (ringPkt s h.host h.queue idx)) code s
    popPkt h.host h.queue { s with mach := (s.mach.incPort h.host.toNat 0x420 1).setFeq h.host h.queue f }
  | .ok (ps, g) =>
    let b := p.batch
    popPkt h.host h.queue { s with mach := s.mach.setFeq h.host h.queue { f with run := p :: ps, bufs := g.bufs.map (fun e => (b, e)), plans := g.plans.map (fun e => (b, e)), graphs := g.graphs.map (fun e => (b, e)) } }
def execFetchFence (h : PktHdr) (s : State) : Out := pktRun h (.fetchFence h) (fenceFetch h) s

/-! ### LAUNCH and GRAPH (R287, R289, R293, R295) -/

/-- The launch of an identifier. -/
def Mach.launch (m : Mach) (id : Nat) : Option Launch := m.launches.find? (fun l => l.id == id)
/-- A launch changed. -/
def Mach.onLaunch (m : Mach) (id : Nat) (f : Launch → Launch) : Mach :=
  { m with launches := m.launches.map (fun l => if l.id = id then f l else l) }
/-- A waiting launch finds some of its cores held, and asks for those that launches of a lower class of its tenant hold (R295, R299). -/
def Mach.demand (m : Mach) (l : Launch) : Mach :=
  if l.stat ≠ .waiting then m else
  let held := l.plan.cores.any (fun c => (m.core c.core).launch.isSome)
  let need := (l.plan.cores.map (·.core)).filter (fun c =>
    !(m.saves.any (fun r => r.core == c)) && (match ((m.core c).launch).bind m.launch with
      | some v => decide (v.asid = l.asid ∧ v.plan.cls < l.plan.cls)
      | none => false))
  let m := { m with saves := m.saves ++ need.map (fun c => ⟨c, false, false, false⟩) }
  if held then m.onLaunch l.id (fun l => { l with late := true }) else m
/-- A launch that waits for its cores. -/
def newLaunch (id asid host queue pidx : Nat) (g : Option Nat) (p : Plan) (sig val : W64) : Launch :=
  ⟨id, asid, host, queue, pidx, g, p, sig, val, .waiting, [], 0, 0, 0, 0, 0, none, none, 0, 0, false⟩
/-- The head packet leaves, begun and not completed; the queue waits for the binding of launch `id`. -/
def beginPkt (h : PktHdr) (p : RunPkt) (id : Nat) (s : State) : State :=
  let f := s.mach.feq h.host h.queue
  putFeq h.host h.queue { f with run := f.run.drop 1, live := p.idx :: f.live, holds := some id } s
/-- LAUNCH: with the plan validation read. -/
def execLaunchPkt (h : PktHdr) (d sig val : W64) (s : State) : Out :=
  pktRun h (.launchPkt h d sig val) (fun p s =>
    let f := s.mach.feq h.host h.queue
    match f.plans.find? (fun e => decide (e.1 = p.batch ∧ e.2.1 = d.toNat)) with
    | none => popPkt h.host h.queue s
    | some e =>
      let id := s.mach.nextId
      let l := newLaunch id p.asid h.host.toNat h.queue.toNat p.idx none e.2.2 sig val
      beginPkt h p id { s with mach := ({ s.mach with nextId := id + 1, launches := s.mach.launches ++ [l] }).demand l }) s
/-- GRAPH: its entry node's launch. -/
def execGraphPkt (h : PktHdr) (d sig val : W64) (s : State) : Out :=
  pktRun h (.graphPkt h d sig val) (fun p s =>
    let f := s.mach.feq h.host h.queue
    match f.graphs.find? (fun e => decide (e.1 = p.batch ∧ e.2.1 = d.toNat)) with
    | none => popPkt h.host h.queue s
    | some e => match e.2.2.nodes[e.2.2.entry]? with
      | none => popPkt h.host h.queue s
      | some n =>
        let id := s.mach.nextId
        let asid := p.asid
        let g : Graph := ⟨id, asid, h.host.toNat, h.queue.toNat, p.idx, e.2.2, e.2.2.entry, 1, sig, val⟩
        let l := newLaunch (id + 1) asid h.host.toNat h.queue.toNat p.idx (some id) n.plan 0 0
        beginPkt h p (id + 1) { s with mach := ({ s.mach with nextId := id + 2, launches := s.mach.launches ++ [l], graphs := s.mach.graphs ++ [g] }).demand l }) s
/-- A LAUNCH or GRAPH of a queue completes (R283, R287). -/
def completePkt (host queue pidx : Nat) (s : State) : State :=
  let h : BitVec 1 := .ofNat 1 host
  let q : BitVec 6 := .ofNat 6 queue
  let f := s.mach.feq h q
  let s := putFeq h q { f with live := f.live.erase pidx } s
  { s with mach := s.mach.incPort host 0x418 1 }

end Sys2Proof.Machine
end

