-- ==== Sys2Proof/Machine/Rlc.lean ====
section
/-! DEFINITION. Refinement loop controllers (R266 to R279): the command block, the arithmetic of a run, its steps and exits,
and the four instructions. -/
namespace Sys2Proof.Machine
open Sys2Proof

/-! ### The command block (R268) -/

/-- Word `i` of the block. -/
def Rlc.w (r : Rlc) (i : Nat) : W64 := r.words.getD i 0
def Rlc.n (r : Rlc) : Nat := fld (r.w 0) 8 0
def Rlc.lu (r : Rlc) : Bool := flag (r.w 0) 9
def Rlc.srung (r : Rlc) : Nat := fld (r.w 0) 10 10
def Rlc.initx (r : Rlc) : Bool := flag (r.w 0) 11
def Rlc.dpred (r : Rlc) : Nat := fld (r.w 0) 15 12
def Rlc.limit (r : Rlc) : Nat := fld (r.w 0) 31 16
/-- The action of exit `e`: 1 CONVERGED, 2 STAGNATED, 3 DIVERGED, 4 LIMIT, 5 BREAKDOWN. -/
def Rlc.action (r : Rlc) (e : Nat) : Nat := fld (r.w 0) (33 + 2 * (e - 1)) (32 + 2 * (e - 1))
def Rlc.spbase (r : Rlc) : Nat := fld (r.w 0) 49 42
def Rlc.aAddr (r : Rlc) : Nat := fld (r.w 1) 55 0
def Rlc.bAddr (r : Rlc) : Nat := fld (r.w 2) 55 0
def Rlc.xAddr (r : Rlc) : Nat := fld (r.w 3) 55 0
def Rlc.work (r : Rlc) : Nat := fld (r.w 4) 55 0
def Rlc.workLen (r : Rlc) : Nat := 4096 + 12 * r.n * r.n
def Rlc.tau (r : Rlc) : Val := ofFp32 (fld (r.w 5) 31 0)
def Rlc.rhos (r : Rlc) : Val := ofFp32 (fld (r.w 5) 63 32)
def Rlc.rhod (r : Rlc) : Val := ofFp32 (fld (r.w 6) 31 0)
/-- The first 8-byte word of a block that breaks a rule. -/
def blockBad (ws : List W64) : Option Nat :=
  let r := { Rlc.zero with words := ws }
  let w := fun i => (r.w i).toNat
  let pos := fun (v : Val) => v.isFinite && (Val.zero false).lt v
  (List.range 32).find? (fun i => match i with
    | 0 => decide (r.n % 32 ≠ 0 ∨ r.n < 32 ∨ r.n > 256 ∨ r.limit = 0 ∨ r.spbase % 32 ≠ 0 ∨ w 0 ≥ 2 ^ 50 ∨
        r.action 1 ≥ 2 ∨ r.action 4 ≥ 2) || [2, 3, 5].any (fun e => r.action e == 3)
    | 1 => decide (w 1 ≥ 2 ^ 56 ∨ w 1 % 4096 ≠ 0)
    | 2 => decide (w 2 ≥ 2 ^ 56 ∨ w 2 % 64 ≠ 0)
    | 3 => decide (w 3 ≥ 2 ^ 56 ∨ w 3 % 64 ≠ 0)
    | 4 => decide (w 4 ≥ 2 ^ 56 ∨ w 4 % 4096 ≠ 0)
    | 5 => !(r.tau.isFinite && !r.tau.lt (.zero false)) || !pos r.rhos
    | 6 => !pos r.rhod || r.rhod.lt r.rhos || decide (w 6 ≥ 2 ^ 32)
    | _ => decide (w i ≠ 0))

/-! ### Arithmetic (R269 to R271) -/

/-- Round(·, f, RNE, 00). -/
def rnd (f : Fmt) (v : Val) : Val := decodeIeee (roundIeee v f .rne false) f
def rnd32 (v : Val) : Val := rnd .fp32 v
/-- The exact quotient, to be rounded once. -/
def vdiv (a b : Val) : Val :=
  match a, b with
  | .nan, _ => .nan
  | _, .nan => .nan
  | .inf _, .inf _ => .nan
  | .inf s, y => .inf (s != y.isNeg)
  | x, .inf t => .zero (x.isNeg != t)
  | .zero _, .zero _ => .nan
  | x, .zero t => .inf (x.isNeg != t)
  | .zero s, y => .zero (s != y.isNeg)
  | .fin p, .fin q => .fin (p.div q)
/-- RlcDot. -/
def rlcDot (mul : Val → Val → Val) (c : Val) : List Val → List Val → Val
  | u :: us, v :: vs => rlcDot mul (rnd32 (c.add (mul u v).neg .rne)) us vs
  | _, _ => c
/-- Split3. -/
def split3 (x : Val) : Val × Val × Val :=
  let hi := rnd .bf16 x
  let t := x.add hi.neg .rne
  let mid := rnd .bf16 t
  (hi, mid, rnd .bf16 (t.add mid.neg .rne))
/-- EmuMul. -/
def emuMul (u v : Val) : Val :=
  let a := split3 u
  let b := split3 v
  [a.2.2.mul b.1, a.2.1.mul b.2.1, a.1.mul b.2.1, a.2.1.mul b.1, a.1.mul b.1].foldl (fun s t => s.add t .rne)
    (a.1.mul b.2.2)
/-- The format and the product of a rung. -/
def rungFmt (rung : Nat) : Fmt := if rung = 0 then .bf16 else .fp32
def rungMul (rung : Nat) : Val → Val → Val := if rung = 0 then Val.mul else emuMul
/-- A square matrix as rows of values; an entry, a row's start, a column's start. -/
abbrev Mat := List (List Val)
def Mat.at (m : Mat) (i j : Nat) : Val := (m.getD i []).getD j .nan
def Mat.row (m : Mat) (i k : Nat) : List Val := (m.getD i []).take k
def Mat.col (m : Mat) (j k : Nat) : List Val := (m.take k).map (fun r => r.getD j .nan)
def Mat.put (m : Mat) (i j : Nat) (v : Val) : Mat := setNth m i (setNth (m.getD i []) j v)
/-- Column `j` of Cholesky's factor; none is BREAKDOWN (R270). -/
def cholColumn (n rung j : Nat) (f : Mat) : Option Mat :=
  let g := rungFmt rung
  let mul := rungMul rung
  match rlcDot mul (f.at j j) (f.row j j) (f.row j j) with
  | .fin s =>
    if s.isNeg then none
    else
      let f := f.put j j (decodeIeee (sqrtRound s g) g)
      some ((List.range (n - 1 - j)).foldl (fun f t =>
        let i := j + 1 + t
        f.put i j (rnd g (vdiv (rlcDot mul (f.at i j) (f.row i j) (f.row j j)) (f.at j j)))) f)
  | _ => none
/-- Column `j` of the LU factor with its row exchange; none is BREAKDOWN (R270). -/
def luColumn (n rung j : Nat) (f : Mat) (perm : List Nat) : Option (Mat × List Nat) :=
  let g := rungFmt rung
  let mul := rungMul rung
  let c := f.col j j
  let f := (List.range (n - j)).foldl (fun f t =>
    f.put (j + t) j (rnd g (rlcDot mul (f.at (j + t) j) (f.row (j + t) j) c))) f
  let cand := (List.range (n - j)).map (· + j)
  if cand.any (fun i => !(f.at i j).isFinite) then none
  else
    let p := cand.foldl (fun p i => if (f.at p j).abs.lt (f.at i j).abs then i else p) j
    match f.at p j with
    | .fin _ =>
      let f : Mat := setNth (setNth f j (f.getD p [])) p (f.getD j [])
      let perm := setNth (setNth perm j (perm.getD p 0)) p (perm.getD j 0)
      let rest := (List.range (n - 1 - j)).map (· + (j + 1))
      let f := rest.foldl (fun f i => f.put i j (rnd g (vdiv (f.at i j) (f.at j j)))) f
      some (rest.foldl (fun f c => f.put j c (rnd g (rlcDot mul (f.at j c) (f.row j j) (f.col c j)))) f, perm)
    | _ => none
/-- Column `j` of the factor with PERM; none is BREAKDOWN (R270). -/
def facColumn (lu : Bool) (n rung j : Nat) (f : Mat) (perm : List Nat) : Option (Mat × List Nat) :=
  if lu then luColumn n rung j f perm else (cholColumn n rung j f).map (fun f => (f, perm))
/-- Â (R270). -/
def matHat (rung : Nat) (a : Mat) : Mat := a.map (fun r => r.map (rnd (rungFmt rung)))
/-- Factor(rung) with PERM; none is BREAKDOWN (R270). -/
def factor (lu : Bool) (n rung : Nat) (a : Mat) : Option (Mat × List Nat) :=
  (List.range n).foldl (fun acc j => acc.bind (fun (f, perm) => facColumn lu n rung j f perm)) (some (matHat rung a, List.range n))
/-- Solve(r) (R271). -/
def solve (lu : Bool) (n : Nat) (f : Mat) (perm : List Nat) (r : List Val) : List Val :=
  let z := fun i => r.getD (if lu then perm.getD i 0 else i) .nan
  let y := (List.range n).foldl (fun y i =>
    let v := rlcDot Val.mul (z i) (f.row i i) y
    y ++ [if lu then v else rnd32 (vdiv v (f.at i i))]) []
  (List.range n).foldl (fun d t =>
    let i := n - 1 - t
    let u := if lu then (f.getD i []).drop (i + 1) else ((f.drop (i + 1)).map (fun row => row.getD i .nan))
    rnd32 (vdiv (rlcDot Val.mul (y.getD i .nan) u d) (f.at i i)) :: d) []
/-- Residual(x) (R271). -/
def residual (a : Mat) (b x : List Val) : List Val :=
  (List.range b.length).map (fun i => rlcDot Val.mul (b.getD i .nan) (a.getD i []) x)
/-- Norm(v) (R271). -/
def norm (v : List Val) : Val :=
  if v.any Val.isNan then .nan else v.foldl (fun q x => if q.lt x.abs then x.abs else q) (.zero false)
/-- NormA (R271). -/
def normA (a : Mat) : Val := norm (a.map (fun r => r.foldl (fun s x => rnd32 (s.add x.abs .rne)) (.zero false)))
/-- Thr(x) (R271). -/
def thr (tau na nb nx : Val) : Val := rnd32 (tau.mul (rnd32 ((rnd32 (na.mul nx)).add nb .rne)))
/-- An exact comparison `≤`. -/
def valLe (a b : Val) : Bool := a.lt b || a.eqv b

/-! ### What the work up to a boundary reads (R267, R268) -/

/-- Matrix and vectors as a unit of work reads them. -/
structure RlcData where
  a : Mat
  b : List Val
  x0 : List Val

/-- FP32 values of a byte string. -/
def fp32s (bs : List Byte) (n : Nat) : List Val := (List.range n).map (fun i => ofFp32 (leNat ((bs.drop (4 * i)).take 4)))
/-- The runs of A that are read: for Cholesky those with i ≥ j alone, whole tiles below the diagonal and the started rows of the tiles
on it (R268). -/
def Rlc.aRuns (r : Rlc) : List (Nat × Nat) :=
  let t := r.n / 32
  if r.lu then [(r.aAddr, 4 * r.n * r.n)]
  else (List.range t).flatMap (fun i =>
    (if i = 0 then [] else [(r.aAddr + 4096 * (i * t), 4096 * i)]) ++
    (List.range 32).map (fun e => (r.aAddr + 4096 * (i * t + i) + 128 * e, 4 * (e + 1))))
/-- What the next unit of work reads (R272): Factor reads A, and from its second column on what WORK keeps; the first residual reads A
and b, and X where INITX says so; an iteration reads WORK, A and b; the limit test reads nothing. -/
def Rlc.runs (r : Rlc) : List (Nat × Nat) :=
  let work := [(r.work, 4096 + 4 * r.n * r.n)]
  match r.phase with
  | 0 => if r.col = 0 then r.aRuns else work
  | 1 => r.aRuns ++ [(r.bAddr, 4 * r.n)] ++ (if r.initx then [(r.xAddr, 4 * r.n)] else [])
  | _ => if r.k ≥ r.limit then [] else work ++ r.aRuns ++ [(r.bAddr, 4 * r.n)]
/-- The first address of some runs that a controller cannot read: without a translation, or with an uncorrectable error. -/
def rlcBad (s : State) (r : Rlc) (rs : List (Nat × Nat)) : Option Nat :=
  match rs.findSome? (fun e => firstUnmapped s (agentOf r.core) r.asid e.1 e.2 accRead) with
  | some (v, _) => some v
  | none => softAt s r.core r.asid rs
/-- A run of bytes as it stands. -/
def rlcBytes (s : State) (r : Rlc) (va n : Nat) : List Byte :=
  match readVa s (agentOf r.core) r.asid va n accRead with
  | .ok bs => bs
  | .error _ => leBytes 0 n
/-- A in rows: for Cholesky the lower triangle decides (R268). -/
def matrixOf (lu : Bool) (n : Nat) (bs : List Byte) : Mat :=
  let word := fun (i j : Nat) =>
    ofFp32 (leNat ((bs.drop (4096 * (i / 32 * (n / 32) + j / 32) + 4 * (32 * (i % 32) + j % 32))).take 4))
  (List.range n).map (fun i => (List.range n).map (fun j => if lu = false ∧ i < j then word j i else word i j))
/-- The bytes of A, +0 where a run is not read. -/
def Rlc.aBytes (s : State) (r : Rlc) : List Byte :=
  if r.lu then rlcBytes s r r.aAddr (4 * r.n * r.n)
  else
    let l := r.aRuns.map (fun e => (e.1 - r.aAddr, rlcBytes s r e.1 e.2))
    l.foldr (fun e acc => acc.take e.1 ++ e.2 ++ acc.drop (e.1 + e.2.length)) (leBytes 0 (4 * r.n * r.n))
/-- What the next unit of work reads, or the address at which an access fails: WORK must be there for writing unless nothing of it is
touched, and all that is read be sound (R273). -/
def rlcData (s : State) (r : Rlc) : Except Nat RlcData :=
  if r.runs = [] then .ok ⟨[], [], []⟩
  else match firstUnmapped s (agentOf r.core) r.asid r.work r.workLen accWrite with
    | some (v, _) => .error v
    | none => match rlcBad s r r.runs with
      | some v => .error v
      | none =>
        .ok ⟨if r.phase = 0 ∧ r.col ≠ 0 then [] else matrixOf r.lu r.n (r.aBytes s),
          if r.phase = 0 then [] else fp32s (rlcBytes s r r.bAddr (4 * r.n)) r.n,
          if r.phase = 1 ∧ r.initx = true then fp32s (rlcBytes s r r.xAddr (4 * r.n)) r.n else List.replicate r.n (.zero false)⟩

/-! ### One unit of work (R270 to R272) -/

/-- Where a unit leaves a run: it goes on, or takes an exit. -/
inductive RlcTo where
  | go (r : Rlc)
  | exit (e : Nat) (r : Rlc)

/-- The bits of a value in FP32. -/
def bits32 (v : Val) : Nat := roundIeee v .fp32 .rne false
def vals32 (l : List Nat) : List Val := l.map ofFp32
/-- The factor as kept: bits of the rung's format. -/
def Rlc.mat (r : Rlc) : Mat := r.fac.map (fun row => row.map (fun x => decodeIeee x (rungFmt r.rung)))
/-- The bits of a factor. -/
def matBits (rung : Nat) (f : Mat) : List (List Nat) := f.map (fun row => row.map (fun v => roundIeee v (rungFmt rung) .rne false))

/-- One unit of work of a run (R272): a column of the factor, the first residual with its tests, or an iteration with its tests. -/
def rlcAdvance (r : Rlc) (d : RlcData) : RlcTo :=
  let n := r.n
  let na := normA d.a
  let nb := norm d.b
  let limitOf := fun (x : List Val) => thr r.tau na nb (norm x)
  match r.phase with
  | 0 =>
    let f := if r.col = 0 then matHat r.rung d.a else r.mat
    match facColumn r.lu n r.rung r.col f (if r.col = 0 then List.range n else r.perm) with
    | none => .exit 5 r
    | some (f, perm) =>
      let r := { r with fac := matBits r.rung f, perm := perm, col := r.col + 1 }
      .go (if r.col ≥ n then { r with col := 0, phase := if r.hasX then 2 else 1 } else r)
  | 1 =>
    let x := d.x0
    let res := residual d.a d.b x
    let q := norm res
    let r := { r with x := x.map bits32, r := res.map bits32, hasX := true, q := bits32 q, hasQ := true, phase := 2 }
    if !q.isFinite then .exit 3 r else if valLe q (limitOf x) then .exit 1 r else .go r
  | _ =>
    if r.k ≥ r.limit then .exit 4 r
    else
      let x := vals32 r.x
      let q := ofFp32 r.q
      let dx := solve r.lu n r.mat r.perm (vals32 r.r)
      let x' := (List.range n).map (fun i => rnd32 ((x.getD i .nan).add (dx.getD i .nan) .rne))
      let r' := residual d.a d.b x'
      let q' := norm r'
      let r := { r with k := r.k + 1 }
      let keep := { r with x := x'.map bits32, r := r'.map bits32, q := bits32 q' }
      if !q'.isFinite then .exit 3 r
      else if valLe q' (limitOf x') then .exit 1 keep
      else if (rnd32 (r.rhod.mul q)).lt q' then .exit 3 r
      else if (rnd32 (r.rhos.mul q)).lt q' then .exit 2 keep
      else .go keep

/-! ### WORK (R267, R278) -/

/-- A run of numbers of `w` bytes. -/
def numBytes (w : Nat) (l : List Nat) : List Byte := l.flatMap (fun v => leBytes v w)
/-- What WORK holds at a step boundary, by its offsets: x, r, PERM, the command block, the factor by rows, four bytes to an entry. The
layout is the model's (log 10). -/
def Rlc.pieces (r : Rlc) : List (Nat × List Byte) :=
  [(r.work, numBytes 4 r.x), (r.work + 1024, numBytes 4 r.r), (r.work + 2048, numBytes 2 r.perm),
    (r.work + 3072, numBytes 8 (r.words.map BitVec.toNat)), (r.work + 4096, numBytes 4 r.fac.flatten)]
/-- They are written. -/
def rlcKeep (r : Rlc) (s : State) : State := storeOuts r.core r.asid 0 r.pieces s
/-- Numbers of `w` bytes. -/
def numsOf (w : Nat) (bs : List Byte) (n : Nat) : List Nat := (List.range n).map (fun i => leNat ((bs.drop (w * i)).take w))
/-- A run's vectors and factor taken from WORK again. -/
def Rlc.recall (r : Rlc) (s : State) : Rlc :=
  let rd := fun (o n : Nat) => rlcBytes s r (r.work + o) n
  let f := numsOf 4 (rd 4096 (4 * r.n * r.n)) (r.n * r.n)
  { r with
    x := if r.hasX then numsOf 4 (rd 0 (4 * r.n)) r.n else []
    r := if r.hasX then numsOf 4 (rd 1024 (4 * r.n)) r.n else []
    perm := if r.phase = 0 ∧ r.col = 0 then [] else numsOf 2 (rd 2048 (2 * r.n)) r.n
    fac := if r.phase = 0 ∧ r.col = 0 then [] else (List.range r.n).map (fun i => (f.drop (r.n * i)).take r.n) }

/-! ### Exits (R267, R273) -/

/-- What the run gives back at its end (R267): the FMT values, the slots, ACC0 and ACC1 at +0, blocks 56 to 63 without a
valid tag. No step of it waits any longer. -/
def Core.rlcGive (k : Core) (r : Rlc) (all : Bool) : Core :=
  let b := r.spbase / 16
  let k := ({ k with rlcSlots := none, rlcVec := none, rq := k.rq.filter (fun o => !o.ctrl) }.wC (0x80 + b) r.fmt0).wC (0x81 + b) r.fmt1
  if !all then k
  else
    let ab := (k.ctx r.ctx).abase
    { k with
      acc := Tab.set 0 (Tab.set 0 k.acc ab 0) (ab + 1) 0
      wtags := (List.range 8).foldl (fun t i => Tab.set 0 t (56 + i) 0) k.wtags
      poisoned := k.poisoned.filter (fun e => decide (e.1 ≠ .acc ∨ e.2 < ab ∨ e.2 > ab + 1)) }
/-- The controller of a cluster. -/
def Mach.rlc (m : Mach) (c : Nat) : Rlc := Tab.get Rlc.zero m.rlcs c
def Mach.setRlc (m : Mach) (c : Nat) (r : Rlc) : Mach := { m with rlcs := Tab.set Rlc.zero m.rlcs c r }
/-- WORK after a run: unpredictable (R267; log 10). Where it has no translation nothing is written. -/
def spoilWork (r : Rlc) (s : State) : State :=
  storeOuts r.core r.asid 0 [(r.work, (List.range r.workLen).map (Config.workByte s.mach.tick))] s
/-- The controller becomes EXITED. -/
def rlcStop (cl e : Nat) (r : Rlc) (s : State) : State :=
  let s := spoilWork r s
  { s with mach := (s.mach.upd r.core (fun k => k.rlcGive r true)).setRlc cl { r with st := 2, exit := e, abort := false, prog := 0, steps := [] } }
/-- A run ends where it stands, ABORTED: the time since its last unit of work counts, its transfers are given up (R274, R372). -/
def rlcCut (cl : Nat) (r : Rlc) (s : State) : State :=
  rlcStop cl 6 r { s with mach := (s.mach.upd r.core (fun k => k.incAc s.mach.tick 0xE0)).dropPorts (rlcHolder cl) 0 }
/-- FAULT (R273): the address; a lost port is counted (R327). -/
def rlcFault (cl va : Nat) (r : Rlc) (s : State) : State :=
  (rlcStop cl 7 { r with trappend := true, faddr := va } s).noteLostAt r.core r.asid va
/-- An exit with its action (R273). -/
def rlcExit (cl e : Nat) (r : Rlc) (s : State) : State :=
  let act := r.action e
  if act = 2 ∧ r.rung = 0 then
    let r := { r with rung := 1, escalated := true, phase := 0, col := 0, prog := 0 }
    { s with mach := (s.mach.upd r.core (fun k => k.inc 0xE4 1)).setRlc cl r }
  else
    let r := if act = 2 then { r with toprung := true } else r
    match (if r.hasX then firstUnmapped s (agentOf r.core) r.asid r.xAddr (4 * r.n) accWrite else none) with
    | some (va, _) => rlcFault cl va r s
    | none =>
      let s := if r.hasX then storeOuts r.core r.asid 0 [(r.xAddr, numBytes 4 r.x)] s else s
      let s := if act = 1 then s
        else s.onCore r.core (fun k => k.upd r.ctx (fun c => { c.onRegs (fun g => g.wP r.dpred (decide (e = 1))) with latePreds := r.dpred :: c.latePreds }))
      rlcStop cl e { r with trappend := decide (act = 1) } s

/-! ### The steps (R267, R278, R372) -/

/-- Everything the owner did before RLCGO is performed and landed (R277). -/
def Core.beforeDone (k : Core) (x seq : Nat) : Bool :=
  let early := fun (f : Flight) => decide (f.iss.ctx = x ∧ f.iss.seq < seq)
  !(k.stores.any (fun q => early q.fl) || k.atomics.any early || k.loads.any early || k.cq.any (fun c => early c.fl)) &&
  !((List.range 8).any (fun i => ((Tab.get none k.parked i).map (fun c => early c.fl)).getD false)) &&
  !((k.ctx x).owedCopies.any (fun f => decide (f.iss.seq < seq)))
/-- The run stands at a step boundary (R278): no step of it has started. -/
def Rlc.atBoundary (r : Rlc) (k : Core) : Bool := decide (r.prog < 3) || k.rq.any (fun o => o.ctrl && !o.started)
/-- A controller's routine call as it enters the routine queue (R153, R267). -/
def Core.ctrlRoutine (k : Core) (r : Rlc) (n : Nat) : Routine :=
  let b : Issue := ⟨r.ctx, 0, 0, k.seq, r.asid, Regs.zero, [], [], [], [], [], none, 0, false, 2 * k.seq, none, false, [], false⟩
  ⟨⟨.mcall 0 false (.ofNat 8 (0x40 + n % 16)) 0, b⟩, k.seq, 0x40 + n % 16, 0, [], 0, [], 0, 0, none, [], none, false, false, false, true⟩
/-- The lane groups of a vector step: one to six. -/
def rlcLanes (n : Nat) : Nat := 1 + n % 6
/-- The next step starts, if it can: a routine call needs a position of the routine queue, a vector run lane groups that no earlier
part waits for (R150, R179, R372). -/
def Core.rlcBegin (k : Core) (t : Nat) (r : Rlc) (step : Bool × Nat) : Option Core :=
  if step.1 then
    if k.groupsHeld + rlcLanes step.2 > 6 ∨ k.vparts.any k.waitsLanes = true then none
    else some (({ k with rlcVec := some (true, rlcLanes step.2) }.rlcSpoil t r.ctx).incAc t 0xE2)
  else if k.routinesHeld ≥ Config.routineSlots ∨ k.msloading = true ∨ k.issue.isSome = true then none
  else some ({ k with rq := k.rq ++ [k.ctrlRoutine r step.2], seq := k.seq + 1 }.incAc t 0xE2)
/-- The steps of a unit are taken: its data are read, its results are in WORK, and the run goes on or takes an exit. The numbers do
not depend on what a program did to ACC0, ACC1, blocks 56 to 63 or WORK meanwhile, though R267 leaves the solution then undefined
(DESIGN CHOICE, log 10). -/
def rlcUnit (cl : Nat) (r : Rlc) (s : State) : State :=
  let s := s.onCore r.core (fun k => k.incAc s.mach.tick 0xE0)
  match rlcData s r with
  | .error va => rlcFault cl va r s
  | .ok d =>
    let s := s.reads r.core r.asid 0 r.runs
    let done := fun (s : State) => if r.phase = 2 ∧ r.k < r.limit then s.onCore r.core (fun k => k.inc 0xE1 1) else s
    match rlcAdvance r d with
    | .go r' =>
      let r' := { r' with prog := 0, steps := [] }
      let s := rlcKeep r' (done s)
      { s with mach := s.mach.setRlc cl r' }
    | .exit e r' => rlcExit cl e r' (done s)
/-- What a unit moves: what it reads, what it writes to WORK, and x (R211, R267). -/
def Rlc.moves (r : Rlc) : List (Move × List (Nat × Nat)) :=
  [(.read 0, r.runs),
    (.write, (if r.runs = [] then [] else r.pieces.map (fun e => (e.1, e.2.length))) ++ if r.hasX then [(r.xAddr, 4 * r.n)] else [])]
/-- A running controller goes on by its next step (R372): its transfers wait for the tenant's windows, each of its steps waits for
the array or for lane groups and runs, and at the end the unit's results are there. -/
def rlcNext (cl : Nat) (r : Rlc) (s : State) : Option State :=
  let t := s.mach.tick
  let put := fun (s : State) (r : Rlc) (f : Core → Core) => some { s with mach := (s.mach.upd r.core f).setRlc cl r }
  let set := put s
  let k := s.mach.core r.core
  match r.prog, r.steps with
  | 0, _ =>
    let asked := s.mach.asked.contains (rlcHolder cl, 0)
    s.transfer r.core r.asid (rlcHolder cl) 0 r.moves (fun s =>
      put s { r with prog := 1, steps := if r.runs = [] then [] else Config.rlcPlan t } (fun k => if asked then k.incAc t 0xE3 else k))
  | 1, [] => some (rlcUnit cl r s)
  | 1, st :: _ => set { r with prog := 2 } (fun k => if st.1 then { k with rlcVec := some (false, rlcLanes st.2) } else k)
  | 2, st :: _ => match k.rlcBegin t r st with
    | some _ => set { r with prog := 3 } (fun k => (k.rlcBegin t r st).getD k)
    | none => none
  | 2, [] => set { r with prog := 1 } (fun k => k)
  | _, l =>
    if k.rq.any (fun o => o.ctrl) then none
    else set { r with prog := 1, steps := l.drop 1 } (fun k => { k with rlcVec := none })
/-- RLC_STEP: a running controller goes on; an abort ends it, and a save of its core holds it, at a step boundary (R272, R274, R278;
log 10). -/
def rlcStep (cl : Nat) (s : State) : Option State :=
  let r := s.mach.rlc cl
  let k := s.mach.core r.core
  if r.st ≠ 1 then none
  else if r.abort ∧ r.atBoundary k = true then some (rlcCut cl r s)
  else if k.beforeDone r.ctx r.seq = false ∨ (s.mach.saving r.core && r.atBoundary k) = true then none
  else rlcNext cl r s
def execRlcStep (cluster : Nat) (s : State) : Out :=
  if cluster ≥ 40 then .fault .noSuchUnit else stepState s (rlcStep cluster s)

/-! ### The instructions (R274 to R276) -/

/-- The result word (R275). -/
def Rlc.word (r : Rlc) : W64 :=
  .ofNat 64 (r.st + r.exit * 2 ^ 2 + r.rung * 2 ^ 5 + b2n r.escalated * 2 ^ 6 + b2n r.toprung * 2 ^ 7 +
    r.k % 65536 * 2 ^ 8 + (if r.hasQ then r.q else 0) * 2 ^ 24)
/-- Does a context own a controller? -/
def Rlc.ownedBy (r : Rlc) (core x : Nat) : Bool := decide (r.st ≠ 0 ∧ r.core = core ∧ r.ctx = x)
/-- RLCGO: it holds its context while it reads the block. -/
def execRlcgo (p : Part) (s : State) : Out := runPart (.rlcgo p) (onFocus (fun _ b k => k.sysWait ⟨.rlcgo p, b⟩)) s
/-- A new run. -/
def Rlc.start (core x asid va seq : Nat) (ws : List W64) (f0 f1 : W64) : Rlc :=
  let r := { Rlc.zero with st := 1, core := core, ctx := x, asid := asid, blk := va, words := ws, seq := seq, fmt0 := f0, fmt1 := f1 }
  { r with rung := r.srung }
/-- One tenant owns all the cores of a cluster (R294). -/
def Mach.clusterOwned (m : Mach) (cl asid : Nat) : Bool :=
  (List.range 640).all (fun c => decide (clusterOf c ≠ cl ∨ (m.core c).owner = some asid))
/-- RLCGO completes: the failures in the order of R274. -/
def rlcgoFinish (core x : Nat) (fl : Flight) (p : Part) (s : State) : Option State :=
  let k := s.mach.core core
  let cl := clusterOf core
  let va := (scalarOp fl.iss.pre (k.ctx x).cbank p.cw p.cw.src1).toNat
  if rangesHeld s core fl accRead [(va, 256)] then none
  else match readVa s (agentOf core) fl.iss.asid va 256 accRead with
    | .error (a, r) => some (waitFault core fl (xlateTrap 1 false r a) s)
    | .ok bs => match softAt s core fl.iss.asid [(va, 256)] with
      | some a => some ((waitFault core fl (softTrap 1 a) s).noteLostAt core fl.iss.asid a)
      | none => s.transfer core fl.iss.asid (waitHolder core) fl.iss.seq [(.read 0, [(va, 256)])] (fun s =>
        let fail := fun (n : Nat) => some (waitDone core x (fun k => k) (.error n) s)
        let s := s.reads core fl.iss.asid 0 [(va, 256)]
        let ws := (List.range 32).map (fun i => BitVec.ofNat 64 (leNat ((bs.drop (8 * i)).take 8)))
        let sp := fld (ws.getD 0 0) 49 42
        if (s.mach.rlc cl).st ≠ 0 ∨ s.mach.clusterOwned cl fl.iss.asid = false then fail 1
        else match blockBad ws with
          | some i => fail (2 + i * 256)
          | none =>
            if k.runFree sp 32 = false then fail 3
            else if (k.ctx x).acount < 2 then fail 4
            else
              let r := Rlc.start core x fl.iss.asid va fl.iss.seq ws (k.fmtReg (sp / 16)) (k.fmtReg (sp / 16 + 1))
              some (waitDone core x (fun k => { k with rlcSlots := some sp }) (.ok 0) { s with mach := s.mach.setRlc cl r }))
/-- RLCEXIT is pending for the context (R276, R304). -/
def exitTrap (r : Rlc) : Trap := ⟨cRLCEXIT, 1, true, r.exit % 8 * 2 ^ 16, if r.exit = 7 then r.faddr else r.blk⟩
/-- RLCWAIT, RLCSTAT: NOTOWNER, a pending RLCEXIT, or what the operation does. -/
def rlcEff (i : Instr) (p : Part) (f : Rlc → Flight → Core → Core) (free : Rlc → Bool) : Eff := fun _ b m =>
  let c := m.focusCore
  let k := m.core c
  let cl := clusterOf c
  let r := m.rlc cl
  let fl : Flight := ⟨i, b⟩
  if r.ownedBy c b.ctx = false then m.setCore c (k.sysDone fl p (.error 5))
  else if r.trappend then (m.setCore c (k.faultPart c fl (exitTrap r))).setRlc cl { r with trappend := false }
  else (m.setCore c (f r fl k)).setRlc cl (if free r then Rlc.zero else r)
/-- DST and the status of a collected result. -/
def Core.rlcDone (k : Core) (fl : Flight) (p : Part) (r : Rlc) (ok : Bool) : Core :=
  let x := fl.iss.ctx
  ((k.putS x (dstReg p.cw.dst) r.word).putP x p.cw.pdst.toNat ok).retire fl
/-- RLCWAIT. -/
def rlcwaitEff (p : Part) : Eff :=
  rlcEff (.rlcwait p) p (fun r fl k => if r.st = 2 then k.rlcDone fl p r (decide (r.exit = 1)) else k.sysWait fl)
    (fun r => decide (r.st = 2))
def execRlcwait (p : Part) (s : State) : Out := runPart (.rlcwait p) (rlcwaitEff p) s
/-- RLCSTAT. -/
def rlcstatEff (p : Part) : Eff :=
  rlcEff (.rlcstat p) p (fun r fl k => k.rlcDone fl p r (decide (r.st = 2))) (fun _ => false)
def execRlcstat (p : Part) (s : State) : Out := runPart (.rlcstat p) (rlcstatEff p) s
/-- RLCABORT: a run that has exited is collected at once; a running one stops at its next boundary. It never takes
RLCEXIT. -/
def rlcabortEff (p : Part) : Eff := fun _ b m =>
  let c := m.focusCore
  let k := m.core c
  let cl := clusterOf c
  let r := m.rlc cl
  let fl : Flight := ⟨.rlcabort p, b⟩
  if r.ownedBy c b.ctx = false then m.setCore c (k.sysDone fl p (.error 5))
  else if r.st = 2 then (m.setCore c (k.rlcDone fl p r true)).setRlc cl Rlc.zero
  else (m.setCore c (k.sysWait fl)).setRlc cl { r with abort := true }
def execRlcabort (p : Part) (s : State) : Out := runPart (.rlcabort p) (rlcabortEff p) s
/-- RLCWAIT or RLCABORT completes once the controller has EXITED. The time of the wait is counted where its block ends, by RLCEXIT
too (R274, R279). -/
def rlcFinish (core x : Nat) (fl : Flight) (o : Nat) (p : Part) (s : State) : Option State :=
  let cl := clusterOf core
  let r := s.mach.rlc cl
  if r.ownedBy core x = false then some (waitDone core x (fun k => k) (.error 5) s)
  else if r.st ≠ 2 then none
  else if o = 0x3B1 ∧ r.trappend = true then
    some (waitFault core fl (exitTrap r) { s with mach := s.mach.setRlc cl { r with trappend := false } })
  else
    let done := fun (k : Core) =>
      (k.upd x (fun c => { c with wait := none, answer := none })).rlcDone fl p r (decide (o = 0x3B3 ∨ r.exit = 1))
    let s' := s.onCore core done
    some { s' with mach := s'.mach.setRlc cl Rlc.zero }

end Sys2Proof.Machine
end

