-- ==== Sys2Proof/Machine/Launch.lean ====
section
/-! DEFINITION. Launches: binding (R291, R294, R343), the end of a launch on a core and as a whole (R61, R99, R292), task
graphs (R293), and the host's abort (R300). -/
namespace Sys2Proof.Machine
open Sys2Proof

/-! ### Binding -/

/-- What a change of tenant zeroes (R294). -/
def Core.wipe (k : Core) : Core :=
  let fmt := (List.range 16).foldl (fun c n => Tab.set 0 c (0x80 + n) 0) k.csr
  { k with ispad := [], spad := [], vpool := [], acc := [], blocks := [], books := [], wtags := [], csr := fmt, ustore := k.ustore.filter (fun e => e.1 < 2048), poisoned := k.poisoned.filter (fun e => decide (e.1 = .aStage ∨ (e.1 = .micro ∧ e.2 < 2048))) }
/-- The bytes of an image into its half, from its start (R343). -/
def Core.loadCode (k : Core) (half : Nat) (ws : List W64) : Core :=
  { k with ispad := (List.range ws.length).foldl (fun t j => Tab.set 0 t (half * 0x4000 + j) (wordAt ws j)) k.ispad }
/-- A control-word table from its words: four to an entry (R25, R120). -/
def cwtOf (ws : List W64) : Tab W256 :=
  (List.range 512).foldl (fun t n =>
    Tab.set 0 t n (BitVec.ofNat 256 ((List.range 4).foldl (fun a i => a + (wordAt ws (4 * n + i)).toNat * 2 ^ (64 * i)) 0))) []
/-- A constant bank from its words (R120). -/
def bankOf (ws : List W64) : Tile :=
  BitVec.ofNat 32768 ((List.range 512).foldl (fun a i => a + (wordAt ws i).toNat * 2 ^ (64 * i)) 0)
/-- Sum of a window size over the bound contexts below `x` (R291). -/
def LCore.below (l : LCore) (x : Nat) (f : CtxRec → Nat) : Nat := (((l.ctxs.take x).filter (fun r => r.bind)).map f).sum
/-- DOMIDn of a context (R67, R291): counted over the launch at levels 2 to 4, given at level 5. -/
def Plan.domid (p : Plan) (r : CtxRec) (n : Nat) : W64 :=
  match r.id n with
  | none => 0
  | some i =>
    let cnt := if n = 5 then r.members else (p.bound.filter (fun b => b.2.2.id n = some i)).length
    BitVec.ofNat 64 (cnt + i * 2 ^ 24 + 2 ^ 48)
/-- A context as a launch binds it (R60, R120, R291): S8 to S15 hold the arguments; everything else it holds is zero. -/
def boundCtx (p : Plan) (l : LCore) (x : Nat) (r : CtxRec) (cwt : Tab W256) (bank : Tile) : Ctx :=
  let s := (List.range 8).foldl (fun t i => Tab.set 0 t (8 + i) (wordAt r.args i)) []
  let dom := [2, 3, 4, 5].foldl (fun t n => Tab.set 0 t n (p.domid r n)) []
  { Ctx.zero with
    st := if r.entry then .ready else .idle
    pc := r.pc
    regs := { Regs.zero with s := s }
    cwt := cwt
    cbank := bank
    vbase := l.below x (fun r => r.vcount)
    vcount := r.vcount
    abase := l.below x (fun r => r.acount)
    acount := r.acount
    dommask := r.mask
    domid := dom
    csr := Tab.set 0 [] csrMDPC (.ofNat 64 (imgMdpc p.img)) }
/-- Registers and accumulators of the windows of a core zeroed (R119). -/
def Core.zeroWindows (k : Core) (l : LCore) : Core :=
  let v := l.below 4 (fun r => r.vcount)
  let a := l.below 4 (fun r => r.acount)
  { k with vpool := k.vpool.filter (fun e => e.1 ≥ v), acc := k.acc.filter (fun e => e.1 ≥ a), poisoned := k.poisoned.filter (fun e => decide ((e.1 ≠ .vreg ∨ e.2 ≥ v) ∧ (e.1 ≠ .acc ∨ e.2 ≥ a))) }
/-- One core bound, in the order of R291 and R343; the time in which it held no context that could issue is counted (R67). -/
def bindCore (s : State) (ln : Launch) (i : Nat) (l : LCore) (k : Core) : Core :=
  let d := ln.plan.img
  let rd := fun (a : W64) (n : Nat) => (feWords s ln.asid a.toNat n).getD []
  let k := k.noteIdle
  let k := if k.lastUser = some ln.asid then k else k.wipe
  let k := k.loadCode (imgHalf d) (rd (wordAt d 1) (imgLen d / 8))
  let cwt := cwtOf (rd (wordAt d 3) 2048)
  let bank := bankOf (rd (wordAt d 4) 512)
  let k := match loadRoutines s ln.asid d (imgRout d) k with
    | .ok k => k
    | .error _ => k
  let k := (List.range 16).foldl (fun k n => match ltabFmt ln.plan.ltab n with
    | some v => k.wC (0x80 + n) v
    | none => k) k
  let k := k.zeroWindows l
  let on := ctxNums.filter (fun x => (l.ctxs.getD x (ctxRecOf [])).bind)
  let k := ctxNums.foldl (fun k x =>
    let r := l.ctxs.getD x (ctxRecOf [])
    if r.bind then k.setCtx x (boundCtx ln.plan l x r cwt bank) else k.setCtx x Ctx.zero) k
  let k := match on with
    | [] => k
    | x :: _ => (List.range 8).foldl (fun k q => match ltabQueue ln.plan.ltab q with
      | some (lg, b) => (qallocOn x q false (2 ^ lg) b k).1
      | none => k) k
  Core.reselect { k with lastUser := some ln.asid, launch := some ln.id, lindex := i, selected := none, issue := none, fatal := none }

/-- A die is in RUN (R348). -/
def Mach.dieRuns (m : Mach) (d : Nat) : Bool := decide (fld (m.dieReg d 0x080) 4 0 = 0)
/-- The class of a launch. -/
def Mach.classOf (m : Mach) (id : Nat) : Nat := ((m.launch id).map (fun l => l.plan.cls)).getD 0
/-- Does a waiting launch come before another for a core: higher class, then earlier (R295; log 24)? -/
def Launch.before (a b : Launch) : Bool := decide (a.plan.cls > b.plan.cls ∨ (a.plan.cls = b.plan.cls ∧ a.id < b.id))
/-- Does the launch use the core? -/
def Launch.uses (l : Launch) (c : Nat) : Bool := l.plan.cores.any (fun x => x.core == c)
/-- Where the area of launch core index `i` lies (R297). -/
def Launch.area (l : Launch) (i : Nat) : Nat := l.plan.save + 0x200000 * i
/-- The core on which a saved core resumes: the one that CORE of its area's header names now, or the one it was saved from while the
header cannot be read (R298). -/
def State.resumesOn (s : State) (v : Saved) : Nat :=
  match s.mach.launch v.launch with
  | none => v.num
  | some l => match readVa s feAgent l.asid (l.area v.lindex) 8 accRead with
    | .ok bs => bitsOf (leNat bs) 25 16
    | .error _ => v.num
/-- Can a launch be bound: its cores are its tenant's, hold no launch, lie on dies in RUN, and no waiting launch or saved
core comes before it there (R291, R295, R348; log 24). -/
def State.canBind (s : State) (l : Launch) : Bool :=
  let m := s.mach
  decide (l.stat = .waiting) && l.plan.cores.all (fun x =>
    let k := m.core x.core
    decide (k.launch = none ∧ k.owner = some l.asid) && m.dieRuns (dieOf x.core) &&
    !m.launches.any (fun w => decide (w.id ≠ l.id ∧ w.stat = .waiting) && w.uses x.core && w.before l) &&
    !m.saved.any (fun v => decide (v.held = false ∧ m.classOf v.launch ≥ l.plan.cls ∧ s.resumesOn v = x.core)))
/-- The longest latency of a LIVE launch that found a core held is kept (R281, R299); its ns are not modelled (log 2). -/
def Mach.noteLatency (m : Mach) (l : Launch) : Mach :=
  if l.plan.cls = 2 ∧ l.late = true then
    let n := acOf m.tick 0x430
    if (m.portReg l.host 0x430).toNat < n.toNat then m.setPortReg l.host 0x430 n else m
  else m
/-- The queue that waits for a binding goes on. -/
def Mach.letGo (m : Mach) (l : Launch) : Mach :=
  let h : BitVec 1 := .ofNat 1 l.host
  let q : BitVec 6 := .ofNat 6 l.queue
  let f := m.feq h q
  if f.holds = some l.id then m.setFeq h q { f with holds := none } else m
/-- What the binding of a core reads: the image, its tables, its routines (R343). -/
def Launch.binds (l : Launch) (s : State) : List (Nat × Nat) :=
  let d := l.plan.img
  [((wordAt d 1).toNat, imgLen d), ((wordAt d 3).toNat, 16384), ((wordAt d 4).toNat, 4096)] ++
  (List.range (imgRout d)).map (fun i =>
    (imgRoutAt d i, 64 + 8 * ((feWords s l.asid (imgRoutAt d i) 1).map (fun w => fld (wordAt w 0) 31 20)).getD 0))
/-- The launch is bound: its cores one after another (R291). -/
def bindAll (l : Launch) (s : State) : State :=
  let m := (List.range l.plan.cores.length).foldl (fun m i => match l.plan.cores[i]? with
    | some c => m.upd c.core (bindCore s l i c)
    | none => m) s.mach
  { s with mach := ((m.noteLatency ((m.launch l.id).getD l)).letGo l).onLaunch l.id (fun l => { l with stat := .bound }) }
/-- LAUNCH_BIND (R291): its binding may pre-empt the cores it needs, and reads what it binds through the ports (R256). -/
def launchBind (id : Nat) (s : State) : Option State :=
  match s.mach.launch id with
  | none => none
  | some l =>
    let s1 : State := { s with mach := s.mach.demand l }
    match (if s1.canBind l then s1.transfer 0 l.asid launchHolder (4 * id) [(.read 0, l.binds s1)] (fun s => some (bindAll l s)) else none) with
    | some t => some t
    | none => if s1.mach = s.mach then none else some s1
def execLaunchBind (id : Nat) (s : State) : Out := stepState s (launchBind id s)

/-! ### The end of a launch on a core (R61, R99) -/

/-- What a core's engines still hold. -/
def Core.quiet (k : Core) : Bool :=
  ctxNums.all (fun x => k.drained x) && k.fills.isEmpty && k.stores.isEmpty && k.atomics.isEmpty && k.cq.isEmpty && k.issue.isNone
/-- Has the launch ended on the core: every bound context is IDLE, fills have landed, accesses are performed? -/
def Core.mayEnd (k : Core) : Bool :=
  k.launch.isSome && ctxNums.all (fun x => decide ((k.ctx x).st = .unbound ∨ (k.ctx x).st = .idle)) && k.quiet
/-- Everything a launch held is freed (R61, R120, R150, R224). -/
def Core.free (k : Core) : Core :=
  let bars := (List.range 64).foldl (fun t n =>
    let b := Tab.get Barrier.zero k.bars n
    if b.alloc then Tab.set Barrier.zero t n { Barrier.zero with gen := (b.gen + 1) % 65536 } else t) k.bars
  { k with ctxs := [], launch := none, lindex := 0, selected := none, bars := bars, arrivals := [], rlcVec := none, raced := [], stages := [], wtags := [], rtab := k.rtab.filter (fun e => e.1 < 0x80), away := [], fetches := [], poisoned := k.poisoned.filter (fun e => e.1 ≠ .aStage), part := [], partAcc := 0, partP := 0, partN := 0 }
/-- The first GUARDST with PEND = 1 of the launch, by launch core index and then context (R292). -/
def firstGuard (i : Nat) (k : Core) (old : Option (Nat × Nat × W64)) : Option (Nat × Nat × W64) :=
  match ctxNums.find? (fun x => flag ((k.ctx x).rC csrGUARDST) 20) with
  | none => old
  | some x => match old with
    | some (j, y, w) => if j < i then some (j, y, w) else some (i, x, (k.ctx x).rC csrGUARDST)
    | none => some (i, x, (k.ctx x).rC csrGUARDST)
/-- The controller of a core's cluster, if a context of the core owns it, is aborted and freed (R266). -/
def rlcDrop (core : Nat) (s : State) : State :=
  let cl := clusterOf core
  let r := s.mach.rlc cl
  if r.st = 0 ∨ r.core ≠ core then s
  else
    let s := if r.st = 1 then rlcCut cl r s else s
    { s with mach := s.mach.setRlc cl Rlc.zero }
/-- No step of the core's controller is at work (R266, R278). -/
def Mach.rlcRests (m : Mach) (core : Nat) : Bool :=
  let r := m.rlc (clusterOf core)
  decide (r.st ≠ 1 ∨ r.core ≠ core) || r.atBoundary (m.core core)
/-- An exit that no context collected. -/
def Mach.exitOf (m : Mach) (core : Nat) : Option Nat :=
  let r := m.rlc (clusterOf core)
  if r.st = 2 ∧ r.core = core then some core else none
/-- LAUNCH_END_CORE. -/
def endCore (core : Nat) (s : State) : Option State :=
  let k := s.mach.core core
  match k.launch with
  | none => none
  | some id =>
    if k.mayEnd = false ∨ s.mach.rlcRests core = false then none
    else
      let unc := s.mach.exitOf core
      let m := (List.range 8).foldl (fun m i => m.declineAt core i) s.mach
      let s := rlcDrop core { s with mach := m }
      let m := Mach.pruneColls ((s.mach.upd core Core.free).onLaunch id (fun l =>
        { l with ended := k.lindex :: l.ended, guard := firstGuard k.lindex k l.guard, uncollected := l.uncollected.orElse (fun _ => unc) }))
      some { s with mach := { m with saves := m.saves.filter (fun r => r.core ≠ core) } }
def execLaunchEndCore (core : Nat) (s : State) : Out :=
  if core ≥ 640 then .fault .noSuchUnit else stepState s (endCore core s)

/-! ### Stopping a launch (R292, R300, R309) -/

/-- A context stops at once: it is IDLE, and nothing of it is still to issue or to run. -/
def Ctx.stopped (x : Ctx) : Ctx :=
  if x.st = .unbound then x
  else { x with st := .idle, inh := false, handling := none, waiting := [], blk := none, fence := none, ifence := false, dbar := none, wait := none, answer := none, markWait := none, hold := none, susp := none }
/-- Every context of a core stops; its posted accesses are still performed (R292). -/
def Core.stop (k : Core) : Core :=
  let k := ctxNums.foldl (fun k x => k.upd x Ctx.stopped) k
  { k with selected := none, issue := none, fatal := none, vparts := [], divider := none, loads := [], rq := k.rq.filter (fun r => r.ctrl), fetches := [], cq := [], fills := [] }
/-- The requests of the cores' copies leave the ports, and those of their waiting operations, saves and loads that have not been
performed. -/
def Mach.dropCorePorts (m : Mach) (cores : List Nat) : Mach :=
  let posted := fun (c tag : Nat) => (m.core c).stores.any (fun q => q.fl.iss.seq == tag) || (m.core c).atomics.any (fun f => f.iss.seq == tag)
  let gone := fun (h : Nat) => cores.any (fun c => h == c || h == waitHolder c || h == saveHolder c)
  { m with
    portReqs := m.portReqs.filter (fun r => !gone r.core && !cores.any (fun c => r.core == scalarHolder c && !posted c r.tag))
    asked := m.asked.filter (fun e => !gone e.1) }
/-- A launch is stopped on all its cores with a status; saved cores are discarded and count as ended, an exit that one of them holds
as not collected; their contexts' GUARDST count (R266, R292, R300). -/
def Mach.stopLaunch (m : Mach) (id : Nat) (f : Launch → Launch) : Mach :=
  match m.launch id with
  | none => m
  | some l =>
    let on := (m.cores.filter (fun e => decide (e.2.launch = some id))).map (·.1)
    let mine := m.saved.filter (fun v => v.launch == id)
    let gone := mine.map (·.lindex)
    let unc := (mine.find? (fun v => v.rlc.any (fun r => r.st == 2))).map (·.num)
    let never := if l.stat = .waiting then List.range l.plan.cores.length else []
    let m := on.foldl (fun m c => m.upd c Core.stop) (mine.foldl (fun m v => m.dropPorts restoreHolder v.order) m)
    let m := ((m.dropCorePorts on).dropPorts launchHolder (4 * id)).letGo l
    let m := { m with saved := m.saved.filter (fun v => v.launch ≠ id), saves := m.saves.filter (fun r => !on.contains r.core) }
    (m.onLaunch id (fun l => f { l with
      ended := l.ended ++ gone ++ never
      stat := .bound
      guard := mine.foldl (fun g v => firstGuard v.lindex v.core g) l.guard
      uncollected := l.uncollected.orElse (fun _ => unc) })).pruneColls
/-- The first fatal fault of a launch gives its record (R292, R309). -/
def fatalStatus (cause core x : Nat) (epc : W64) (l : Launch) : Launch :=
  if l.status = 0 then { l with status := 1, fcause := cause, fcore := core, fctx := x, fepc := epc } else l
/-- LAUNCH_ABORT (R292, R300). -/
def launchAbort (id : Nat) (s : State) : Option State :=
  match s.mach.launch id with
  | none => none
  | some l => if l.stat = .done then none else
      some { s with mach := s.mach.stopLaunch id (fun l => if l.status = 0 then { l with status := 2 } else l) }
def execLaunchAbort (id : Nat) (s : State) : Out := stepState s (launchAbort id s)

/-! ### The end of a launch (R292) -/

/-- The completion record. -/
def Launch.record (l : Launch) : List Byte :=
  let f := decide (l.status = 1)
  let w0 := l.status + (if f then l.fcause % 256 * 2 ^ 8 + l.fcore % 1024 * 2 ^ 16 + l.fctx % 4 * 2 ^ 26 else 0)
  let w1 := (l.guard.map (fun g => g.2.2.toNat)).getD 0
  let w2 := match l.uncollected with
    | some c => 1 + c % 1024 * 2
    | none => 0
  let w3 := l.saves % 2 ^ 32 + fld l.maxns 31 0 * 2 ^ 32
  let w4 := if f then l.fepc.toNat else 0
  ([w0, w1, w2, w3, w4, 0, 0, 0] : List Nat).flatMap (fun w => leBytes w 8)
/-- Every core has ended the launch. -/
def Launch.allEnded (l : Launch) : Bool :=
  decide (l.stat = .bound) && (List.range l.plan.cores.length).all (fun i => l.ended.contains i)
/-- The frames of a launch, and the units of far DRAM that their writing back moves, page by page, through the tier engines' ports
(R255, R256). -/
def Mem.framesOf (m : Mem) (id : Nat) : List Staged := m.staged.filter (fun g => g.launch = some id)
def Mem.frameReqs (m : Mem) (id holder tag : Nat) : List PortReq :=
  (m.framesOf id).filterMap (fun g =>
    let u := moveUnits m .frames 0 (g.page * 65536) 65536
    if u = 0 then none else some ⟨g.die, 0, g.asid, u, holder, tag⟩)
/-- The bindings of the launch end and its frames are written back and freed (R255, R264). -/
def releaseTiers (id : Nat) (s : State) : State :=
  let mine := s.mach.bindings.filter (fun b => b.launch = some id)
  let rs := (s.mem.framesOf id).map (fun g => (g.page * 65536, 65536))
  let m := { s.mach with
    bindings := s.mach.bindings.filter (fun b => b.launch ≠ some id)
    portReqs := s.mach.portReqs.filter (fun r => !mine.any (fun b => b.holder == r.core))
    asked := s.mach.asked.filter (fun e => !mine.any (fun b => b.holder == e.1)) }
  { mach := m, mem := (s.mem.frameBack rs).unstage rs }
/-- A signal is added once, as a relaxed atomic, where its address is not 0; a lost port is counted (R292, R327). -/
def signalEnd (asid : Nat) (sig val : W64) (s : State) : State :=
  if sig = 0 then s else State.noteLostAt { s with mem := signalMem s asid sig.toNat val false } 0 asid sig.toNat
/-- What the end of a launch or graph writes, adds and reads. -/
def endMoves (va n : Nat) (sig : W64) : List (Move × List (Nat × Nat)) :=
  [(.write, [(va, n)]), (.read 0, if sig = 0 then [] else [(sig.toNat, 8)])]
/-- The launch is over: its frames are back, then its record is written, then its signal (R292). -/
def completeLaunch (l : Launch) (s : State) : State :=
  let s := releaseTiers l.id s
  let s := signalEnd l.asid l.sig l.val (storeRuns s 0 l.asid l.plan.comp l.record 0)
  match l.graph with
  | some _ => { s with mach := s.mach.onLaunch l.id (fun l => { l with stat := .done }) }
  | none => completePkt l.host l.queue l.pidx { s with mach := { s.mach with launches := s.mach.launches.filter (fun (x : Launch) => x.id ≠ l.id) } }
/-- LAUNCH_COMPLETE: once every core has ended it and the ports have moved what the end writes (R256). -/
def launchComplete (id : Nat) (s : State) : Option State :=
  match s.mach.launch id with
  | none => none
  | some l =>
    if l.allEnded = false ∨ (s.mem.framesOf id).any (fun g => s.mach.asleep 0 (g.page * 65536)) = true then none
    else s.transfer 0 l.asid launchHolder (4 * id + 1) (endMoves l.plan.comp 64 l.sig) (fun s => some (completeLaunch l s))
      (s.mem.frameReqs id launchHolder (4 * id + 1))
def execLaunchComplete (id : Nat) (s : State) : Out := stepState s (launchComplete id s)

/-! ### Graphs (R293) -/

/-- What follows a node: the next one, or the graph's status. A launch that did not complete ends the graph FATAL; a branch
word that cannot be read is out of range (log 25). -/
def graphNext (s : State) (g : Graph) (l : Launch) : Nat ⊕ Nat :=
  match g.plan.nodes[g.node]? with
  | none => .inr 0
  | some n =>
    if l.status ≠ 0 then .inr 3
    else if n.succ = [] then .inr 0
    else
      let pick := if n.branch = 0 then n.succ[0]? else
        match feWords s g.asid n.branch 1 with
        | some [v] => n.succ[v.toNat]?
        | _ => none
      match pick with
      | none => .inr 1
      | some k => if g.runs ≥ g.plan.maxruns then .inr 2 else .inl k
/-- The graph ends with a status: its word, its signal, its packet (R293). -/
def graphEnd (g : Graph) (st : Nat) (s : State) : State :=
  let w := st + g.node % 256 * 2 ^ 8 + g.runs % 65536 * 2 ^ 16
  let s := signalEnd g.asid g.sig g.val (storeRuns s 0 g.asid g.plan.status (leBytes w 8) 0)
  completePkt g.host g.queue g.pidx { s with mach := { s.mach with graphs := s.mach.graphs.filter (fun (x : Graph) => x.id ≠ g.id) } }
/-- The finished node's launch goes, and the next node's comes or the graph ends. -/
def endNode (g : Graph) (l : Launch) (s : State) : State :=
  let s := { s with mach := { s.mach with launches := s.mach.launches.filter (fun (x : Launch) => x.id ≠ l.id) } }
  match graphNext s g l with
  | .inr st => graphEnd g st s
  | .inl k => match g.plan.nodes[k]? with
    | none => graphEnd g 1 s
    | some n =>
      let nl := newLaunch s.mach.nextId g.asid g.host g.queue g.pidx (some g.id) n.plan 0 0
      let g' : Graph := { g with node := k, runs := g.runs + 1 }
      let m := { s.mach with
        nextId := s.mach.nextId + 1
        launches := s.mach.launches ++ [nl]
        graphs := s.mach.graphs.map (fun (x : Graph) => if x.id = g.id then g' else x) }
      { s with mach := m.demand nl }
/-- GRAPH_NODE_END: once the ports have moved the branch word and, where the graph ends, what that writes (R256). -/
def graphNodeEnd (id : Nat) (s : State) : Option State :=
  match s.mach.graphs.find? (fun g => g.id == id), s.mach.launches.find? (fun l => decide (l.graph = some id ∧ l.stat = .done)) with
  | some g, some l =>
    let branch := ((g.plan.nodes[g.node]?).map (fun n => n.branch)).getD 0
    let mv := (.read 0, if branch = 0 then [] else [(branch, 8)]) :: if (graphNext s g l).isRight then endMoves g.plan.status 8 g.sig else []
    s.transfer 0 g.asid launchHolder (4 * id + 2) mv (fun s => some (endNode g l s))
  | _, _ => none
def execGraphNodeEnd (id : Nat) (s : State) : Out := stepState s (graphNodeEnd id s)

end Sys2Proof.Machine
end

