-- ==== Sys2Proof/Machine/Splice.lean ====
section
/-! DEFINITION. The messages of splices on arrival (R93 to R97, R99, R105, R106): appends, head advances, freezes, thaws,
the splice and unsplice handshakes. A message is named by its place among those that have left a core. -/
namespace Sys2Proof.Machine
open Sys2Proof

/-- The queue at an address. -/
def Mach.queueAt (m : Mach) (a : QAddr) : Queue := (m.core a.core).queue a.ctx a.q
/-- The queue at an address changed. -/
def Mach.onQueueAt (m : Mach) (a : QAddr) (f : Queue → Queue) : Mach := m.upd a.core (fun k => k.onQueue a.ctx a.q f)
/-- A message sent from a core. -/
def Mach.send (m : Mach) (c : Nat) (g : Msg) : Mach := m.upd c (fun k => k.send g)
/-- Does the queue at `a` stand as the end of a role whose partner is `b`? -/
def Mach.isEnd (m : Mach) (a b : QAddr) (r : Role) : Bool :=
  let q := m.queueAt a
  q.alloc && decide (q.role = r ∧ q.partner.toNat = b.word)
/-- Does a saved core hold, from the place `a`, a FROZEN end of that role with partner `b` (R96)? -/
def Mach.savedEnd (m : Mach) (a b : QAddr) (r : Role) : Option Queue :=
  m.saved.findSome? (fun v =>
    let q := v.core.queue a.ctx a.q
    if v.num = a.core ∧ q.alloc = true ∧ q.frozen = true ∧ q.role = r ∧ q.partner.toNat = b.word then some q else none)
/-- The address a message goes to, for the messages that keep their order (R95 to R97). -/
def Msg.dst (g : Msg) : QAddr :=
  match g with
  | .append d .. => d
  | .head d _ => d
  | .freezeReq d _ => d
  | .marker d .. => d
  | .ack d => d
  | .thaw d .. => d
  | .thawReply d .. => d
  | .splice d .. => d
  | .unsplice d _ => d
/-- The position an append fills. -/
def Msg.pos (g : Msg) : Option Nat :=
  match g with
  | .append (pos := p) .. => some p
  | _ => none
/-- No earlier message of its kind from the core to the same queue is still on its way: appends may overtake one another (R93), but
not one to the same position (log 39). -/
def Core.first (k : Core) (idx : Nat) : Bool :=
  match k.out[idx]? with
  | none => false
  | some g => !((k.out.take idx).any (fun h => h.dst == g.dst && h.pos == g.pos))
/-- A step that takes message `idx` of a core, if it is of the step's kind and ready. -/
def msgStep (c idx : Nat) (f : Msg → Mach → Option Mach) (s : State) : Out :=
  if c ≥ 640 then .fault .noSuchUnit
  else
    let k := s.mach.core c
    match k.out[idx]? with
    | none => .next s
    | some g =>
      if k.first idx = false then .next s
      else match f g (s.mach.setCore c { k with out := dropNth k.out idx }) with
        | some m => stepMach s m
        | none => .next s

/-! ### Appends (R93, R99, R100) -/

/-- Are the accesses performed that an append of bundle `seq` releases (R100)? -/
def Core.releasedBefore (k : Core) (x seq : Nat) : Bool :=
  let early := fun (f : Flight) => decide (f.iss.ctx = x ∧ f.iss.seq < seq)
  !(k.stores.any (fun p => early p.fl) || k.atomics.any early || k.loads.any early)
/-- Landed positions are released in order; each release is counted (R93, R114). -/
def Core.releaseLanded (k : Core) (x n : Nat) : Core :=
  let q := k.queue x n
  let r := q.release q.cap
  (k.onQueue x n (fun _ => r.1)).inc 0x72 (BitVec.ofNat 64 r.2)
/-- Does an append end the replay of a parked copy? One that a further translation fault has poisoned leaves it parked (R318). -/
def endsReplay (st : PSt) (t : Tile) (copied : Bool) : Bool :=
  copied && !(decide (st = .poison) && decide (t.toNat % 256 = cXLATE))
/-- The copy that fills a position of a target end is parked no longer (R319). -/
def Core.strike (k : Core) (d : QAddr) (p : Nat) : Core := { k with away := k.away.erase (d.ctx, d.q, p) }
/-- A tile lands in its slot, once the bank is free (R115). -/
def Core.landAppend (k : Core) (d : QAddr) (p : Nat) (st : PSt) (t : Tile) : Core := (k.land d.ctx d.q p st t).bankWait
/-- An append reaches its target; at a freed queue it is discarded and counted, and a replayed tile whose position has been freed
too (R99, R114, R318). A re-executed part's read of the position waits until then (R319). -/
def appendArrive (g : Msg) (m : Mach) : Option Mach :=
  match g with
  | .append d src seq p st t again copied =>
    let m' := if again && endsReplay st t copied then m.upd d.core (fun k => k.strike d p) else m
    if (m.core src.core).releasedBefore src.ctx seq = false then none
    else if m.isEnd d src .target = false then some (m'.upd d.core (fun k => k.inc 0x74 1))
    else
      let q := m.queueAt d
      if again then
        (if (q.cell p).st = .poison ∧ q.canFill p = true then some (m'.upd d.core (fun k => k.landAppend d p st t))
         else if (q.cell p).st = .free ∧ q.canFill p = true ∧ q.dist q.head p ≥ q.dist q.head q.tail then
           some (m'.upd d.core (fun k => (k.landAppend d p st t).releaseLanded d.ctx d.q))
         else some (if copied then m'.upd d.core (fun k => k.inc 0x74 1) else m'))
      else if q.canFill p then some (m.upd d.core (fun k => (k.landAppend d p st t).releaseLanded d.ctx d.q))
      else none
  | _ => none
/-- SPLICE_APPEND_ARRIVE. -/
def execSpliceAppendArrive (core idx : Nat) (s : State) : Out := msgStep core idx appendArrive s

/-- A head advance reaches the producer end: HEAD, IHEAD and SHEAD move together (R95). -/
def Queue.setHeads (q : Queue) (v : Nat) : Queue := { q with shead := v, head := v, ihead := v }
def headArrive (g : Msg) (m : Mach) : Option Mach :=
  match g with
  | .head d v =>
    let q := m.queueAt d
    some (if q.alloc = true ∧ q.role = .producer then m.onQueueAt d (fun q => q.setHeads v) else m)
  | _ => none
/-- HEAD_ADVERTISE (R95). -/
def execHeadAdvertise (core idx : Nat) (s : State) : Out := msgStep core idx headArrive s

/-! ### Freezing (R96) -/

/-- A freeze request reaches the producer end, which sends its marker; an end that is FROZEN or saved answers at once. Each end learns
from the other whether a context made the freeze (R97). -/
def freezeReqArrive (g : Msg) (m : Mach) : Option Mach :=
  match g with
  | .freezeReq d src =>
    if m.isEnd d src .producer then
      let q := m.queueAt d
      let m := m.onQueueAt d (fun q => { q with freezing := !q.frozen, held := q.held || (m.queueAt src).held })
      some (if q.freezing then m else m.send d.core (.marker src d q.tail))
    else match m.savedEnd d src .producer with
      | some q => some (m.send d.core (.marker src d q.tail))
      | none => some m
  | _ => none
/-- FREEZE_REQUEST. -/
def execFreezeRequest (core idx : Nat) (s : State) : Out := msgStep core idx freezeReqArrive s
/-- The marker is released at the target once every position before the final tail is: the target is FROZEN and
acknowledges. -/
def markerArrive (g : Msg) (m : Mach) : Option Mach :=
  match g with
  | .marker d src t =>
    if m.isEnd d src .target then
      let q := m.queueAt d
      if q.tail ≠ t then none
      else some ((m.onQueueAt d (fun q => { q with frozen := true, freezing := false, ftail := some t, held := q.held || (m.queueAt src).held })).send d.core (.ack src))
    else if (m.savedEnd d src .target).isSome then some (m.send d.core (.ack src))
    else some m
  | _ => none
/-- FREEZE_MARKER. -/
def execFreezeMarker (core idx : Nat) (s : State) : Out := msgStep core idx markerArrive s
/-- The acknowledgement reaches the producer end, which becomes FROZEN. -/
def ackArrive (g : Msg) (m : Mach) : Option Mach :=
  match g with
  | .ack d =>
    let q := m.queueAt d
    some (if q.alloc = true ∧ q.role = .producer ∧ q.freezing = true then
      m.onQueueAt d (fun q => { q with frozen := true, freezing := false, ftail := some q.tail }) else m)
  | _ => none
/-- FREEZE_ACK. -/
def execFreezeAck (core idx : Nat) (s : State) : Out := msgStep core idx ackArrive s

/-! ### Thawing (R97) -/

/-- FROZEN and PFRZ clear. -/
def Queue.thawed (q : Queue) : Queue := { q with frozen := false, pfrz := false, ftail := none, held := false }
/-- An answer to the waiting operation of opcode `o` on queue `d.q` of context `d.ctx`. -/
def Mach.answer (m : Mach) (d : QAddr) (o : Nat) (w : W64) : Mach :=
  m.upd d.core (fun k => k.upd d.ctx (fun c =>
    match c.wait with
    | some fl => match sysPart fl.i with
      | some (o', p) => if o' = o ∧ queueNo p = d.q ∧ c.answer = none then { c with answer := some w } else c
      | none => c
    | none => c))
/-- An end thaws; a target then advertises the HEAD it has moved to meanwhile. -/
def Mach.thawEnd (m : Mach) (d : QAddr) : Mach :=
  (m.onQueueAt d Queue.thawed).upd d.core (fun k => k.advertise d.ctx d.q)
/-- The partner checks the thawing end; on success it takes or gives the target's HEAD and thaws. -/
def thawArrive (g : Msg) (m : Mach) : Option Mach :=
  match g with
  | .thaw d src role cap tail =>
    let q := m.queueAt d
    let opp : Role := if role = .target then .producer else .target
    if m.isEnd d src opp = true ∧ q.frozen = true ∧ q.cap = cap ∧ q.tail = tail then
      let h := if role = .target then (m.queueAt src).head else q.head
      let m := if role = .target then m.onQueueAt d (fun q => q.setHeads h) else m
      some (((m.onQueueAt d Queue.thawed).send d.core (.thawReply src true h)).upd d.core (fun k => k.advertise d.ctx d.q))
    else some (m.send d.core (.thawReply src false 0))
  | _ => none
/-- THAW_HANDSHAKE. -/
def execThawHandshake (core idx : Nat) (s : State) : Out := msgStep core idx thawArrive s
/-- Does the context of an end wait for its QTHAW? -/
def Mach.thawing (m : Mach) (d : QAddr) : Bool :=
  match ((m.core d.core).ctx d.ctx).wait with
  | some fl => (sysPart fl.i).any (fun v => decide (v.1 = 0x367 ∧ queueNo v.2 = d.q))
  | none => false
/-- A failed handshake answers the QTHAW that made it; one that a restore made is reported to the tenant's host (R98; log 34). -/
def Mach.thawFails (m : Mach) (d : QAddr) : Mach :=
  if m.thawing d then m.answer d 0x367 (.ofNat 64 (2 ^ 63 + 13))
  else match ((m.core d.core).owner).bind (fun a => Tab.get none m.tenants a) with
    | some h => { m with reports := m.reports ++ [(h, d)] }
    | none => m
/-- The answer reaches the thawing end; of a failed handshake neither end changes. -/
def thawReplyArrive (g : Msg) (m : Mach) : Option Mach :=
  match g with
  | .thawReply d ok h =>
    if ok then
      let m := if (m.queueAt d).role = .producer then m.onQueueAt d (fun q => q.setHeads h) else m
      some ((m.thawEnd d).answer d 0x367 (.ofNat 64 h))
    else some (m.thawFails d)
  | _ => none
/-- THAW_REPLY. -/
def execThawReply (core idx : Nat) (s : State) : Out := msgStep core idx thawReplyArrive s

/-! ### Splicing (R105, R106) -/

/-- An end on a core that a save has stopped starts to freeze for it (R98). -/
def Mach.freezeSaved (m : Mach) (a : QAddr) : Mach := if m.saving a.core then m.upd a.core (freezeStart a.core a.ctx a.q true) else m
/-- The partner's queue stands in a saved core of the launch (log 39). -/
def Mach.awaySaved (m : Mach) (src d : QAddr) : Bool :=
  m.saved.any (fun v => decide (v.num = d.core ∧ (m.core src.core).launch = some v.launch) && (v.core.queue d.ctx d.q).alloc)
/-- The splice message reaches the partner: a local queue of the same tenant and capacity, unfrozen, becomes the target end,
and the waiting queue the producer end. It waits for a partner that a pre-emption has saved, and freezes the ends for a save that has
stopped one's core (R354). -/
def spliceArrive (g : Msg) (m : Mach) : Option Mach :=
  match g with
  | .splice d src asid cap =>
    let q := m.queueAt d
    let waiting := match ((m.core src.core).ctx src.ctx).wait with
      | some fl => (sysPart fl.i).map (fun v => decide (v.1 = 0x363 ∧ queueNo v.2 = src.q)) = some true
      | none => false
    if waiting = true ∧ m.awaySaved src d = true then none
    else if d.core ≥ 640 ∨ q.alloc = false ∨ q.role ≠ .loc ∨ q.frozen = true ∨ q.cap ≠ cap ∨
        (m.core d.core).owner ≠ some asid ∨ waiting = false then
      some (m.answer src 0x363 (.ofNat 64 (2 ^ 63 + 11)))
    else
      let m := m.onQueueAt d (fun q => { q with role := .target, partner := .ofNat 15 src.word })
      let m := m.onQueueAt src (fun p =>
        { p with role := .producer, partner := .ofNat 15 d.word, tail := q.tail, shead := q.head, head := q.head, ihead := q.head, pos := [] })
      some (((m.answer src 0x363 (.ofNat 64 q.tail)).freezeSaved d).freezeSaved src)
  | _ => none
/-- SPLICE_REQUEST. -/
def execSpliceRequest (core idx : Nat) (s : State) : Out := msgStep core idx spliceArrive s
/-- An end becomes local (R106), and a freeze that has not come to its end with it: where its own QFREEZE waits, it is FROZEN as a
local queue is (R108; log 39). -/
def Queue.unspliced (q : Queue) : Queue :=
  { q with role := .loc, partner := 0, shead := q.head, frozen := (q.frozen || q.freezing) && !q.pfrz, freezing := false, pfrz := false, ftail := none, held := false }
/-- The unsplice message reaches the target once every append is released there: both ends become local. -/
def unspliceArrive (g : Msg) (m : Mach) : Option Mach :=
  match g with
  | .unsplice d src =>
    if m.isEnd d src .target = false then some m
    else if (m.queueAt d).tail ≠ (m.queueAt src).tail then none
    else
      let t := (m.queueAt src).tail
      let m := m.onQueueAt d Queue.unspliced
      let m := m.onQueueAt src (fun q =>
        { q.unspliced with frozen := false, head := 0, ihead := 0, tail := 0, shead := 0, pos := [] })
      some (m.answer src 0x364 (.ofNat 64 t))
  | _ => none
/-- UNSPLICE_REQUEST. -/
def execUnspliceRequest (core idx : Nat) (s : State) : Out := msgStep core idx unspliceArrive s

end Sys2Proof.Machine
end

