-- ==== Sys2Proof/Machine/Preempt.lean ====
section
/-! DEFINITION. Pre-emption (R295 to R300): stopping, freezing and draining a core, its save area, and its restore. -/
namespace Sys2Proof.Machine
open Sys2Proof

/-! ### What a save waits for, and what it keeps (R98, R109, R175, R184, R222, R244, R278) -/

/-- The queues of a core: context and number. -/
def queueNos : List (Nat × Nat) := ctxNums.flatMap (fun x => (List.range 8).map (fun n => (x, n)))
/-- The copies that a save keeps instead of waiting for them: range copies, collectives, and copies out that it cancels, which wait
for a position of a frozen target at or beyond the final tail (R98, R222, R337). -/
def Core.keepsCopy (k : Core) (c : Copy) : Bool := (cpIn c.fl).range || k.cancels c
/-- The routines that it keeps: one that waits beyond a final tail is cancelled, those behind it or behind a faulted routine of their
context cannot start; every other runs to its retirement (R98, R153, R175; log 34). -/
def Core.keepsRoutines (k : Core) : Bool :=
  k.fetches.isEmpty && k.rq.all (fun r => !r.mret) &&
  (match k.running with
   | some r => !r.ctrl && (r.pend.map (k.beyond r.fl.iss.ctx)).getD false
   | none => match k.rq.head? with
     | some r => !r.ctrl && k.routineFaulted r.fl.iss.ctx r.seq
     | none => true)
/-- The reads that stay with what is kept, with their contexts: of cancelled operations, and of faulted parts (R92, R98). -/
def Core.keptReads (k : Core) : List (Nat × ReadRes) :=
  k.cq.flatMap (fun c => (c.fl.iss.readsOf 6).map (fun r => (c.fl.iss.ctx, r))) ++
  k.rq.flatMap (fun r => r.pend.toList.map (fun p => (r.fl.iss.ctx, p))) ++
  ctxNums.flatMap (fun x => ((k.ctx x).heldParts.map (·.2)).flatMap (fun fp => match fp.routine with
    | some r => r.pend.toList.map (fun p => (x, p))
    | none => (fp.fl.iss.readsOf (partNo fp.fl.i)).map (fun p => (x, p))))
/-- The positions that what is kept has reserved and not filled. -/
def Core.keptDests (k : Core) : List (Nat × DestRes) :=
  k.cq.flatMap (fun c => c.dests.map (fun d => (c.fl.iss.ctx, d))) ++
  k.rq.flatMap (fun r => r.resv.map (fun d => (r.fl.iss.ctx, d))) ++
  k.fills.map (fun f => (f.ctx, ⟨0, f.q, f.pos⟩))
/-- A queue has drained as for QSAVE, but for what is kept (R98, R109): a splice end is FROZEN; every read is complete but those kept;
fills have landed but those that wait for a position which a kept read holds; nothing waits to be consumed. -/
def Core.queueSaved (k : Core) (x n : Nat) : Bool :=
  let q := k.queue x n
  let kept := (k.keptReads.filter (fun e => decide (e.1 = x ∧ e.2.q = n))).map (·.2.pos)
  let dests := (k.keptDests.filter (fun e => decide (e.1 = x ∧ e.2.q = n))).map (·.2.pos)
  !q.alloc || ((decide (q.role = .loc) || (q.frozen && !q.freezing)) &&
    (decide (q.role = .producer) ||
      (q.live.all (fun p => (decide (q.stateAt p ≠ .empty) || dests.contains p) && !q.canConsume p) &&
       q.pos.all (fun e => decide (e.2.reads = kept.count e.1)) &&
       k.fills.all (fun f => decide (f.ctx ≠ x ∨ f.q ≠ n) || (!q.canFill f.pos && decide (kept ≠ []))))))
/-- The operation that a context waits for: its opcode and its part. -/
def Core.waitsOn (k : Core) (x : Nat) : Option (Nat × Part) := ((k.ctx x).wait).bind (fun f => sysPart f.i)
/-- The core has drained: what it still holds is kept, a QSPLICE whose handshake the restore begins again among it. -/
def Core.saveReady (k : Core) : Bool :=
  k.issue.isNone && k.vparts.isEmpty && k.divider.isNone && k.loads.isEmpty && k.atomics.isEmpty && k.stores.isEmpty &&
  k.arrivals.isEmpty && k.cq.all k.keepsCopy && k.keepsRoutines && queueNos.all (fun e => k.queueSaved e.1 e.2) &&
  ctxNums.all (fun x => decide ((k.ctx x).st ≠ .halting) && !(k.waitsOn x).any (fun e => decide (e.1 = 0x364 ∨ e.1 = 0x367)))

/-! ### The save area (R297; log 11) -/

/-- The positions that kept operations have reserved stand in the records as an abandoned append's would (R92, R98). -/
def Core.recordView (k : Core) : Core :=
  k.keptDests.foldl (fun k (x, d) =>
    if (k.queue x d.q).role ≠ .producer ∧ (k.queue x d.q).stateAt d.pos = .empty then k.land x d.q d.pos .poison 0 else k) k
/-- The records of the allotted queues with their offsets in the area, and where the free slots follow. -/
def queueLayout (k : Core) : List (Nat × Nat) → Nat → List (Nat × Nat × Nat × List Byte) × Nat
  | [], o => ([], o)
  | (x, n) :: t, o =>
    if (k.queue x n).alloc then
      let bs := k.queueRecord x n
      let r := queueLayout k t (o + bs.length)
      ((x, n, o, bs) :: r.1, r.2)
    else queueLayout k t o
/-- The bytes an implementation lays out itself (R297; log 11). -/
def ownBytes (t o n : Nat) : Nat × List Byte := (o, (List.range n).map (fun i => Config.saveByte t (o + i)))
/-- A run of equal pieces. -/
def pieces (o n len : Nat) (f : Nat → List Byte) : List (Nat × List Byte) := (List.range n).map (fun i => (o + len * i, f i))
/-- Fields packed into a number: each with its width, the first lowest. -/
def packFields : List (Nat × Nat) → Nat
  | [] => 0
  | (w, v) :: t => v % 2 ^ w + 2 ^ w * packFields t
/-- A barrier in 32 bytes of the pool, and its FADDR apart, for which R297's 2 KiB have no room (log 11). -/
def Barrier.saved (b : Barrier) : List Byte :=
  ([packFields [(16, b.gen), (16, b.epoch), (16, b.exparr), (16, b.arrcnt)],
    packFields [(48, b.expb), (8, b.refcnt), (1, b2n b.alloc), (1, b2n b.armed), (1, b2n b.ovr), (1, b2n b.fault)],
    packFields [(48, b.xtrab), (16, b.oorcnt)], packFields [(48, b.landb), (16, b.vfail)]] : List Nat).flatMap (fun w => leBytes w 8)
/-- A barrier of a pool; none where bits that hold no field are set. -/
def Barrier.ofSaved (bs : List Byte) (faddr : Nat) : Option Barrier :=
  let w := fun i => leNat ((bs.drop (8 * i)).take 8)
  let f := fun (i h l : Nat) => bitsOf (w i) h l
  if w 1 ≥ 2 ^ 60 ∨ faddr ≥ 2 ^ 56 then none
  else some ⟨bitAt (w 1) 56, f 0 15 0, bitAt (w 1) 57, bitAt (w 1) 58, f 0 31 16, f 0 47 32, f 0 63 48, f 1 47 0, f 2 47 0, f 3 47 0,
    f 1 55 48, bitAt (w 1) 59, faddr, f 2 63 48, f 3 63 48⟩
/-- A routine entry in a word (log 11). -/
def REntry.saved (e : REntry) : Nat :=
  packFields [(1, b2n e.valid), (1, b2n e.ctrl), (12, e.start), (12, e.nwords), (3, e.outa), (6, e.outac), (3, e.outb), (6, e.outbc)]
def REntry.ofSaved (w : Nat) : REntry :=
  let f := fun (h l : Nat) => bitsOf w h l
  ⟨bitAt w 0, bitAt w 1, f 13 2, f 25 14, f 28 26, f 34 29, f 37 35, f 43 38⟩
/-- A stage's tag, its seal, its tiles' formats in five words (log 11). -/
def Stage.saved (g : Stage) : List Nat :=
  packFields [(3, g.tag), (1, b2n g.isSealed), (3, g.tiles.length), (1, 1)] :: (List.range 4).map (fun i => (g.tiles.getD i (0, 0)).2.toNat)
/-- A controller's record (R278; log 11): the result word with its flags, FADDR, the block's address, the two FMT values, WORK with
the owner, the factor's column, the number of the bundle that started the run (R277). -/
def Rlc.saved (r : Rlc) (word : W64) : List Nat :=
  [word.toNat + 2 ^ 56 * packFields [(2, r.phase), (1, b2n r.abort), (1, b2n r.escalated), (1, b2n r.hasX), (1, b2n r.hasQ), (1, b2n r.trappend)],
    r.faddr, r.blk, r.fmt0.toNat, r.fmt1.toNat, r.work + r.ctx * 2 ^ 56, r.col, r.seq]
/-- The save area as pieces: offset and bytes. The routine entries, the tags of the weight buffer and of the stages, and the barriers'
FADDR lie in free bytes of the header's 4 KiB (log 11). -/
def saveImage (m : Mach) (core : Nat) : List (Nat × List Byte) :=
  let k := (m.core core).promote.recordView
  let t := m.tick
  let r := m.rlc (clusterOf core)
  let l := queueLayout k queueNos 0x8E000
  let offs := queueNos.map (fun q => ((l.1.find? (fun e => decide (e.1 = q.1 ∧ e.2.1 = q.2))).map (fun e => e.2.2.1)).getD 0)
  let free := (List.range 256).filter (fun s => !k.slotTaken s)
  let tile := fun (v : Tile) => leBytes v.toNat 4096
  let ctl := if r.st ≠ 0 ∧ r.core = core then (r.saved r.word).flatMap (fun w => leBytes w 8) else leBytes 0 64
  [(0, leBytes (2 + m.stepping.toNat * 256 + core * 65536) 8), (8, leBytes k.lindex 8), (16, leBytes (acOf t 1).toNat 8),
    (0x100, offs.flatMap (fun o => leBytes o 8)), (0x200, ctl)] ++
  pieces 0x400 128 8 (fun i => leBytes (Tab.get REntry.zero k.rtab (0x80 + i)).saved 8) ++
  pieces 0x800 64 8 (fun i => leBytes (k.wtag i).toNat 8) ++
  pieces 0xA00 2 40 (fun st => (((Tab.get none k.stages st).map Stage.saved).getD [0, 0, 0, 0, 0]).flatMap (fun w => leBytes w 8)) ++
  pieces 0xB00 64 8 (fun i => leBytes (k.bar i).faddr 8) ++
  pieces 0x1000 64 32 (fun i => (k.bar i).saved) ++
  pieces 0x1800 2048 8 (fun i => leBytes (Tab.get 0 k.ustore (2048 + i)).toNat 8) ++
  (List.range 2).flatMap (fun st => let g := (k.stage st).tiles
    (List.range g.length).map (fun i => (0x5800 + 0x4000 * st + 0x1000 * i, tile (g.getD i (0, 0)).1))) ++
  pieces 0xD800 64 4096 (fun i => tile (Tab.get 0 k.blocks i)) ++
  pieces 0x4D800 64 32 (fun i => leBytes (Tab.get 0 k.books i).toNat 32) ++
  ctxNums.flatMap (fun x =>
    let c := k.ctx x
    let o := 0x4E000 + 0x7000 * x
    if c.st = .unbound then [] else
      ownBytes t o 0x2000 :: (pieces (o + 0x2000) 512 32 (fun n => leBytes (Tab.get 0 c.cwt n).toNat 32) ++
        [(o + 0x6000, tile c.cbank)])) ++
  pieces 0x6A000 640 128 (fun i => leBytes (Tab.get 0 k.vpool i).toNat 128) ++
  pieces 0x7E000 16 4096 (fun i => tile (Tab.get 0 k.acc i)) ++
  l.1.map (fun e => (e.2.2.1, e.2.2.2)) ++
  (List.range free.length).map (fun i => (l.2 + 4096 * i, tile (Tab.get 0 k.spad (free.getD i 0))))

/-! ### Saving (R296) -/

/-- The request for a core. -/
def Mach.saveReq (m : Mach) (c : Nat) : Option SaveReq := m.saves.find? (fun r => r.core == c)
def Mach.onSave (m : Mach) (c : Nat) (f : SaveReq → SaveReq) : Mach :=
  { m with saves := m.saves.map (fun r => if r.core = c then f r else r) }
/-- The launch that runs on a core. -/
def Mach.launchOn (m : Mach) (c : Nat) : Option Launch := ((m.core c).launch).bind m.launch
/-- The first address of a core's save area that its tenant may not write. -/
def saveHole (s : State) (c : Nat) (l : Launch) : Option (Nat × Nat) :=
  firstUnmapped s feAgent l.asid (l.area (s.mach.core c).lindex) 0x200000 accWrite
/-- A fault record with SAVEAREA set goes to the tenant's host (R296, R318). -/
def saveAreaFault (asid core va : Nat) (wr : Bool) (reason : Nat) (s : State) : State :=
  match Tab.get none s.mach.tenants asid with
  | some h => ringWrite h (faultRecord va asid core 0 wr reason false true) s
  | none => s
/-- The core stops at a bundle boundary and its splice ends start to freeze. -/
def startSave (c : Nat) (m : Mach) : Mach :=
  queueNos.foldl (fun m e =>
    let q := (m.core c).queue e.1 e.2
    if q.alloc = true ∧ q.role ≠ .loc then m.upd c (freezeStart c e.1 e.2 true) else m)
    (m.onSave c (fun r => { r with stopped := true }))
/-- The save starts once its area is translated; the first failure is reported. -/
def tryStart (c : Nat) (r : SaveReq) (l : Launch) (s : State) : Option State :=
  match saveHole s c l with
  | none => some { s with mach := startSave c s.mach }
  | some (va, e) =>
    if r.noted then none
    else some (saveAreaFault l.asid c va true e { s with mach := s.mach.onSave c (fun r => { r with noted := true }) })
/-- A splice message, which the restore of the context that waits for it sends again. -/
def Msg.isSplice (g : Msg) : Bool :=
  match g with
  | .splice .. => true
  | _ => false
/-- The core as the next launch finds it, and the core as it is saved. -/
def Core.unload (k : Core) : Core :=
  { k.free with rq := [], cq := [], fills := [], parked := [], rlcSlots := none, out := k.out.filter (fun g => !g.isSplice) }
/-- What is kept of a core: its partials are promoted first (R145, R175), and a controller's routine that has not started is withdrawn
(R278). -/
def Core.snapshot (k : Core) : Core :=
  { k.promote with out := [], fatal := none, selected := none, rlcVec := none, rq := k.rq.filter (fun r => !r.ctrl), cq := k.cq.map (fun c => { c with active := false, port := false }) }
/-- The drained core is written and freed (R296 steps 4 and 5, R278). -/
def finishSave (c : Nat) (r : SaveReq) (l : Launch) (s : State) : State :=
  match saveHole s c l with
  | some _ => { s with mach := s.mach.stopLaunch l.id (fatalStatus cXLATE c 0 0) }
  | none =>
    let base := l.area (s.mach.core c).lindex
    let cl := clusterOf c
    let rc := s.mach.rlc cl
    let mine := decide (rc.st ≠ 0 ∧ rc.core = c)
    let s := (saveImage s.mach c).foldl (fun s p => storeRuns s 0 l.asid (base + p.1) p.2 0) s
    let s := if rc.st = 1 ∧ rc.core = c then rlcKeep rc s else s
    let m := if mine then
        ((if rc.st = 1 then s.mach.upd c (fun k => k.rlcGive rc false) else s.mach).setRlc cl Rlc.zero).dropPorts (rlcHolder cl) 0
      else s.mach
    let k := m.core c
    let v : Saved := ⟨k.snapshot, c, l.id, k.lindex, m.nextId, r.byHost, if mine then some rc else none, false⟩
    let ns := acOf m.tick 2
    let m := ((m.setCore c k.unload).dropCorePorts [c]).onLaunch l.id (fun l =>
      { l with saves := l.saves + 1, maxns := if l.maxns.toNat < ns.toNat then ns else l.maxns })
    let m := { m with saves := m.saves.filter (fun q => q.core ≠ c), saved := m.saved ++ [v], nextId := m.nextId + 1 }
    { s with mach := m.incPort l.host 0x428 1 }
/-- PREEMPT_SAVE (R296): the core stops once its area is translated, and is saved once it has drained, its controller stands at a
step boundary and the ports have moved the area. -/
def preemptSave (c : Nat) (s : State) : Option State :=
  match s.mach.saveReq c with
  | none => none
  | some r => match s.mach.launchOn c with
    | none => some { s with mach := { s.mach with saves := s.mach.saves.filter (fun q => q.core ≠ c) } }
    | some l =>
      if r.stopped then
        (if (s.mach.core c).saveReady = true ∧ s.mach.rlcRests c = true then
          s.transfer 0 l.asid (saveHolder c) 0 [(.write, [(l.area (s.mach.core c).lindex, 0x200000)])] (fun s => some (finishSave c r l s))
        else none)
      else if r.noted then none
      else tryStart c r l s
def execPreemptSave (core : Nat) (s : State) : Out :=
  if core ≥ 640 then .fault .noSuchUnit else stepState s (preemptSave core s)

/-! ### Restoring (R298) -/

/-- The first address of a saved core's area that its tenant may not read. -/
def restoreHole (s : State) (l : Launch) (v : Saved) : Option (Nat × Nat) :=
  firstUnmapped s feAgent l.asid (l.area v.lindex) 0x200000 accRead
/-- A word of a save area. -/
def areaWord (s : State) (l : Launch) (v : Saved) (o : Nat) : W64 := .ofNat 64 (wordVa s feAgent l.asid (l.area v.lindex + o))
/-- `n` bytes of a save area. -/
def areaBytes (s : State) (l : Launch) (v : Saved) (o n : Nat) : List Byte :=
  match readVa s feAgent l.asid (l.area v.lindex + o) n accRead with
  | .ok bs => bs
  | .error _ => leBytes 0 n
/-- Where the record of queue `n` of context `x` lies in the area, 0 if there is none. -/
def recordAt (s : State) (l : Launch) (v : Saved) (x n : Nat) : Nat := (areaWord s l v (0x100 + 8 * (8 * x + n))).toNat
/-- That record. -/
def savedRecord (s : State) (l : Launch) (v : Saved) (x n : Nat) : SaveRec := SaveRec.ofBytes (areaBytes s l v (recordAt s l v x n) 256)
/-- The barrier of number `n` in the area's pool. -/
def savedBar (s : State) (l : Launch) (v : Saved) (n : Nat) : Option Barrier :=
  Barrier.ofSaved (areaBytes s l v (0x1000 + 32 * n) 32) (areaWord s l v (0xB00 + 8 * n)).toNat
/-- The user part of the microstore and of the routine table in the area. -/
def savedStore (s : State) (l : Launch) (v : Saved) : Tab W64 :=
  (List.range 2048).foldl (fun t i => Tab.set 0 t (2048 + i) (areaWord s l v (0x1800 + 8 * i))) []
def savedEntry (s : State) (l : Launch) (v : Saved) (i : Nat) : REntry := REntry.ofSaved (areaWord s l v (0x400 + 8 * i)).toNat
/-- May a routine entry stand: it is not valid, or its words are the user's, pass R42, and belong to no other entry (R177)? -/
def entryLoads (s : State) (l : Launch) (v : Saved) (i : Nat) : Bool :=
  let e := savedEntry s l v i
  decide (areaWord s l v (0x400 + 8 * i) = .ofNat 64 e.saved) && (!e.valid ||
    (!e.ctrl && decide (2048 ≤ e.start ∧ e.start + e.nwords ≤ 4096 ∧ 1 ≤ e.nwords) &&
     (List.range e.nwords).all (fun j => uwordOk e.start e.nwords j (areaWord s l v (0x1800 + 8 * (e.start - 2048 + j)))) &&
     (List.range i).all (fun j => let f := savedEntry s l v j
       !f.valid || decide (f.start + f.nwords ≤ e.start ∨ e.start + e.nwords ≤ f.start))))
/-- The controller that the area's record describes, its run taken from WORK again; none where the record or WORK cannot be loaded. A
FREE one stands for an area without a record (R278; log 11). -/
def savedRlc (s : State) (l : Launch) (v : Saved) (core : Nat) : Option Rlc :=
  let w := fun i => areaWord s l v (0x200 + 8 * i)
  let fl := fun (i : Nat) => flag (w 0) (56 + i)
  let st := fld (w 0) 1 0
  let r := { Rlc.zero with st := st, exit := fld (w 0) 4 2, rung := fld (w 0) 5 5, toprung := flag (w 0) 7, k := fld (w 0) 23 8, q := fld (w 0) 55 24, phase := fld (w 0) 57 56, abort := fl 2, escalated := fl 3, hasX := fl 4, hasQ := fl 5, trappend := fl 6, core := core, ctx := fld (w 5) 57 56, asid := l.asid, blk := (w 2).toNat, faddr := (w 1).toNat, fmt0 := w 3, fmt1 := w 4, col := (w 6).toNat, seq := (w 7).toNat }
  let work := fld (w 5) 55 0
  if (List.range 8).all (fun i => decide (w i = 0)) then some Rlc.zero
  else if st = 0 ∨ st = 3 ∨ flag (w 0) 63 = true ∨ (w 5).toNat ≥ 2 ^ 58 then none
  else if st = 2 then some r
  else match readVa s (agentOf core) l.asid (work + 3072) 256 accRead with
    | .error _ => none
    | .ok bs =>
      let r := { r with words := wordsOf bs 32 }
      if (softAt s core l.asid [(work + 3072, 256)]).isSome ∨ blockBad r.words ≠ none ∨ r.work ≠ work ∨
          (rlcBad s r [(work, 4096 + 4 * r.n * r.n)]).isSome = true then none
      else some (r.recall s)
/-- Another tenant's or launch's claim comes before the restore of a saved core (R295; log 24). -/
def State.restoreYields (s : State) (v : Saved) (core : Nat) : Bool :=
  let m := s.mach
  let cls := m.classOf v.launch
  m.launches.any (fun w => decide (w.stat = .waiting ∧ w.plan.cls > cls) && w.uses core) ||
  m.saved.any (fun u => decide (u.order ≠ v.order ∧ u.held = false) &&
    decide (m.classOf u.launch > cls ∨ (m.classOf u.launch = cls ∧ u.order < v.order)) && decide (s.resumesOn u = core))
/-- Queue `n` of context `x` rebuilt from its record as QRESTORE rebuilds it; none where QRESTORE would refuse (R111, R298). What kept
operations had reserved or were reading is theirs again, and each position knows the bundle that reserved it (R98, R318). -/
def rebuildQueue (s : State) (l : Launch) (v : Saved) (e : Nat × Nat) (k : Core) : Option Core :=
  let o := recordAt s l v e.1 e.2
  let r := savedRecord s l v e.1 e.2
  if o = 0 then some k
  else if r.bad false then none
  else match k.findBase false r.queue.cap r.queue.base.toNat with
    | .error _ => none
    | .ok b =>
      let k := r.install e.1 e.2 b (tilesOf (areaBytes s l v (o + 256) (4096 * r.nblk)) r.nblk) k
      let old := v.core.queue e.1 e.2
      some (k.onQueue e.1 e.2 (fun q => if q.role = .producer then { q with pos := old.pos } else old.pos.foldl (fun q p =>
        if p.2.reads > 0 ∨ old.stateAt p.1 = .empty then q.setRec p.1 p.2
        else if (q.cell p.1).st ≠ .free then q.setRec p.1 { q.cell p.1 with owner := p.2.owner } else q) q))
/-- Operations one after another, up to the first that cannot be. -/
def allOf {α β : Type} (f : α → β → Option β) : List α → β → Option β
  | [], b => some b
  | a :: t, b => (f a b).bind (allOf f t)
/-- The restored core on the core that CORE names (R298), as far as it can be loaded: its queues, its barrier pool and its user
routines as the area holds them, all else as it was saved. Counters of the core and its standard routines are its own; the
time in which it held no context that could issue is counted (R67). -/
def rebuild (s : State) (l : Launch) (v : Saved) (core : Nat) : Option Core :=
  let k := (s.mach.core core).noteIdle
  let o := v.core
  let fmt := (List.range 16).foldl (fun c n => Tab.set 0 c (0x80 + n) (o.fmtReg n)) k.csr
  let pool := (List.range 64).map (fun n => (n, savedBar s l v n))
  if pool.any (fun e => e.2.isNone) || (List.range 128).any (fun i => !entryLoads s l v i) then none
  else
    let bars := pool.foldl (fun t e => Tab.set Barrier.zero t e.1 (e.2.getD Barrier.zero)) []
    let rtab := (List.range 128).foldl (fun t i => Tab.set REntry.zero t (0x80 + i) (savedEntry s l v i)) (k.rtab.filter (fun e => decide (e.1 < 0x80)))
    let store := (savedStore s l v).foldl (fun t e => Tab.set 0 t e.1 e.2) (k.ustore.filter (fun e => decide (e.1 < 2048)))
    let o := ctxNums.foldl (fun o x => o.upd x (fun c => { (if c.st = .issuing then { c with st := .ready } else c) with queues := [] })) o
    allOf (rebuildQueue s l v) queueNos { o with
      owner := k.owner
      lastUser := some l.asid
      launch := some l.id
      lindex := v.lindex
      csr := fmt
      bars := bars
      rtab := rtab
      ustore := store
      out := k.out
      seq := Nat.max o.seq k.seq
      fatal := none
      selected := none }
/-- The QTHAW handshakes of the ends that the save froze (R98). -/
def Core.rethaw (k : Core) (c : Nat) : Core :=
  ctxNums.foldl (fun k x => (List.range 8).foldl (fun k n =>
    let q := k.queue x n
    if q.alloc = true ∧ q.role ≠ .loc ∧ q.pfrz = true then k.sendThaw c x n else k) k) k
/-- A QSPLICE that the save found waiting for its handshake begins it again from where its queue is now. -/
def Core.resplice (k : Core) (c : Nat) : Core :=
  ctxNums.foldl (fun k x => match k.waitsOn x with
    | some (o, p) => if o = 0x363 ∧ (k.ctx x).answer = none then
        (let n := queueNo p
         let w := ((k.ctx x).wait.map (fun f => k.opnd f.iss p.cw p.cw.src1)).getD 0
         k.send (.splice (QAddr.ofWord w.toNat) ⟨c, x, n⟩ k.asid (k.queue x n).cap))
      else k
    | none => k) k
/-- Has the area a line that cannot be read as data (R311, R327)? Its restore is refused (log 11). -/
def areaUnsound (s : State) (l : Launch) (v : Saved) : Bool :=
  (pageRuns (l.area v.lindex) 0x200000).any (fun (a, n) => match translate s feAgent l.asid a accRead with
    | .ok sp ad _ => uliLost s.mach 0 sp || s.mem.poison.any (fun e => e.2 && decide (lineKey sp ad ≤ e.1 ∧ e.1 < lineKey sp (ad + n)))
    | .fail _ => false)
/-- What a restore brings back: the core with its controller's slot run taken again, and the controller. None where it is refused
(R278, R298): a queue record that QRESTORE would refuse, a barrier pool, microstore image or controller record that cannot be
loaded, a controller that is not FREE, a slot run that is taken. -/
def restored (s : State) (l : Launch) (v : Saved) (core : Nat) : Option (Core × Rlc) :=
  match rebuild s l v core, savedRlc s l v core with
    | some k, some r =>
      if r.st ≠ 0 ∧ (s.mach.rlc (clusterOf core)).st ≠ 0 then none
      else if r.st = 1 ∧ k.runFree r.spbase 32 = false then none
      else some ({ k with rlcSlots := if r.st = 1 then some r.spbase else none }, r)
    | _, _ => none
/-- The launch of a saved core ends FATAL with ECAUSE NONE. -/
def refuseRestore (l : Launch) (v : Saved) (s : State) : State :=
  { s with mach := s.mach.stopLaunch l.id (fatalStatus 0 v.num 0 0) }
/-- The launch's core index names its core anew (R261, R298). -/
def Launch.moveTo (l : Launch) (i core : Nat) : Launch :=
  { l with plan := { l.plan with cores := match l.plan.cores[i]? with
      | some c => setNth l.plan.cores i { c with core := core }
      | none => l.plan.cores } }
/-- The core resumes, its controller with it; the least number of free barriers counts the pool that came back (R229). -/
def doRestore (idx : Nat) (l : Launch) (v : Saved) (core : Nat) (kr : Core × Rlc) (s : State) : State :=
  let k := Core.reselect (((kr.1.notePool).rethaw core).resplice core)
  let m := ({ s.mach with saved := dropNth s.mach.saved idx }.setCore core k).onLaunch l.id (fun l => l.moveTo v.lindex core)
  { s with mach := if kr.2.st = 0 then m else m.setRlc (clusterOf core) kr.2 }
/-- RESTORE (R295, R298): once the core that CORE names is free for it, a controller's cluster its tenant's (R294; log 24), and the ports
have moved the area. -/
def restore (idx : Nat) (s : State) : Option State :=
  match s.mach.saved[idx]? with
  | none => none
  | some v => match s.mach.launch v.launch with
    | none => none
    | some l =>
      if v.held ∨ v.noted then none
      else match restoreHole s l v with
        | some (va, e) => some (saveAreaFault l.asid v.num va false e
            { s with mach := { s.mach with saved := setNth s.mach.saved idx { v with noted := true } } })
        | none =>
          let w := areaWord s l v 0
          let core := fld w 25 16
          if areaUnsound s l v = true ∨ fld w 7 0 ≠ 2 ∨ fld w 15 8 ≠ s.mach.stepping.toNat then some (refuseRestore l v s)
          else if core ≥ 640 ∨ (s.mach.core core).owner ≠ some l.asid ∨ (s.mach.core core).launch.isSome = true ∨
              s.mach.dieRuns (dieOf core) = false ∨ s.restoreYields v core = true ∨
              (fld (areaWord s l v 0x200) 1 0 ≠ 0 ∧ s.mach.clusterOwned (clusterOf core) l.asid = false) then none
          else s.transfer 0 l.asid restoreHolder v.order [(.read 0, [(l.area v.lindex, 0x200000)])] (fun s =>
            match restored s l v core with
            | none => some (refuseRestore l v s)
            | some kr => some (doRestore idx l v core kr s))
def execRestore (idx : Nat) (s : State) : Out := stepState s (restore idx s)

/-- A saved core that waits for its area, which is translated now. -/
def areaBack (s : State) (c : Nat) (v : Saved) : Bool :=
  decide (v.num = c) && v.noted && (match s.mach.launch v.launch with
    | none => false
    | some l => (restoreHole s l v).isNone)
/-- SAVE_AREA_CHECK (R296): once in a frame the area of a save or restore that waits for it is tried again, of every saved core of
this number. -/
def saveAreaCheck (c : Nat) (s : State) : Option State :=
  let start := match s.mach.saveReq c, s.mach.launchOn c with
    | some r, some l => if r.stopped then none else tryStart c r l s
    | _, _ => none
  match start with
  | some t => some t
  | none =>
    if s.mach.saved.any (areaBack s c) then
      some { s with mach := { s.mach with saved := s.mach.saved.map (fun v => if areaBack s c v then { v with noted := false } else v) } }
    else none
def execSaveAreaCheck (core : Nat) (s : State) : Out :=
  if core ≥ 640 then .fault .noSuchUnit else stepState s (saveAreaCheck core s)

end Sys2Proof.Machine
end

