-- ==== Sys2Proof/Machine/Sha3.lean ====
section
/-! DEFINITION. SHA3-512, by which an attestation report digests what the module holds (R349): the function as its standard, FIPS 202,
defines it (log 17). -/
namespace Sys2Proof.Machine
open Sys2Proof

/-- By how much each lane `x + 5y` of the state is rotated. -/
def keccakTurns : List Nat :=
  [0, 1, 62, 28, 27, 36, 44, 6, 55, 20, 3, 10, 43, 25, 39, 41, 45, 15, 21, 8, 18, 2, 61, 56, 14]
/-- The constants of the 24 rounds. -/
def keccakConsts : List W64 :=
  [0x0000000000000001, 0x0000000000008082, 0x800000000000808A, 0x8000000080008000, 0x000000000000808B, 0x0000000080000001,
   0x8000000080008081, 0x8000000000008009, 0x000000000000008A, 0x0000000000000088, 0x0000000080008009, 0x000000008000000A] ++
  [0x000000008000808B, 0x800000000000008B, 0x8000000000008089, 0x8000000000008003, 0x8000000000008002, 0x8000000000000080,
   0x000000000000800A, 0x800000008000000A, 0x8000000080008081, 0x8000000000008080, 0x0000000080000001, 0x8000000080008008]
/-- One round on the 25 lanes. -/
def keccakRound (a : List W64) (rc : W64) : List W64 :=
  let at5 := fun (l : List W64) (x y : Nat) => l.getD (x % 5 + 5 * (y % 5)) 0
  let par := (List.range 5).map (fun x => (List.range 5).foldl (fun v y => v ^^^ at5 a x y) 0)
  let mix := (List.range 5).map (fun x => par.getD ((x + 4) % 5) 0 ^^^ (par.getD ((x + 1) % 5) 0).rotateLeft 1)
  let b := (List.range 25).map (fun i =>
    let x := (i % 5 + 3 * (i / 5)) % 5
    let y := i % 5
    (at5 a x y ^^^ mix.getD x 0).rotateLeft (keccakTurns.getD (x + 5 * y) 0))
  (List.range 25).map (fun i =>
    let x := i % 5
    let y := i / 5
    let v := at5 b x y ^^^ (~~~(at5 b (x + 1) y) &&& at5 b (x + 2) y)
    if i = 0 then v ^^^ rc else v)
/-- The permutation. -/
def keccak (a : List W64) : List W64 := keccakConsts.foldl keccakRound a
/-- A message padded to whole blocks of 72 bytes. -/
def sha3Pad (bs : List Byte) : List Byte :=
  let q := 72 - bs.length % 72
  bs ++ (if q = 1 then [0x86] else 0x06 :: (List.replicate (q - 2) 0 ++ [0x80]))
/-- The digest: the blocks taken up one after another, the first eight lanes given out. -/
def sha3 (bs : List Byte) : List Byte :=
  let m := sha3Pad bs
  let fin := (List.range (m.length / 72)).foldl (fun a j =>
    keccak ((List.range 25).map (fun i =>
      a.getD i 0 ^^^ (if i < 9 then BitVec.ofNat 64 (leNat ((m.drop (72 * j + 8 * i)).take 8)) else 0)))) (List.replicate 25 0)
  (List.range 8).flatMap (fun i => leBytes (fin.getD i 0).toNat 8)

end Sys2Proof.Machine
end

