-- ==== Sys2Proof/Machine/Crossbar.lean ====
section
/-! DEFINITION. The crossbar (R193, R194). -/
namespace Sys2Proof.Machine
open Sys2Proof

/-- A crossbar result: element `i` of each piece of `n` elements from `g` with the piece's first element. Float NaNs are
written canonical. -/
def VIn.pieces (v : VIn) (g : Nat → Nat → Nat → Nat) : VRes :=
  let n := v.w / v.e
  v.each (fun i => canonNan (g n (i / n * n) (i % n)) v.f)
/-- The pattern byte that sends an element to place `i`: the source index, if there is one (R194). -/
def sentTo (pat : List Nat) (i : Nat) : Option Nat :=
  (List.range pat.length).find? (fun j => !bitAt (pat.getD j 0x80) 7 && decide (bitsOf (pat.getD j 0x80) 6 0 = i))
/-- XPERM (R194); the pattern is the second source, the fill the third. -/
def xpermOp (v : VIn) : VRes :=
  let pat := xpermPattern v.p.cw v.bank (v.w / v.e)
  v.pieces (fun _ b i => match sentTo pat i with
    | some j => v.at 0 (b + j)
    | none => if v.p.cw.src3 = Desc.zero then 0 else v.at 2 i)
/-- XBCAST, XROT, XZIP, XUNZIP, XTRN (R193). -/
def xmoveOp (v : VIn) : VRes :=
  let a := v.p.cw.aux.toNat
  v.pieces (fun n b i => match v.o with
    | 0x341 => v.at 0 (b + a % 128)
    | 0x342 => v.at 0 (b + (i + v.rot) % n)
    | 0x343 => v.at (i % 2) (b + (a % 2 * n / 2 + i / 2))
    | 0x344 => if i < n / 2 then v.at 0 (b + 2 * i + a % 2) else v.at 1 (b + 2 * (i - n / 2) + a % 2)
    | _ =>
      let rows := 2 ^ (a % 8)
      let cols := n / rows
      v.at 0 (b + i % rows * cols + i / rows))

/-! ### The instructions -/

/-- XPERM (R194). -/
def execXperm (p : Part) (s : State) : Out := runPart (.xperm p) (vecEff (.xperm p) xpermOp) s
/-- XBCAST (R193). -/
def execXbcast (p : Part) (s : State) : Out := runPart (.xbcast p) (vecEff (.xbcast p) xmoveOp) s
/-- XROT (R193). -/
def execXrot (p : Part) (s : State) : Out := runPart (.xrot p) (vecEff (.xrot p) xmoveOp) s
/-- XZIP (R193). -/
def execXzip (p : Part) (s : State) : Out := runPart (.xzip p) (vecEff (.xzip p) xmoveOp) s
/-- XUNZIP (R193). -/
def execXunzip (p : Part) (s : State) : Out := runPart (.xunzip p) (vecEff (.xunzip p) xmoveOp) s
/-- XTRN (R193). -/
def execXtrn (p : Part) (s : State) : Out := runPart (.xtrn p) (vecEff (.xtrn p) xmoveOp) s

end Sys2Proof.Machine
end

