-- ==== Sys2Proof/Machine/Modular.lean ====
section
/-! DEFINITION. Modular arithmetic on the lanes (R196 to R205): multiplication with reduction, butterflies, the permutation
network, residues, and the modulus pairs. -/
namespace Sys2Proof.Machine
open Sys2Proof

/-- KFull (R197). -/
def kFull (q k : Nat) : Nat := (if q = 0 then 0 else 2 ^ 64 / q) * 2 ^ 64 + k
/-- KLow (R197). -/
def kLow (q : Nat) : Nat := if q = 0 then 0 else 2 ^ 128 / q % 2 ^ 64
/-- One conditional subtraction. -/
def subIf (r : Int) (q : Nat) : Int := if r ≥ (q : Int) then r - q else r
/-- ModRed (R197). -/
def modRed (t q k : Nat) : Nat :=
  let r : Int := (t : Int) - ((t * kFull q k / 2 ^ 128 * q : Nat) : Int)
  wrapTo (subIf (subIf r q) q) 64
/-- MulC (R197). -/
def mulC (a w wc q : Nat) : Nat :=
  let h := a * wc / 2 ^ 64
  let r := wrapTo (((a * w : Nat) : Int) - ((h * q : Nat) : Int)) 64
  if r ≥ q then r - q else r
/-- AddM (R197). -/
def addM (a b q : Nat) : Nat := wrapTo (subIf (((a + b : Nat) : Nat) : Int) q) 64
/-- SubM (R197). -/
def subM (a b q : Nat) : Nat :=
  let r : Int := (a : Int) - b
  wrapTo (if r < 0 then r + q else r) 64

/-- The modulus and the reduction constant of element `i` (R196). -/
def VIn.q (v : VIn) (i : Nat) : Nat := elemAt v.m.toNat (i % 16) 64
def VIn.kc (v : VIn) (i : Nat) : Nat := elemAt v.k.toNat (i % 16) 64

/-- VMADM, VMSBM, VMULM (R200) and VMULMC (R201). -/
def vmodOp (v : VIn) : VRes :=
  v.each (fun i => match v.o with
    | 0x301 => addM (v.at 0 i) (v.at 1 i) (v.q i)
    | 0x302 => subM (v.at 0 i) (v.at 1 i) (v.q i)
    | 0x303 => modRed (v.at 0 i * v.at 1 i) (v.q i) (v.kc i)
    | _ => mulC (v.at 0 i) (v.at 1 i) (v.at 2 i) (v.q i))
/-- VBFLY and VIBFLY (R202). -/
def vbflyOp (v : VIn) : VRes :=
  v.each (fun i =>
    let j := i / 2 * 2
    let q := v.q j
    let x := v.at 0 j
    let y := v.at 0 (j + 1)
    let w := v.at 1 j
    let wc := v.at 1 (j + 1)
    if v.o = 0x305 then
      let u := mulC y w wc q
      if i % 2 = 0 then addM x u q else subM x u q
    else if i % 2 = 0 then addM x y q else mulC (subM x y q) w wc q)
/-- The source index of element `i` of a VPERM (R203). -/
def permIndex (mode st n i : Nat) : Nat :=
  let step := 2 ^ st
  match mode with
  | 0 =>
    let j := i / 2
    j / step * (2 * step) + j % step + (if i % 2 = 0 then 0 else step)
  | 1 =>
    let b := i / step % 2
    let j := i / (2 * step) * step + i % step
    2 * j + b
  | _ => bitRev i (Nat.log2 n)
/-- VPERM (R203). -/
def vpermOp (v : VIn) : VRes :=
  let a := v.p.cw.aux.toNat
  v.each (fun i => v.at 0 (permIndex (a % 4) (a / 4 % 16) v.n i))
/-- VMRED and VMCENT (R204). -/
def vresOp (v : VIn) : VRes :=
  v.each (fun i =>
    let a := v.at 0 i
    let q := v.q i
    if v.o = 0x309 then (if a > q / 2 then wrapTo ((a : Int) - q) 64 else a)
    else if bitAt v.p.cw.aux.toNat 0 = false ∨ a < 2 ^ 63 then modRed a q (v.kc i)
    else
      let r := modRed (2 ^ 64 - a) q (v.kc i)
      if r = 0 then 0 else wrapTo ((q : Int) - r) 64)
/-- VMODSET (R205). -/
def vmodsetOp (v : VIn) : VRes :=
  let n := v.w / 64
  let ms := (List.range 16).map (fun l => v.at 0 (l % n))
  let ks := if bitAt v.p.cw.aux.toNat 0 then ms.map kLow else (List.range 16).map (fun l => v.at 1 (l % n))
  ⟨none, none, some (BitVec.ofNat 1024 (packElems 64 ms), BitVec.ofNat 1024 (packElems 64 ks))⟩
/-- VMODGET (R205). -/
def vmodgetOp (v : VIn) : VRes :=
  let a := v.p.cw.aux.toNat
  let r := (if bitAt a 0 then v.k else v.m).toNat
  VRes.ofBits (match v.p.cw.dst with
    | .sreg _ => elemAt r (a / 2 % 16) 64
    | _ => r)

/-! ### The instructions -/

/-- VMADM (R200). -/
def execVmadm (p : Part) (s : State) : Out := runPart (.vmadm p) (vecEff (.vmadm p) vmodOp) s
/-- VMSBM (R200). -/
def execVmsbm (p : Part) (s : State) : Out := runPart (.vmsbm p) (vecEff (.vmsbm p) vmodOp) s
/-- VMULM (R200). -/
def execVmulm (p : Part) (s : State) : Out := runPart (.vmulm p) (vecEff (.vmulm p) vmodOp) s
/-- VMULMC (R201). -/
def execVmulmc (p : Part) (s : State) : Out := runPart (.vmulmc p) (vecEff (.vmulmc p) vmodOp) s
/-- VBFLY (R202). -/
def execVbfly (p : Part) (s : State) : Out := runPart (.vbfly p) (vecEff (.vbfly p) vbflyOp) s
/-- VIBFLY (R202). -/
def execVibfly (p : Part) (s : State) : Out := runPart (.vibfly p) (vecEff (.vibfly p) vbflyOp) s
/-- VPERM (R203). -/
def execVperm (p : Part) (s : State) : Out := runPart (.vperm p) (vecEff (.vperm p) vpermOp) s
/-- VMRED (R204). -/
def execVmred (p : Part) (s : State) : Out := runPart (.vmred p) (vecEff (.vmred p) vresOp) s
/-- VMCENT (R204). -/
def execVmcent (p : Part) (s : State) : Out := runPart (.vmcent p) (vecEff (.vmcent p) vresOp) s
/-- VMODSET (R205). -/
def execVmodset (p : Part) (s : State) : Out := runPart (.vmodset p) (vecEff (.vmodset p) vmodsetOp) s
/-- VMODGET (R205). -/
def execVmodget (p : Part) (s : State) : Out := runPart (.vmodget p) (vecEff (.vmodget p) vmodgetOp) s

end Sys2Proof.Machine
end

