-- ==== Sys2Proof/Machine/VectorSteps.lean ====
section
/-! DEFINITION. The steps of the vector unit: a split VB starts (R180), a part's result is in place (R181). -/
namespace Sys2Proof.Machine
open Sys2Proof

/-- The operation of a vector or crossbar opcode. -/
def vecOpOf (o : Nat) : VIn → VRes :=
  if o ≤ 0x114 then vintOp
  else if o ≤ 0x125 then vcmpOp
  else if o ≤ 0x134 then vredOp
  else if o ≤ 0x143 then vmaskOp
  else if o ≤ 0x151 then vreqOp
  else if o ≤ 0x20A then vfloatOp
  else if o ≤ 0x223 then vfcmpOp
  else if o ≤ 0x232 then vfredOp
  else if o = 0x240 then vcvtOp
  else if o = 0x241 then vfroundOp
  else if o = 0x242 then vfreqOp
  else if o ≤ 0x254 then vspecOp
  else if o ≤ 0x304 then vmodOp
  else if o ≤ 0x306 then vbflyOp
  else if o = 0x307 then vpermOp
  else if o ≤ 0x309 then vresOp
  else if o = 0x30A then vmodsetOp
  else if o = 0x30B then vmodgetOp
  else if o = 0x340 then xpermOp
  else xmoveOp

/-- A waiting part may start: its lane groups or the crossbar are free, no earlier part waits for lane groups (R179), its queue
sources are filled (R180; for a part that ERET re-executes, R319). -/
def splitReady (k : Core) (idx : Nat) : Bool :=
  match k.vparts[idx]? with
  | none => false
  | some v =>
    let n := partNo v.fl.i
    v.waiting && fetchTiles k v.fl.iss.redo v.fl.iss.ctx n (v.fl.iss.readsOf n) != .wait &&
    (match inVec v.fl.i with
     | some (_, p) => decide (k.groupsHeld + groupsOf p ≤ 6) && !((k.vparts.take idx).any k.waitsLanes)
     | none => !k.xbHeld)
/-- VB_SPLIT_START. -/
def splitStart (core t idx : Nat) (k : Core) : Option Core :=
  match k.vparts[idx]? with
  | none => none
  | some v =>
    if splitReady k idx = false then none
    else
      let k' := { k with vparts := dropNth k.vparts idx }
      let o := match view v.fl.i with
        | .op o _ => o
        | _ => 0
      let k' := vecStart core t v.fl (vecOpOf o) k'
      some (if v.fl.iss.redo then k' else k'.incAc t 0xA4)
def execVbSplitStart (core idx : Nat) (s : State) : Out := coreStep core (splitStart core s.mach.tick idx) s

/-- A vector register's low `w` bits written; a write of the whole register replaces what an error left there. -/
def Core.putV (k : Core) (n w v : Nat) : Core :=
  let old := (Tab.get 0 k.vpool n).toNat
  let k := { k with vpool := Tab.set 0 k.vpool n (BitVec.ofNat 1024 (old / 2 ^ w * 2 ^ w + v % 2 ^ w)) }
  if w = 1024 then { k with poisoned := k.poisoned.filter (fun e => e != (.vreg, n)) } else k
/-- One write of a part. -/
def applyWrite (core : Nat) (fl : Flight) (k : Core) (w : VWrite) : Core :=
  let x := fl.iss.ctx
  match w with
  | .vreg n w v => k.putV n w v
  | .sreg n v => k.putS x n v
  | .pred n b => k.putP x n b
  | .fill q pos st t => k.put core fl ⟨partNo fl.i, q, pos⟩ st t
  | .pair i m k' => k.upd x (fun c => c.onRegs (fun r => r.wMK i m k'))
/-- A write whose value is undefined, since an STSP raced over bytes that the part reads (R7, R115, R184; log 6). -/
def VWrite.raced (t i : Nat) (w : VWrite) : VWrite :=
  let v := Config.lateTile t i
  match w with
  | .vreg n w _ => .vreg n w (v.toNat % 2 ^ w)
  | .sreg n _ => .sreg n (.ofNat 64 v.toNat)
  | .pred n _ => .pred n (v.getLsbD 0)
  | .fill q p .present _ => .fill q p .present v
  | .fill q p st d => .fill q p st d
  | .pair n _ _ => .pair n (.ofNat 1024 v.toNat) (.ofNat 1024 (v.toNat / 2 ^ 1024))
/-- The writes of a part as they come about. -/
def Core.racedWrites (k : Core) (v : VPart) : List VWrite :=
  match ((v.fl.iss.readsOf (partNo v.fl.i)).flatMap (fun r => k.racesAt ((k.queue v.fl.iss.ctx r.q).slotOf r.pos))).head? with
  | none => v.writes
  | some r => v.writes.zipIdx.map (fun e => e.1.raced r.2.2 (e.2 + 1))
/-- Races over positions that nothing is at work on any more are past; `away` are the slots that appends under way fill. -/
def Core.pastRaces (k : Core) (away : List Nat) : Core :=
  { k with raced := k.raced.filter (fun r => meetsSlot (k.slotsAtWork ++ away) r.1 r.2.1) }
/-- VECTOR_PART_COMPLETE (R181, R206): the result is in place, the appended tile lands, the reads are complete. -/
def partComplete (core idx : Nat) (away : List Nat) (k : Core) : Option Core :=
  match k.vparts[idx]? with
  | none => none
  | some v =>
    if v.waiting then none
    else
      let ws := k.racedWrites v
      let k := { k with vparts := dropNth k.vparts idx }
      let k := ws.foldl (applyWrite core v.fl) k
      some (((k.endReads v.fl.iss.ctx (v.fl.iss.readsOf (partNo v.fl.i))).retire v.fl).pastRaces away)
def execVectorPartComplete (core idx : Nat) (s : State) : Out :=
  coreStep core (partComplete core idx (s.mach.slotsAwaited core)) s

end Sys2Proof.Machine
end

