-- ==== Sys2Proof/Machine/Traps.lean ====
section
/-! DEFINITION. Traps: delivery of a fault record, ERET with the residue it re-executes or abandons (R92, R305, R306), the end
of a halt (R76, R307), fatal faults (R309), soft errors and scrubs (R310 to R312), and the release of a blocked bundle
(R62, R63). -/
namespace Sys2Proof.Machine
open Sys2Proof

/-! ### Delivery (R305, R306) -/

/-- May the context take its oldest record: it holds the issue unit at a bundle boundary outside its handler? -/
def Mach.mayEnter (m : Mach) (core x : Nat) : Bool :=
  let k := m.core core
  let c := k.ctx x
  k.issue.isNone && decide (c.st = .issuing) && !c.inh && !m.stopped core
/-- The oldest record is delivered. -/
def trapEnter (core x : Nat) (m : Mach) : Option Mach :=
  match ((m.core core).ctx x).waiting with
  | [] => none
  | r :: t =>
    if m.mayEnter core x then some (m.upd core (fun k => (k.upd x (fun c => { c with waiting := t })).enter x r)) else none
/-- TRAP_ENTER (R306). -/
def execTrapEnter (core ctx : Nat) (s : State) : Out :=
  if core ≥ 640 ∨ ctx ≥ 4 then .fault .noSuchUnit
  else match trapEnter core ctx s.mach with
    | some m => stepMach s m
    | none => stutter s

/-! ### Return (R306) -/

/-- A routine returns to the queue ahead of those that issued after it (R174), in the position it has held meanwhile (R150). -/
def requeue (r : Routine) : List Routine → List Routine
  | [] => [r]
  | o :: t => if o.seq < r.seq then o :: requeue r t else r :: o :: t
/-- A part of an SC slot executes again from its record, by its opcode. -/
def scAgain (o : Nat) (p : Part) (fl : Flight) : Eff := fun s _ m =>
  let c := m.focusCore
  if o = 0x40 then loadStart fl.i p s fl.iss m
  else if o = 0x41 then storeStart fl.i p s fl.iss m
  else if o = 0x42 then m.upd c (ldspEff fl.i p fl.iss)
  else if o = 0x384 then m.upd c (bartestEff c p fl.iss)
  else if 0x60 ≤ o ∧ o ≤ 0x6B then amoQueue fl.i s fl.iss m
  else m.upd c (fun k => k.sysWait fl)
/-- A part executes again: no guard test, no check, nothing resolved or reserved anew (R92, R306). A vector part starts when
its lane groups are free. -/
def redoPart (fl : Flight) (rt : Option Routine) : Eff := fun s b m =>
  let c := m.focusCore
  match rt with
  | some r => m.upd c (fun k => { k with rq := requeue { r with fl := fl, started := false } k.rq })
  | none => match view fl.i with
    | .ctl _ _ _ => m.upd c (markThen fl b (markCheck c fl.iss.ctx (markOf fl.i) { s with mach := m }))
    | .cp _ _ _ => m.upd c (fun k => { k with cq := k.cq ++ [newCopy fl] })
    | .op o p =>
      if p.slot ≠ .sc then m.upd c (fun k => { k with vparts := k.vparts ++ [⟨fl, true, []⟩] })
      else if o = 0x3B1 then rlcwaitEff p s fl.iss m
      else if o = 0x3B2 then rlcstatEff p s fl.iss m
      else scAgain o p fl s fl.iss m
    | _ => m
/-- The parts whose bits are set execute again; the others are abandoned. -/
def residueEff (next : W64) (rs : List FaultPart × List FaultPart) : Eff := fun s b m =>
  let c := m.focusCore
  let m := m.upd c (fun k => rs.2.foldl (Core.abandonPart c false) k)
  rs.1.foldl (fun m fp =>
    redoPart { fp.fl with iss := { fp.fl.iss with redo := true, ord := 2 * b.seq + 1, next := next } } fp.routine s b m) m
/-- ERET: the return, then the residue. -/
def eretEff : Eff := fun s b m =>
  let c := m.focusCore
  let x := (m.core c).ctx b.ctx
  let m := m.upd c (fun k => (k.eret b.ctx (eretNext b.csr)).goTo (eretNext b.csr).toNat)
  residueEff (b.rC csrENEXT) (x.residue (b.rC csrESLOTS)) s b m
/-- ERET (R79, R306). -/
def execEret (g : BitVec 4) (s : State) : Out := runPart (.eret g) eretEff s

/-! ### Halting and fatal faults -/

/-- HALT_DRAINED (R76, R307). -/
def execHaltDrained (core ctx : Nat) (s : State) : Out :=
  if core ≥ 640 ∨ ctx ≥ 4 then .fault .noSuchUnit
  else if haltReady (s.mach.core core) ctx then stepMach s (s.mach.upd core (haltOn ctx (Core.abandonPart core)))
  else stutter s
/-- FATAL_FAULT (R309): the launch of the core ends FATAL with the first fatal fault. -/
def fatalStop (core : Nat) (m : Mach) : Option Mach :=
  let k := m.core core
  match k.fatal with
  | none => none
  | some (x, code, epc) =>
    let m := m.upd core (fun k => { k with fatal := none })
    match k.launch with
    | none => some m
    | some id => some (m.stopLaunch id (fatalStatus code core x epc))
def execFatalFault (core : Nat) (s : State) : Out :=
  if core ≥ 640 then .fault .noSuchUnit
  else match fatalStop core s.mach with
    | some m => stepMach s m
    | none => stutter s

/-! ### Soft errors (R310 to R312) -/

/-- The number R310 gives a structure. Those without one are logged under a free number (log 26). -/
def errCode (p : ErrPlace) (t : Nat) : Nat :=
  match p with
  | .queueSlot => 0
  | .memLine => 1
  | .vreg => 2
  | .acc => 3
  | .aStage => 4
  | .wblock => 5
  | .micro => 6
  | .spadBytes => 7
  | .other => (Config.freeWord t).toNat % 16
/-- How many places a structure has; a memory line is named by its physical address, scratchpad bytes by their offset. -/
def errHas (p : ErrPlace) (n : Nat) : Bool :=
  match p with
  | .queueSlot => decide (n < 0x100000)
  | .memLine => localMapped n
  | .vreg => decide (n < 640)
  | .acc => decide (n < 16)
  | .aStage => decide (n < 2)
  | .wblock => decide (n < 64)
  | .micro => decide (n < 4096)
  | .spadBytes => decide (n < 0x100000)
  | .other => decide (n < 4)
/-- The PRESENT position of a queue that a slot holds. -/
def Queue.presentIn (q : Queue) (slot : Nat) : Option Nat :=
  if q.alloc = true ∧ q.role ≠ .producer then
    (List.range (4 * q.cap)).find? (fun p => q.slotOf p == slot && decide ((q.cell p).st = .present))
  else none
/-- The 64-byte granule of a byte of the operand scratchpad has an error, in each of its bytes until that is written anew. -/
def Core.spoilBytes (k : Core) (n : Nat) : Core :=
  { k with poisoned := (List.range 64).map (fun i => (.spadBytes, n / 64 * 64 + i)) ++ k.poisoned }
/-- A position becomes POISON for the granule at `g` (R91): the record takes the first 16 bytes of its slot, the others stand. -/
def Core.poisonSlot (k : Core) (x n p g : Nat) : Core :=
  let s := (k.queue x n).slotOf p
  let t := putBytes (Tab.get 0 k.spad s) 0 16 (poisonTile cSOFTERR g).toNat
  { k.land x n p .poison t with
    poisoned := k.poisoned.filter (fun e => !(e.1 == .spadBytes && decide (s * 4096 ≤ e.2 ∧ e.2 < s * 4096 + 16))), raced := k.raced }
/-- An error in a granule of the operand scratchpad: its bytes hold it (R310, row 7), and a PRESENT position of a queue that holds
them becomes POISON with the granule's offset in its record (R91, R310, row 0). -/
def Core.spoilSlot (k : Core) (a : Nat) : Core :=
  let g := a / 64 * 64
  let qs := ctxNums.flatMap (fun x => (List.range 8).map (fun n => (x, n)))
  match qs.findSome? (fun e => ((k.queue e.1 e.2).presentIn (a / 4096)).map (fun p => (e, p))) with
  | some (e, p) => (k.spoilBytes g).poisonSlot e.1 e.2 p g
  | none => k.spoilBytes g
/-- The error strikes the core. -/
def Core.spoil (k : Core) (p : ErrPlace) (n : Nat) : Core :=
  match p with
  | .queueSlot => k.spoilSlot n
  | .memLine => k
  | .other => if (k.ctx n).st = .unbound then k else k.fatalFault n cFETCHERR (k.ctx n).pc
  | .spadBytes => k.spoilSlot n
  | p => { k with poisoned := (p, n) :: k.poisoned }
/-- SOFTERR (R310, R311): an uncorrectable error is found. -/
def softerr (p : ErrPlace) (core n : Nat) (s : State) : State :=
  let die := if p = .memLine then homeDie n else dieOf core
  let m := s.mach.upd core (fun k => k.spoil p n)
  let m := (m.incDie die 0x328 1).setDieReg die 0x330 (.ofNat 64 (n % 2 ^ 42 + errCode p s.mach.tick * 2 ^ 42))
  { mach := m, mem := if p = .memLine then s.mem.setPoison 0 n true else s.mem }
def execSofterr (st : ErrPlace) (core n : Nat) (s : State) : Out :=
  if core ≥ 640 ∨ errHas st n = false then .fault .noSuchUnit else stepState s (some (softerr st core n s))
/-- SCRUB (R312): the errors it corrects are counted, by a free number (log 26); one it cannot correct is a SOFTERR. -/
def execScrubDie (die : Nat) (s : State) : Out :=
  if die ≥ 4 then .fault .noSuchUnit else stepMach s (s.mach.incDie die 0x320 (acOf s.mach.tick 0x320))

/-! ### A blocked bundle (R62, R63, R113) -/

/-- The operation that a context waits for completes, if its condition holds. -/
def waitFinish (core x : Nat) (fl : Flight) (s : State) : Option State :=
  match sysPart fl.i with
  | none => none
  | some (o, p) =>
    if o ≤ 0x36A then queueFinish core x fl o p s
    else if o = 0x390 then msloadFinish core x fl p s
    else if o = 0x3A0 then ephbindFinish core x s
    else if o = 0x3B0 then rlcgoFinish core x fl p s
    else rlcFinish core x fl o p s
/-- BUNDLE_UNBLOCK (R62): the operation that a context waits at completes, or the block is looked at again. -/
def bundleUnblock (core x : Nat) (s : State) : Option State :=
  match ((s.mach.core core).ctx x).wait with
  | some fl => ((waitFinish core x fl s).map (fun t => t.settle core x)).orElse (fun _ => recheck core x s)
  | none => recheck core x s
def execBundleUnblock (core ctx : Nat) (s : State) : Out :=
  if core ≥ 640 ∨ ctx ≥ 4 then .fault .noSuchUnit else stepState s (bundleUnblock core ctx s)

end Sys2Proof.Machine
end

