-- ==== Sys2Proof/Machine/Host.lean ====
section
/-! DEFINITION. What the hosts do: tenants and ownership (R325), registers of the port and die blocks (R10, R281, R320, R321,
R323, R324, R338, R339, R348, R349), replay and decline of copies (R318), invalidation (R317), domain commits (R251 to R253),
reads, writes and atomics through apertures (R246, R326). -/
namespace Sys2Proof.Machine
open Sys2Proof

/-- Does the port hold the management plane (R323)? -/
def Mach.isMgmt (m : Mach) (p : BitVec 1) : Bool := m.mgmtPort == p.toNat
/-- A request refused, or a write the port may not make: counted, its offset within the BAR kept (R323, R324; log 28). -/
def Mach.refuse (m : Mach) (p : BitVec 1) (at' : Nat) : Mach :=
  (m.incPort p.toNat 0x008 1).setPortReg p.toNat 0x010 (.ofNat 64 at')
/-- The offset of a die register in BAR0. -/
def dieOff (d off : Nat) : Nat := 0x10000 * (1 + d) + off
/-- Is the tenant one of the port's host? -/
def Mach.tenantOf (m : Mach) (p : BitVec 1) (asid : Nat) : Bool := decide (Tab.get none m.tenants asid = some p.toNat)
/-- `v` under a mask, `old` elsewhere (R10). -/
def mergeMask (mask : Nat) (old v : W64) : W64 :=
  let mk := BitVec.ofNat 64 mask
  v &&& mk ||| old &&& ~~~mk

/-! ### Tenants and ownership (R325) -/

/-- Are `n` bytes from `a` inside the port's window of near DRAM? -/
def Mach.inPhywin (m : Mach) (p : BitVec 1) (a n : Nat) : Bool :=
  let w := m.portReg m.mgmtPort (0x020 + 8 * p.toNat)
  let b := fld w 41 30 * 2 ^ 30
  decide (b ≤ a ∧ a + n ≤ b + fld w 5 0 * 2 ^ 30)
/-- The context-table entry of an ASID in the table a die uses (R314). -/
def Mach.ctxEntry (m : Mach) (d asid : Nat) : Nat := fld (m.dieReg d 0x300) 41 16 * 65536 + 16 * asid
/-- The entry written in every die's table. -/
def writeEntry (asid v : Nat) (s : State) : State :=
  (List.range 4).foldl (fun s d => { s with mem := s.mem.write 0 (s.mach.ctxEntry d asid) 16 v }) s
/-- TNCMD as a command leaves it: ASID, OP and RESULT (R324). -/
def Mach.result (m : Mach) (p : BitVec 1) (asid op r : Nat) : Mach :=
  m.setPortReg p.toNat 0x040 (.ofNat 64 (asid % 65536 + op % 8 * 2 ^ 16 + r % 8 * 2 ^ 21))
/-- TNARG. -/
def Mach.tnArg (m : Mach) (p : BitVec 1) : W64 := m.portReg p.toNat 0x048
/-- What a command comes to: a failure, or the state it leaves. -/
abbrev Cmd := Except Nat State
/-- CREATE. -/
def createCmd (p : BitVec 1) (asid : Nat) (s : State) : Cmd :=
  let m := s.mach
  let t := (m.tnArg p).toNat
  if asid = 0 ∨ (Tab.get none m.tenants asid).isSome = true then .error 1
  else if (m.isMgmt p = false ∧ m.inPhywin p t 65536 = false) ∨
      (List.range 4).any (fun d => !flag (m.dieReg d 0x300) 0) = true then .error 4
  else
    let s := writeEntry asid (1 + bitsOf t 41 16 * 65536) s
    .ok { s with mach := { s.mach with tenants := Tab.set none s.mach.tenants asid (some p.toNat) } }
/-- Does a valid entry of the host's queue table name the tenant? -/
def hasQueue (p : BitVec 1) (asid : Nat) (s : State) : Bool :=
  flag (s.mach.portReg p.toNat 0x400) 0 && (List.range 64).any (fun q =>
    let e := qEntry s p (.ofNat 6 q)
    flag (wordAt e 0) 4 && decide (fld (wordAt e 3) 15 0 = asid))
/-- Entries that hold the tenant are taken out of a die's slot table. -/
def Mach.freeSlots (m : Mach) (asid : Nat) : Mach :=
  (List.range 256).foldl (fun m i =>
    let r := m.dieReg (i / 64) (0x800 + 8 * (i % 64))
    if flag r 16 = true ∧ fld r 15 0 = asid then m.setDieReg (i / 64) (0x800 + 8 * (i % 64)) 0 else m) m
/-- The tenant's reduction windows are closed. -/
def Mach.freeWindows (m : Mach) (asid : Nat) : Mach :=
  (List.range 32).foldl (fun m w =>
    let r := m.redwin w 0
    if flag r 0 = true ∧ fld r 31 16 = asid then m.setPortReg (w / 16) (0x300 + 16 * (w % 16)) (r &&& ~~~1) else m) m
/-- DESTROY. -/
def destroyCmd (p : BitVec 1) (asid : Nat) (s : State) : Cmd :=
  if s.mach.cores.any (fun e => e.2.owner == some asid) || hasQueue p asid s then .error 3
  else
    let s := writeEntry asid 0 s
    let m := { s.mach with
      tlb := s.mach.tlb.filter (fun e => e.asid ≠ asid)
      tenants := Tab.set none s.mach.tenants asid none
      quotas := (List.range 4).foldl (fun q d => Tab.set 0 q (d * 65536 + asid) 0) s.mach.quotas }
    .ok { s with mach := (m.freeSlots asid).freeWindows asid }
/-- Does a core hold a launch or saved contexts? -/
def Mach.holds (m : Mach) (c : Nat) : Bool := (m.core c).launch.isSome || m.saved.any (fun v => v.num == c)
/-- GIVECORE. A number that is no core's is RANGE (log 28). -/
def givecoreCmd (p : BitVec 1) (asid : Nat) (s : State) : Cmd :=
  let c := (s.mach.tnArg p).toNat
  if c ≥ 640 then .error 4
  else if (s.mach.core c).owner.isSome || s.mach.holds c then .error 3
  else .ok (s.onCore c (fun k => { k with owner := some asid }))
/-- A command on a core that the tenant owns; of another's core it is NOTMINE (log 28). -/
def ownCore (p : BitVec 1) (asid : Nat) (s : State) (f : Nat → Cmd) : Cmd :=
  let c := (s.mach.tnArg p).toNat
  if c ≥ 640 then .error 4 else if (s.mach.core c).owner ≠ some asid then .error 2 else f c
/-- TAKECORE. -/
def takecoreCmd (p : BitVec 1) (asid : Nat) (s : State) : Cmd :=
  ownCore p asid s (fun c => if s.mach.holds c then .error 3 else .ok (s.onCore c (fun k => { k with owner := none })))
/-- QUOTA. -/
def quotaCmd (p : BitVec 1) (asid : Nat) (s : State) : Cmd :=
  let a := s.mach.tnArg p
  .ok { s with mach := { s.mach with quotas := Tab.set 0 s.mach.quotas (fld a 1 0 * 65536 + asid) (fld a 31 16) } }
/-- PREEMPT: the core is to be saved and to stay saved. -/
def preemptCmd (p : BitVec 1) (asid : Nat) (s : State) : Cmd :=
  ownCore p asid s (fun c =>
    if (s.mach.core c).launch.isNone then .error 3
    else if (s.mach.saveReq c).isSome then .ok { s with mach := s.mach.onSave c (fun r => { r with byHost := true }) }
    else .ok { s with mach := { s.mach with saves := s.mach.saves ++ [⟨c, true, false, false⟩] } })
/-- RELEASE. -/
def releaseCmd (p : BitVec 1) (asid : Nat) (s : State) : Cmd :=
  ownCore p asid s (fun c =>
    let m := s.mach.onSave c (fun r => { r with byHost := false })
    .ok { s with mach := { m with saved := m.saved.map (fun v => if v.num = c then { v with held := false } else v) } })
/-- What operation `op` does; an ASID that is not the host's is NOTMINE for 1 to 6. -/
def tnOp (p : BitVec 1) (asid op : Nat) (s : State) : Cmd :=
  if op = 0 then createCmd p asid s
  else if op = 7 then .error 5
  else if s.mach.tenantOf p asid = false then .error 2
  else match op with
    | 1 => destroyCmd p asid s
    | 2 => givecoreCmd p asid s
    | 3 => takecoreCmd p asid s
    | 4 => quotaCmd p asid s
    | 5 => preemptCmd p asid s
    | _ => releaseCmd p asid s
/-- TNCMD acts: a failure changes nothing but RESULT. -/
def tnCmd (p : BitVec 1) (asid op : Nat) (s : State) : State :=
  match tnOp p asid op s with
  | .ok t => { t with mach := t.mach.result p asid op 0 }
  | .error r => { s with mach := s.mach.result p asid op r }
/-- CREATE (R325). -/
def execCreateTenant (p : BitVec 1) (asid : BitVec 16) (s : State) : Out := stepState s (some (tnCmd p asid.toNat 0 s))
/-- DESTROY (R325). -/
def execDestroyTenant (p : BitVec 1) (asid : BitVec 16) (s : State) : Out := stepState s (some (tnCmd p asid.toNat 1 s))
/-- GIVECORE (R325). -/
def execGivecore (p : BitVec 1) (asid : BitVec 16) (s : State) : Out := stepState s (some (tnCmd p asid.toNat 2 s))
/-- TAKECORE (R325). -/
def execTakecore (p : BitVec 1) (asid : BitVec 16) (s : State) : Out := stepState s (some (tnCmd p asid.toNat 3 s))
/-- QUOTA (R325). -/
def execSetQuota (p : BitVec 1) (asid : BitVec 16) (s : State) : Out := stepState s (some (tnCmd p asid.toNat 4 s))
/-- PREEMPT (R325). -/
def execPreemptCore (p : BitVec 1) (asid : BitVec 16) (s : State) : Out := stepState s (some (tnCmd p asid.toNat 5 s))
/-- RELEASE (R325). -/
def execReleaseCore (p : BitVec 1) (asid : BitVec 16) (s : State) : Out := stepState s (some (tnCmd p asid.toNat 6 s))
/-- BADOP (R325). -/
def execBadop (p : BitVec 1) (asid : BitVec 16) (s : State) : Out := stepState s (some (tnCmd p asid.toNat 7 s))

/-! ### Replay and decline (R318) -/

/-- The copy parked in a slot of a core, or of the saved core of that number (log 28); none where the core is not one of a
tenant of the host. -/
def Mach.answers (m : Mach) (p : BitVec 1) (core slot : Nat) (f : Core → Core) (away : Bool) : Mach :=
  let k := m.core core
  let mine := match k.owner with
    | some a => m.tenantOf p a
    | none => false
  let parked := fun (k : Core) => (Tab.get none k.parked slot).isSome
  if core ≥ 640 ∨ mine = false then m
  else if parked k then (if away then m.declineAt core slot else m.upd core f)
  else match m.saved.findIdx? (fun v => v.num == core && parked v.core) with
    | none => m
    | some i => match m.saved[i]? with
      | none => m
      | some v =>
        let l := ((Tab.get none v.core.parked slot).map v.core.awayOf).getD []
        let m := { m with saved := setNth m.saved i { v with core := f v.core } }
        if away then m.noteAway l false else m
/-- The host's answer for a parked copy. -/
def replayCmd (p : BitVec 1) (core slot : Nat) (go : Bool) (m : Mach) : Mach :=
  m.answers p core slot (fun k => if go then k.replayAt slot else k.declineAt slot) (!go)
/-- REPLAY (R318). -/
def execReplayCopy (p : BitVec 1) (core : BitVec 10) (slot : BitVec 3) (s : State) : Out :=
  stepMach s (replayCmd p core.toNat slot.toNat true s.mach)
/-- DECLINE (R318). -/
def execDeclineCopy (p : BitVec 1) (core : BitVec 10) (slot : BitVec 3) (s : State) : Out :=
  stepMach s (replayCmd p core.toNat slot.toNat false s.mach)

/-! ### Invalidation (R317, R321) -/

/-- TXINV written: ASID and SCOPE, and with GO the start; scope 11 is ignored. -/
def txinvCmd (d : Nat) (v : W64) (m : Mach) : Mach :=
  let old := m.dieReg d 0x308
  let r := mergeMask 0x3FFFF old v
  m.setDieReg d 0x308 (if flag v 18 = true ∧ fld v 17 16 ≠ 3 then r ||| .ofNat 64 (2 ^ 19) else r)
/-- TXINV (R317): every host may make it (R323). -/
def execTxinv (_ : BitVec 1) (die : BitVec 2) (v : W64) (s : State) : Out := stepMach s (txinvCmd die.toNat v s.mach)
/-- Does the invalidation in a die's registers reach this page of a tenant? -/
def Mach.invReaches (m : Mach) (d asid va size : Nat) : Bool :=
  let r := m.dieReg d 0x308
  let a := fld (m.dieReg d 0x310) 55 16 * 65536
  let n := fld (m.dieReg d 0x318) 23 0 * 65536
  match fld r 17 16 with
  | 0 => true
  | 1 => decide (fld r 15 0 = asid)
  | _ => decide (fld r 15 0 = asid ∧ va < a + n ∧ a < va + size)
/-- Every access of the die's cores through such a page is performed. -/
def Mach.invQuiet (m : Mach) (d : Nat) : Bool :=
  m.cores.all (fun e => decide (dieOf e.1 ≠ d) ||
    (let k := e.2
     let hit := fun (f : Flight) => m.invReaches d f.iss.asid (k.flightVa f) 16
     !(k.loads.any hit || k.atomics.any hit || k.stores.any (fun p => m.invReaches d p.fl.iss.asid p.va 16) ||
       k.cq.any (fun c => c.active && m.invReaches d c.fl.iss.asid 0 (2 ^ 56)))))
/-- TXINV_DONE (R317): no agent of the die holds a matching entry, and BUSY clears. -/
def txinvDone (d : Nat) (m : Mach) : Option Mach :=
  if flag (m.dieReg d 0x308) 19 = true ∧ m.invQuiet d = true then
    let t := m.tlb.filter (fun e => !(e.agent / 4 == d && m.invReaches d e.asid (e.page * e.size) e.size))
    some (({ m with tlb := t }).setDieReg d 0x308 (mergeMask 0x3FFFF 0 (m.dieReg d 0x308)))
  else none
def execTxinvDone (die : BitVec 2) (s : State) : Out :=
  match txinvDone die.toNat s.mach with
  | some m => stepMach s m
  | none => stutter s

/-! ### L2 domains (R251 to R253) -/

/-- The slices of a domain register; none where it is not valid. -/
def domSlices (w : W64) : List Nat := if flag w 10 then (List.range (2 ^ fld w 9 7)).map (· + fld w 6 0) else []
/-- The domain registers `f`, by offset, that R252 refuses. -/
def l2Bad (f : Nat → W64) : Bool :=
  let ws := (List.range 8).map (fun n => f (0x100 + 8 * n))
  let on := ws.filter (fun w => flag w 10)
  ws.any (fun w => decide (fld w 9 7 = 7 ∨ fld w 6 0 % 2 ^ fld w 9 7 ≠ 0)) ||
  on.any (fun w => decide (fld w 6 0 + 2 ^ fld w 9 7 > 80)) ||
  (List.range 8).any (fun i => (List.range i).any (fun j =>
    (domSlices (ws.getD i 0)).any (fun s => (domSlices (ws.getD j 0)).contains s))) ||
  (List.range 52).any (fun r => !flag (ws.getD (selIn f r) 0) 10)
/-- The offsets of the domain registers. -/
def l2Regs : List Nat := (List.range 16).map (fun n => 0x100 + 8 * n) ++ [0x180, 0x188, 0x190]
/-- The domain registers of a die taken from `f`. -/
def l2Take (d : Nat) (f : Nat → W64) (t : Tab W64) : Tab W64 := l2Regs.foldl (fun t o => Tab.set 0 t (d * 0x1000 + o) (f o)) t
/-- L2CTL written: ERR clears on a one. A COMMIT, unless one runs, is refused with ERR set, or starts with ERR clear and the shadow
values as they stand (R252; log 40). -/
def l2CommitCmd (d : Nat) (v : W64) (m : Mach) : Mach :=
  let old := m.dieReg d 0x198
  let old := if flag v 2 then old &&& ~~~4 else old
  if flag v 0 = false ∨ flag old 1 = true then m.setDieReg d 0x198 old
  else if l2Bad (m.dieReg d) then m.setDieReg d 0x198 (old ||| 4)
  else { m with l2next := l2Take d (m.dieReg d) m.l2next }.setDieReg d 0x198 (old &&& ~~~4 ||| 2)
/-- L2_COMMIT (R252, R253): the management host's. -/
def execL2Commit (p : BitVec 1) (die : BitVec 2) (v : W64) (s : State) : Out :=
  stepMach s (if s.mach.isMgmt p then l2CommitCmd die.toNat v s.mach else s.mach.refuse p (dieOff die.toNat 0x198))
/-- The slices that a change of the domain registers from `f` to `g` touches: those of changed domains, and of regions that change
their domain. -/
def l2Changed (f g : Nat → W64) : List Nat :=
  let dom := fun (n : Nat) => domSlices (f (0x100 + 8 * n)) ++ domSlices (g (0x100 + 8 * n))
  (List.range 8).flatMap (fun n =>
    if f (0x100 + 8 * n) = g (0x100 + 8 * n) ∧ f (0x140 + 8 * n) = g (0x140 + 8 * n) then [] else dom n) ++
  (List.range 52).flatMap (fun r => if selIn f r = selIn g r then [] else dom (selIn f r) ++ dom (selIn g r))
/-- L2_COMMIT_DONE (R253): the lines of the changed slices are written back, if dirty, and invalidated; the values are installed. -/
def l2CommitDone (d : Nat) (s : State) : Option State :=
  let m := s.mach
  let next := fun (o : Nat) => Tab.get 0 m.l2next (d * 0x1000 + o)
  if flag (m.dieReg d 0x198) 1 = false then none
  else
    let ch := l2Changed (s.mem.l2reg d) next
    let ls := s.mem.l2.filter (fun l => decide (homeDie (64 * l) = d) && ch.contains (s.mem.homeSlice (64 * l)))
    let mem := (ls.foldl (fun (m : Mem) l => (m.l2Down l).dropL2 l) s.mem).mirror (ls.map (fun l => (64 * l, 64)))
    some { mach := m.setDieReg d 0x198 (m.dieReg d 0x198 &&& ~~~2), mem := { mem with l2act := l2Take d next mem.l2act } }
def execL2CommitDone (die : BitVec 2) (s : State) : Out := stepState s (l2CommitDone die.toNat s)

/-! ### Features, windows, power, attestation -/

/-- FEATMASK written (R339). -/
def featmaskCmd (p : BitVec 1) (v : W64) (m : Mach) : Mach :=
  if m.isMgmt p = false then m.refuse p 0x060
  else if m.launches.any (fun l => decide (l.stat ≠ .done)) || !m.saved.isEmpty then m.refuse p 0x060
  else m.setPortReg p.toNat 0x060 (v &&& 7)
/-- FEATMASK_WRITE. -/
def execFeatmaskWrite (p : BitVec 1) (v : W64) (s : State) : Out := stepMach s (featmaskCmd p v s.mach)
/-- REDWIN written (R324): VALID clears on TYPE 11, another host's ASID, and a CONTRIB outside 1 to 1,024 (log 28). -/
def redwinCmd (p : BitVec 1) (w word : Nat) (v : W64) (m : Mach) : Mach :=
  let off := 0x300 + 16 * w + 8 * word
  if bitAt m.featMask 2 then m
  else if word = 1 then m.setPortReg p.toNat off (v &&& .ofNat 64 (0x3FF + (2 ^ 56 - 2 ^ 21)))
  else
    let r := mergeMask (0xF + 0xFFFF0000 + 0x7FF * 2 ^ 32) (m.portReg p.toNat off) v
    let bad := decide (winType r = 3 ∨ winCount r = 0 ∨ winCount r > 1024) || !m.tenantOf p (fld r 31 16)
    m.setPortReg p.toNat off (if bad then r &&& ~~~1 else r)
/-- REDWIN_WRITE. -/
def execRedwinWrite (p : BitVec 1) (w : BitVec 4) (word : BitVec 1) (v : W64) (s : State) : Out :=
  stepMach s (redwinCmd p w.toNat word.toNat v s.mach)
/-- Does a core of the die hold a bound or saved context? -/
def Mach.dieBusy (m : Mach) (d : Nat) : Bool :=
  m.cores.any (fun e => decide (dieOf e.1 = d) && e.2.launch.isSome) || m.saved.any (fun v => decide (dieOf v.num = d))
/-- PWRCTL written (R348): REFUSED and TRIP clear on ones; a TARGET other than RUN is refused of a die in use, and a refused
TARGET is not taken (log 28). -/
def pwrctlCmd (d : Nat) (v : W64) (m : Mach) : Mach :=
  let old := m.dieReg d 0x080
  let old := old &&& ~~~(v &&& 0x60)
  let t := fld v 1 0
  let r := mergeMask 3 old v
  m.setDieReg d 0x080
    (if t ≠ 0 ∧ m.dieBusy d = true then old ||| 0x20 else if t = fld r 3 2 then r &&& ~~~0x10 else r ||| 0x10)
/-- PWRCTL_WRITE: the management host's. -/
def execPwrctlWrite (p : BitVec 1) (die : BitVec 2) (v : W64) (s : State) : Out :=
  stepMach s (if s.mach.isMgmt p then pwrctlCmd die.toNat v s.mach else s.mach.refuse p (dieOff die.toNat 0x080))
/-- The SRAM of a core lost: zero, but for what system software and the host have set and the standard routines' firmware
(R347, R348). -/
def Core.lost (k : Core) : Core :=
  { Core.zero with owner := k.owner, out := k.out, seq := k.seq, rtab := k.rtab.filter (fun e => e.1 < 0x80), ustore := k.ustore.filter (fun e => e.1 < 2048) }
/-- POWER_CHANGE_DONE (R348): STATE follows TARGET. Out of OFFSR the die's SRAM is zero; what its slices had not written back
may be lost (log 7). -/
def powerDone (d : Nat) (s : State) : Option State :=
  let r := s.mach.dieReg d 0x080
  if flag r 4 = false then none
  else
    let m := s.mach.setDieReg d 0x080 (.ofNat 64 (setField (setField r.toNat 2 2 (fld r 1 0)) 4 1 0))
    if fld r 3 2 = 3 then
      let near := (d * 0x800000000, 0x800000000)
      let far := (0x10000000000 + d * 0x6000000000, 0x6000000000)
      some { mach := { m with cores := m.cores.map (fun e => if dieOf e.1 = d then (e.1, e.2.lost) else e) }, mem := s.mem.discard m.tick [near, far] }
    else some { s with mach := m }
def execPowerChangeDone (die : BitVec 2) (s : State) : Out := stepState s (powerDone die.toNat s)
/-- A Uli port's state in both blocks (R324). -/
def Mach.setUli (m : Mach) (p : Nat) (v : Nat) : Mach :=
  let one := fun (m : Mach) (b : Nat) =>
    m.setPortReg b (0x200 + 8 * p) (.ofNat 64 (setField (m.portReg b (0x200 + 8 * p)).toNat 0 3 v))
  one (one m 0) 1
/-- The Uli ports of a die are in RETAIN or OFFSR, by IOPWR. -/
def uliOff (w : W64) (d : Nat) : Bool := flag w (2 * d + 1)
/-- A fabric port drops and leaves the hash (R327). -/
def Mach.uliDrop (m : Mach) (i : Nat) : Mach := (m.setUli i 0).rehash i
/-- IOPWR written (R348): the ports of a die that goes off drop. -/
def iopwrCmd (p : BitVec 1) (v : W64) (m : Mach) : Mach :=
  if m.isMgmt p then
    let m := m.setPortReg p.toNat 0x068 (v &&& 0x3FF)
    (List.range 16).foldl (fun m i => if uliOff v (i / 4) then m.uliDrop i else m) m
  else m.refuse p 0x068
/-- IOPWR_WRITE. -/
def execIopwrWrite (p : BitVec 1) (v : W64) (s : State) : Out := stepMach s (iopwrCmd p v s.mach)
/-- THERMAL_TRIP (R348): the die stops issue, TRIP is set, MSI-X vector 0 goes to the management host. -/
def thermalTrip (d : Nat) (m : Mach) : Mach :=
  let m := m.setDieReg d 0x080 (m.dieReg d 0x080 ||| 0x40)
  { m with tripped := Tab.set false m.tripped d true, msix := m.msix ++ [(m.mgmtPort, 0)] }
def execThermalTrip (die : BitVec 2) (s : State) : Out := stepMach s (thermalTrip die.toNat s.mach)
/-- THERMAL_RESUME (R348). -/
def execThermalResume (die : BitVec 2) (s : State) : Out :=
  stepMach s { s.mach with tripped := Tab.set false s.mach.tripped die.toNat false }
/-- The standard microstore words, and the slot tables and domain registers of all dies, as bytes (log 17). -/
def microBytes (m : Mach) : List Byte := (List.range 2048).flatMap (fun i => leBytes (Tab.get 0 (m.core 0).ustore i).toNat 8)
def tableBytes (s : State) : List Byte :=
  (List.range 4).flatMap (fun d => (List.range 64).flatMap (fun w => leBytes (s.mach.slot d w).toNat 8) ++
    l2Regs.flatMap (fun o => leBytes (s.mem.l2reg d o).toNat 8))
/-- The report, less its signature (R349). -/
def reportHead (s : State) (nonce : List Byte) : List Byte :=
  let m := s.mach
  let w := 2 + m.minor.toNat * 256 + m.stepping.toNat * 65536 + m.features * 2 ^ 24 + m.featMask * 2 ^ 27
  nonce ++ leBytes w 8 ++ leBytes 0 56 ++ sha3 Config.firmware ++ sha3 (microBytes m) ++ sha3 (tableBytes s)
/-- ATTADDR written (R349): with GO the report fills the host's 8 KiB buffer, zero past the signature, and GO clears. -/
def attestCmd (p : BitVec 1) (v : W64) (s : State) : State :=
  let a := v.toNat / 4096 * 4096
  let s := { s with mach := s.mach.setPortReg p.toNat 0x070 (.ofNat 64 a) }
  if flag v 0 then
    let hd := reportHead s (s.mem.bytes (2 + p.toNat) a 64)
    { s with mem := s.mem.store (2 + p.toNat) a (hd ++ leBytes (Config.sign hd).toNat 4627 ++ leBytes 0 3245) }
  else s
/-- ATTEST. -/
def execAttestGo (p : BitVec 1) (v : W64) (s : State) : Out := stepState s (some (attestCmd p v s))

/-! ### Register writes (R10, R323) -/

/-- The RW bits of a port register that only holds what is written (R281, R320, R324). -/
def portMask (off : Nat) : Nat :=
  if off = 0x008 ∨ off = 0x048 ∨ off = 0x418 ∨ off = 0x420 ∨ off = 0x428 ∨ off = 0x430 ∨ off = 0x450 ∨
      off = 0x4C0 ∨ off = 0x4C8 ∨ off = 0x4D0 ∨ off = 0x4D8 then 2 ^ 64 - 1
  else if 0x080 ≤ off ∧ off < 0x100 then 3 + 0xFFFF0000 + 0xFFFFFF * 2 ^ 32
  else if off = 0x400 then 2 ^ 64 - 4096 + 1
  else if off = 0x440 then 2 ^ 64 - 4096 + 0x1F
  else 0
/-- The RW bits of a die register that only holds what is written (R252, R255, R256, R263, R321). -/
def dieMask (off : Nat) : Nat :=
  if 0x100 ≤ off ∧ off < 0x140 then 0x7FF
  else if 0x140 ≤ off ∧ off < 0x180 then 2 ^ 46 - 1
  else if off = 0x180 ∨ off = 0x188 then 2 ^ 63 - 1
  else if off = 0x190 then 2 ^ 30 - 1
  else if off = 0x1A0 then 2 ^ 38 - 1
  else if off = 0x300 then 1 + (2 ^ 42 - 2 ^ 16)
  else if off = 0x310 then 2 ^ 56 - 2 ^ 16
  else if off = 0x318 then 2 ^ 24 - 1
  else if off = 0x1B0 ∨ off = 0x1B8 ∨ off = 0x1C0 ∨ off = 0x1C8 ∨ off = 0x320 ∨ off = 0x328 then 2 ^ 64 - 1
  else if 0x800 ≤ off ∧ off < 0xA00 then 0x3FFFF
  else 0
/-- A write into a port's own block. -/
def portWrite (p : BitVec 1) (off : Nat) (v : W64) (s : State) : State :=
  let m := s.mach
  let b := p.toNat
  let mach := fun (m : Mach) => { s with mach := m }
  if off = 0x020 ∨ off = 0x028 then
    mach (if m.isMgmt p then m.setPortReg b off (v &&& .ofNat 64 (0x3F + (2 ^ 42 - 2 ^ 30))) else m.refuse p off)
  else if off = 0x040 then
    (if flag v 19 then tnCmd p (fld v 15 0) (fld v 18 16) s else mach (m.setPortReg b off (mergeMask 0x7FFFF (m.portReg b off) v)))
  else if off = 0x060 then mach (featmaskCmd p v m)
  else if off = 0x068 then mach (iopwrCmd p v m)
  else if off = 0x070 then attestCmd p v s
  else if 0x300 ≤ off ∧ off < 0x400 then mach (redwinCmd p ((off - 0x300) / 16) (off / 8 % 2) v m)
  else if off = 0x410 then mach (m.setPortReg b off (m.portReg b off &&& ~~~v))
  else if off = 0x458 then mach (replayCmd p (fld v 9 0) (fld v 12 10) (flag v 13) m)
  else mach (m.setPortReg b off (mergeMask (portMask off) (m.portReg b off) v))
/-- A write into a die's block: TXINV by either port, all else by the management port (R323). -/
def dieWrite (p : BitVec 1) (d off : Nat) (v : W64) (m : Mach) : Mach :=
  if off = 0x308 then txinvCmd d v m
  else if m.isMgmt p = false then m.refuse p (dieOff d off)
  else if off = 0x080 then pwrctlCmd d v m
  else if off = 0x198 then l2CommitCmd d v m
  else m.setDieReg d off (mergeMask (dieMask off) (m.dieReg d off) v)
/-- REGISTER_WRITE (R323): block 0 is the port's own, block 1 + d that of die d; offsets are multiples of 8. -/
def execRegisterWrite (p : BitVec 1) (blk : BitVec 3) (off : BitVec 12) (v : W64) (s : State) : Out :=
  if blk.toNat > 4 ∨ off.toNat % 8 ≠ 0 then .fault .noSuchUnit
  else if blk = 0 then stepState s (some (portWrite p off.toNat v s))
  else stepMach s (dieWrite p (blk.toNat - 1) off.toNat v s.mach)

/-! ### Apertures (R326) and host atomics (R246) -/

/-- An aperture's register and the address a request at an offset names. -/
def Mach.apctl (m : Mach) (p : BitVec 1) (ap : BitVec 4) : W64 := m.portReg p.toNat (0x080 + 8 * ap.toNat)
def apAddr (r : W64) (off : BitVec 32) : Nat := fld r 55 32 * 2 ^ 32 + off.toNat
/-- Where byte `i` of a request lies, if it may be reached: through the tenant's pages, or inside PHYWIN. -/
def apPlace (s : State) (p : BitVec 1) (r : W64) (a : Nat) (acc : Acc) : Tr :=
  if fld r 31 16 = 0 then (if s.mach.inPhywin p a 1 = true ∧ localMapped a = true then .ok 0 a false else .fail 3)
  else if s.mach.tenantOf p (fld r 31 16) then translate s feAgent (fld r 31 16) a acc
  else .fail 1
/-- A byte of the request lies on a remote device that no trained port reaches (R327). -/
def apLost (s : State) (p : BitVec 1) (ap : BitVec 4) (off : BitVec 32) (n : Nat) (acc : Acc) : Bool :=
  let r := s.mach.apctl p ap
  (List.range n).any (fun i => match apPlace s p r (apAddr r off + i) acc with
    | .ok sp _ _ => uliLost s.mach 0 sp
    | .fail _ => false)
/-- Such a request is counted in ECCUE of die 0, by which the hosts' requests leave (R327; log 28). -/
def State.noteApLost (s : State) (lost : Bool) : State := if lost then { s with mach := s.mach.incDie 0 0x328 1 } else s
/-- Is every byte of a request reached? What a read finds poisoned or out of reach it does not return (R311, R327). -/
def apReached (s : State) (p : BitVec 1) (ap : BitVec 4) (off : BitVec 32) (n : Nat) (acc : Acc) : Bool :=
  let r := s.mach.apctl p ap
  flag r 0 && (!acc.wr || flag r 1) && (List.range n).all (fun i => match apPlace s p r (apAddr r off + i) acc with
    | .ok sp ad _ => !(acc.rd && (s.mem.poisoned sp ad || uliLost s.mach 0 sp))
    | .fail _ => false)
/-- How a host's request meets the lines. -/
def apMove (acc : Acc) : Move := if acc.rd then .read 0 else .write
/-- The request waits: a byte of it lies at a home die that does not serve (R348). -/
def apWaits (s : State) (p : BitVec 1) (ap : BitVec 4) (off : BitVec 32) (n : Nat) (acc : Acc) : Bool :=
  let r := s.mach.apctl p ap
  (List.range n).any (fun i => match apPlace s p r (apAddr r off + i) acc with
    | .ok sp ad _ => s.mach.asleep sp ad
    | .fail _ => false)
/-- A host's request once its home serves and the ports it needs have moved it (R256, R348). -/
def viaAperture (s : State) (p : BitVec 1) (ap : BitVec 4) (off : BitVec 32) (n : Nat) (acc : Acc) (go : State → State) : Option State :=
  let r := s.mach.apctl p ap
  if apWaits s p ap off n acc then none
  else s.transfer 0 (fld r 31 16) (hostHolder p.toNat) (ap.toNat * 2 ^ 32 + off.toNat) [(apMove acc, [(apAddr r off, n)])] (fun s => some (go s))
/-- Unsupported Request: nothing written, all ones read. -/
def unsupported (p : BitVec 1) (ap : BitVec 4) (off : BitVec 32) (n : Nat) (s : State) : State :=
  { s with mach := { s.mach.refuse p (ap.toNat * 2 ^ 32 + off.toNat) with hostData := List.replicate n 0xFF } }
/-- Bytes read, in order. -/
def apRead (s : State) (p : BitVec 1) (ap : BitVec 4) (off : BitVec 32) (n : Nat) : List Byte :=
  let r := s.mach.apctl p ap
  (List.range n).map (fun i => match apPlace s p r (apAddr r off + i) accRead with
    | .ok sp ad _ => s.mem.byte sp ad
    | .fail _ => 0xFF)
/-- HOST_APERTURE_READ. -/
def apertureRead (p : BitVec 1) (ap : BitVec 4) (off : BitVec 32) (n : Nat) (s : State) : Option State :=
  if apReached s p ap off n accRead = false then some ((unsupported p ap off n s).noteApLost (apLost s p ap off n accRead))
  else viaAperture s p ap off n accRead (fun s => { s with mach := { s.mach with hostData := apRead s p ap off n } })
def execHostApertureRead (p : BitVec 1) (ap : BitVec 4) (off : BitVec 32) (len : Nat) (s : State) : Out :=
  if off.toNat + len > 2 ^ 32 then .fault .noSuchUnit else stepState s (apertureRead p ap off len s)
/-- Bytes written, in runs that do not cross a 64-byte granule. -/
def apStore (p : BitVec 1) (r : W64) (a : Nat) (bs : List Byte) (s : State) : Mem :=
  (List.range ((63 + (bs.length + a)) / 64 - a / 64)).foldl (fun m j =>
    let lo := if j = 0 then 0 else a / 64 * 64 + 64 * j - a
    let run := (bs.drop lo).take (64 - (a + lo) % 64)
    match apPlace s p r (a + lo) accWrite with
    | .ok sp ad _ => if uliLost s.mach 0 sp then m else m.store sp ad run
    | .fail _ => m) s.mem
/-- HOST_APERTURE_WRITE. -/
def apertureWrite (p : BitVec 1) (ap : BitVec 4) (off : BitVec 32) (bs : List Byte) (s : State) : Option State :=
  if apReached s p ap off bs.length accWrite = false then some (unsupported p ap off 0 s)
  else viaAperture s p ap off bs.length accWrite (fun s =>
    let r := s.mach.apctl p ap
    { s with mem := apStore p r (apAddr r off) bs s }.noteApLost (apLost s p ap off bs.length accWrite))
def execHostApertureWrite (p : BitVec 1) (ap : BitVec 4) (off : BitVec 32) (data : List Byte) (s : State) : Out :=
  if off.toNat + data.length > 2 ^ 32 then .fault .noSuchUnit else stepState s (apertureWrite p ap off data s)
/-- The opcode of a host atomic as R241 numbers it, and the sizes it has. -/
def hostOpCode (o : Sys2Proof.HostOp) : Nat :=
  match o with
  | .fetchAdd => 0
  | .swap => 8
  | .cas => 9
def hostSizeOk (o : Sys2Proof.HostOp) (n : Nat) : Bool := decide (n = 4 ∨ n = 8 ∨ (n = 16 ∧ o = .cas))
/-- HOST_ATOMIC (R246): on a system-atomic page, naturally aligned, at the home; the first operand is what a CAS expects. -/
def hostAtomic (p : BitVec 1) (ap : BitVec 4) (off : BitVec 32) (o : Sys2Proof.HostOp) (n a b : Nat) (s : State) : Option State :=
  let r := s.mach.apctl p ap
  let va := apAddr r off
  let acc : Acc := ⟨true, true, true, false⟩
  match apPlace s p r va acc with
  | .fail _ => some (unsupported p ap off n s)
  | .ok sp ad sa =>
    if apReached s p ap off n acc = false ∨ sa = false ∨ va % n ≠ 0 ∨ hostSizeOk o n = false then
      some ((unsupported p ap off n s).noteApLost (apLost s p ap off n acc))
    else viaAperture s p ap off n acc (fun s =>
      let old := s.mem.read sp ad n
      let new := amoValue (hostOpCode o) (8 * n) old (if o = .cas then b else a) a
      { mach := { s.mach with hostData := leBytes old n }, mem := s.mem.write sp ad n new })
def execHostAtomic (p : BitVec 1) (ap : BitVec 4) (off : BitVec 32) (op : Sys2Proof.HostOp) (len : BitVec 5) (a b : BitVec 128)
    (s : State) : Out := stepState s (hostAtomic p ap off op len.toNat a.toNat b.toNat s)

/-! ### What the registers read (R10, R252, R324) -/

/-- A port register as its host reads it. -/
def Mach.portRead (m : Mach) (p : BitVec 1) (off : Nat) : W64 :=
  if off = 0x020 ∨ off = 0x028 then
    (if m.isMgmt p = true ∨ off = 0x020 + 8 * p.toNat then m.portReg m.mgmtPort off else 0)
  else if off = 0x060 then m.portReg m.mgmtPort 0x060
  else if off = 0x458 then 0
  else if 0x300 ≤ off ∧ off < 0x400 ∧ off % 16 = 0 ∧ bitAt m.featMask 2 = true then m.portReg p.toNat off &&& ~~~1
  else m.portReg p.toNat off
/-- A die register as a host reads it: of the domain registers, the values in effect. -/
def State.dieRead (s : State) (d off : Nat) : W64 := if l2Regs.contains off then s.mem.l2reg d off else s.mach.dieReg d off

end Sys2Proof.Machine
end

