-- ==== Sys2Proof/Machine/Fabric.lean ====
section
/-! DEFINITION. The Uli fabric: ports that train and drop (R327, R332), and what other devices ask of this one (R328, R331,
R332). -/
namespace Sys2Proof.Machine
open Sys2Proof

/-- HOMEMERGE of every window of both ports: chosen when the fabric trains, by what the switches report, which is free
(R332; log 18). -/
def Mach.chooseMerge (m : Mach) : Mach :=
  let h := (Config.freeWord m.tick).toNat % 2
  (List.range 32).foldl (fun m w =>
    let off := 0x300 + 16 * (w % 16)
    m.setPortReg (w / 16) off (.ofNat 64 (setField (m.portReg (w / 16) off).toNat 4 1 h))) m
/-- The switches give the device its number in the domain at link training: a free one of 0 to 1,023 (R328; log 18). -/
def Mach.numbered (m : Mach) : Mach := { m with deviceNo := (Config.freeWord m.tick).toNat / 2 % 1024 }
/-- ULI_TRAIN (R327): the port of a powered die comes up at generation 2 or 1; with the first, the device is in a domain. -/
def uliTrain (p : Nat) (gen2 : Bool) (m : Mach) : Option Mach :=
  if uliOff (m.portReg m.mgmtPort 0x068) (p / 4) then none
  else
    let up := (List.range 16).any m.uliUp
    let m := m.setUli p (1 + (if gen2 then 2 else 1) * 2)
    some (if up then m else m.chooseMerge.numbered)
def execUliTrain (port : BitVec 4) (gen2 : Bool) (s : State) : Out :=
  match uliTrain port.toNat gen2 s.mach with
  | some m => stepMach s m
  | none => stutter s
/-- ULI_DOWN (R327): the port drops and leaves the hash. -/
def execUliDown (port : BitVec 4) (s : State) : Out := stepMach s (s.mach.uliDrop port.toNat)

/-- The bytes a request touches. -/
def reqSize (r : RemReq) : Nat :=
  match r with
  | .read n => n
  | .write bs => bs.length
  | .amo _ n _ _ => n
  | .merged _ _ n _ => n
  | .contribution _ _ _ _ _ => 4
/-- The operand sizes there are (R241, R330): 1 to 64 bytes in one granule for reads and writes, naturally aligned atomics. -/
def reqOk (a : Nat) (r : RemReq) : Bool :=
  match r with
  | .read n => decide (1 ≤ n ∧ a % 64 + n ≤ 64)
  | .write bs => decide (1 ≤ bs.length ∧ a % 64 + bs.length ≤ 64)
  | .amo o n _ _ => decide (o.toNat ≤ 11 ∧ (n = 4 ∨ n = 8 ∨ (n = 16 ∧ 8 ≤ o.toNat)) ∧ a % n = 0)
  | .merged o _ n _ => decide (o.toNat ≤ 7 ∧ (n = 4 ∨ n = 8) ∧ a % n = 0)
  | .contribution _ o _ _ _ => decide (o.toNat ≤ 7 ∧ a % 4 = 0)
/-- A contribution from another device, as the round buffers hold it: its window is the home device's of that number, among those of
its tenant's host (R330, R332). Where the devices' windows differ the merged value is undefined (R330); what the sender's window held
the request does not say, and the home's is taken: DESIGN CHOICE (log 49). -/
def remoteContrib (m : Mach) (dev asid a : Nat) (w : Nat) (o : Nat) (c : W64) (core ctx : Nat) : Contrib :=
  let w := 16 * (Tab.get none m.tenants asid).getD 0 + w
  let r := m.redwin w 0
  ⟨none, false, w, winOrdered r, decide (winType r = 2), winCount r, dev, core, ctx, 0, a, o, if winType r = 1 then 8 else 4, c⟩
/-- A request served at the home slice (R328); what it answers stands in `hostData`. A poisoned line is never returned as
data (R311). -/
def remoteServe (dev asid a : Nat) (r : RemReq) (s : State) : State :=
  let say := fun (bs : List Byte) (s : State) => { s with mach := { s.mach with hostData := bs } }
  let bad := s.mem.poisoned 0 a
  match r with
  | .read n => say (if bad then [] else s.mem.bytes 0 a n) s
  | .write bs => say [] { s with mem := s.mem.store 0 a bs }
  | .amo o n x y =>
    if bad then say [] s
    else
      let old := s.mem.read 0 a n
      let new := amoValue o.toNat (8 * n) old x.toNat y.toNat
      let keep := decide (o.toNat = 10 ∨ (o.toNat = 9 ∧ old ≠ y.toNat % 2 ^ (8 * n)))
      say (leBytes old n) (if keep then s else { s with mem := s.mem.write 0 a n new })
  | .merged o fp n v =>
    if bad then say [] s
    else
      let c : Contrib := ⟨none, false, 0, false, fp, 0, dev, 0, 0, 0, a, o.toNat, n, v⟩
      say [] { s with mem := s.mem.write 0 a n (c.merge (s.mem.read 0 a n) (v.toNat % 2 ^ (8 * n))) }
  | .contribution w o c core ctx =>
    say [] { s with mach := { s.mach with contribs := s.mach.contribs ++ [remoteContrib s.mach dev asid a w.toNat o.toNat c core ctx] } }
/-- The requests of another device's access in the windows of its tenant: at the home die's port to that device, and at a far channel
that it needs (R256, R329). -/
def remotePorts (s : State) (dev asid a : Nat) (r : RemReq) : List PortReq :=
  let d := homeDie a
  let h := remoteHolder dev
  ((s.mach.fabricPort d dev).map (fun p => (⟨d, 13 + p, asid, 1, h, a⟩ : PortReq))).toList ++
    (match r with
     | .contribution _ _ _ _ _ => []
     | .write bs => runReqs s 0 asid h a false .write 0 a bs.length
     | _ => runReqs s 0 asid h a false (.read 0) 0 a (reqSize r))
/-- REMOTE_REQUEST (R328, R329): the fabric has brought the tenant's access to its home; it waits for the tenant's windows there, and
while the home die does not serve (R348). -/
def execRemoteRequest (dev : BitVec 10) (asid : BitVec 16) (addr : BitVec 42) (req : RemReq) (s : State) : Out :=
  let a := addr.toNat
  if localMapped a = false ∨ reqOk a req = false then .fault .noSuchUnit
  else if s.mach.asleep 0 a then stutter s
  else stepState s (s.viaPorts (remoteHolder dev.toNat) a (remotePorts s dev.toNat asid.toNat a req)
    (fun s => some (remoteServe dev.toNat asid.toNat a req s)))

end Sys2Proof.Machine
end

