-- ==== Sys2Proof/Machine/Boot.lean ====
section
/-! DEFINITION. Bring-up (R347) with the standard routine library (R176), and device reset (R10). -/
namespace Sys2Proof.Machine
open Sys2Proof

/-! ### The standard routines (R41, R176) -/

/-- A micro-op word: MOP, PA, PB, PC, FLAGS. -/
def uword (mop pa pb pc fl : Nat) : W64 :=
  .ofNat 64 (mop * 2 ^ 58 + pa * 2 ^ 55 + pb * 2 ^ 52 + pc * 2 ^ 49 + fl * 2 ^ 45)
/-- The micro-ops of the library under R176's parameter convention. -/
def wMzero : W64 := uword 0x01 2 0 0 0
def wMlda : W64 := uword 0x02 0 0 0 1
def wMldb (fl : Nat) : W64 := uword 0x03 1 0 0 fl
def wMmac : W64 := uword 0x04 2 3 0 0
def wMacc : W64 := uword 0x06 2 0 0 1
def wMout : W64 := uword 0x07 2 5 6 0
def wMwbl : W64 := uword 0x08 0 1 0 1
def wMsetk : W64 := uword 0x09 4 0 0 1
def wMret : W64 := uword 0x0D 0 0 0 0
/-- The body of a product with `n` MLDAs and the flags of its MLDB. -/
def wProduct (n fl : Nat) : List W64 := [wMsetk] ++ List.replicate n wMlda ++ [wMldb fl, wMmac]
/-- Index, whether it appends once on A5, and words of each routine. -/
def stdRoutines : List (Nat × Bool × List W64) :=
  [(0x00, false, wProduct 1 0 ++ [wMret]),
   (0x01, false, [wMsetk, wMlda] ++ [wMldb 0, wMmac, wMldb 0, wMmac, wMldb 0, wMmac, wMldb 0, wMmac] ++ [wMret]),
   (0x02, false, wProduct 2 1 ++ [wMret]),
   (0x03, false, wProduct 4 2 ++ [wMret]),
   (0x04, false, wProduct 1 4 ++ [wMret]),
   (0x05, false, wProduct 1 12 ++ [wMret]),
   (0x06, false, wProduct 2 5 ++ [wMret]),
   (0x08, false, [wMzero] ++ wProduct 1 0 ++ [wMret]),
   (0x09, true, wProduct 1 0 ++ [wMout, wMret]),
   (0x0C, true, [wMout, wMret]),
   (0x0D, false, [wMzero, wMret]),
   (0x0E, false, [wMacc, wMret]),
   (0x0F, false, [wMwbl, wMret]),
   (0x10, false, [wMwbl, wMwbl, wMwbl, wMwbl, wMret])]
/-- Entries and words from word `at'` on, one routine after another (log 15). -/
def stdLayout (at' : Nat) : List (Nat × Bool × List W64) → List (Nat × REntry) × List W64
  | [] => ([], [])
  | (n, app, ws) :: t =>
    let r := stdLayout (at' + ws.length) t
    ((n, ⟨true, false, at', ws.length, if app then 5 else 0, b2n app, 0, 0⟩) :: r.1, ws ++ r.2)
/-- Words of the store with their addresses. -/
def numbered (at' : Nat) (ws : List W64) : Tab W64 := (List.range ws.length).map (fun i => (at' + i, ws.getD i 0))
/-- Word 128 on holds the controllers' routines 0x40 to 0x4F (R176, R372; log 15). -/
def controllerEntry (i : Nat) : Nat × REntry := (0x40 + i, ⟨true, true, 128 + 120 * i, 120, 0, 0, 0, 0⟩)
/-- A controllers' word as the firmware loads it: one of those that pass its check (R42, R372; log 10). -/
def controllerLoaded (a : Nat) : W64 :=
  let w := Config.controllerWord a
  if uwordOk ((a - 128) / 120 * 120 + 128) 120 ((a - 128) % 120) w then w else wMret
/-- The routine table and the microprogram store as firmware loads them. -/
def stdTable : Tab REntry := (stdLayout 0 stdRoutines).1 ++ (List.range 16).map controllerEntry
def stdStore : Tab W64 :=
  numbered 0 (stdLayout 0 stdRoutines).2 ++ (List.range 1920).map (fun i => (128 + i, controllerLoaded (128 + i)))
/-- A core once the firmware has loaded it. -/
def Core.booted (k : Core) : Core := { k with rtab := stdTable, ustore := stdStore }

/-! ### Bring-up -/

/-- BOOTSTAT in both blocks. -/
def Mach.bootstat (m : Mach) (stage : Nat) (fatal : Bool) (code far : Nat) : Mach :=
  let v := BitVec.ofNat 64 (stage + b2n fatal * 2 ^ 4 + code * 2 ^ 5 + far * 2 ^ 13)
  (m.setPortReg 0 0x018 v).setPortReg 1 0x018 v
/-- Has bring-up still to run: its last step is not complete, and none was fatal? -/
def Mach.unbooted (m : Mach) : Bool := decide (fld (m.portReg 0 0x018) 3 0 < 4) && !flag (m.portReg 0 0x018) 4
/-- The PCIe ports' trained generation (4 to 6, free; log 20). -/
def Mach.trained (m : Mach) : Mach :=
  (List.range 2).foldl (fun m p =>
    m.setPortReg p 0x000 (.ofNat 64 (setField (m.portReg p 0x000).toNat 3 3 (4 + (Config.freeWord (m.tick + p)).toNat % 3)))) m
/-- READY, and RUN of the front ends. -/
def Mach.ready (m : Mach) : Mach :=
  (List.range 2).foldl (fun m p =>
    let m := m.setPortReg p 0x000 (.ofNat 64 (setField (m.portReg p 0x000).toNat 2 1 1))
    m.setPortReg p 0x408 (m.portReg p 0x408 ||| 0x10000)) m
/-- Every location of the device zero (stage 2); what hosts and other devices hold stands. -/
def Mem.cleared (m : Mem) : Mem := { Mem.zero with h0 := m.h0, h1 := m.h1, rem := m.rem }
/-- POWER_GOOD (R347): the next step of bring-up, reported in BOOTSTAT. The first trains the links and leaves out the far channels
`far`, failure 1 being a link and 2 near DRAM; the second clears every location; the third verifies the firmware, failure 3 being a
signature; the fourth starts the front ends and loads the standard routines (log 20). -/
def powerGood (fail far : Nat) (s : State) : Option State :=
  let m := s.mach
  let out := fld (m.portReg 0 0x018) 60 13
  if m.unbooted = false then none
  else match fld (m.portReg 0 0x018) 3 0 with
    | 0 => some { s with mach := if fail = 1 ∨ fail = 2 then m.bootstat 0 true fail far else m.trained.bootstat 1 false 0 far }
    | 1 => some { mach := { m with cores := [] }.bootstat 2 false 0 out, mem := s.mem.cleared }
    | 2 => some { s with mach := if fail = 3 then m.bootstat 2 true 3 out else m.bootstat 3 false 0 out }
    | _ => some { s with mach := { m with cores := (List.range 640).map (fun c => (c, Core.zero.booted)) }.ready.bootstat 4 false 0 out }
def execPowerGood (fail : BitVec 2) (farmask : BitVec 48) (s : State) : Out :=
  stepState s (powerGood fail.toNat farmask.toNat s)
/-- DEVICE_RESET (R10): every register at its reset value, the domain registers in effect among them; bring-up follows, and memory
stands until it clears it. -/
def deviceReset (s : State) : State :=
  { mach := { State.reset.mach with minor := s.mach.minor, stepping := s.mach.stepping, agenda := s.mach.agenda, tick := s.mach.tick }
    mem := { s.mem with l2act := State.reset.mem.l2act } }
def execDeviceReset (s : State) : Out := stepState s (some (deviceReset s))

end Sys2Proof.Machine
end

