-- ==== Sys2Proof/Machine/Dispatch.lean ====
section
/-! DEFINITION. One arm for each instruction: its meaning. -/
namespace Sys2Proof.Machine
open Sys2Proof

/-- What an instruction or a step of the device does. -/
def exec (i : Instr) (s : State) : Host.Outcome State Fault Refusal :=
  match i with
  | .nop g => Sys2Proof.Machine.execNop g s
  | .br g off => Sys2Proof.Machine.execBr g off s
  | .brx g n => Sys2Proof.Machine.execBrx g n s
  | .call g off => Sys2Proof.Machine.execCall g off s
  | .ret g => Sys2Proof.Machine.execRet g s
  | .loop g off n => Sys2Proof.Machine.execLoop g off n s
  | .lend g => Sys2Proof.Machine.execLend g s
  | .mark g m => Sys2Proof.Machine.execMark g m s
  | .spawn g off t => Sys2Proof.Machine.execSpawn g off t s
  | .halt g => Sys2Proof.Machine.execHalt g s
  | .yield g => Sys2Proof.Machine.execYield g s
  | .dbar g lvl => Sys2Proof.Machine.execDbar g lvl s
  | .waitb g n => Sys2Proof.Machine.execWaitb g n s
  | .fence g sc => Sys2Proof.Machine.execFence g sc s
  | .ifence g => Sys2Proof.Machine.execIfence g s
  | .trap g code => Sys2Proof.Machine.execTrap g code s
  | .eret g => Sys2Proof.Machine.execEret g s
  | .swapi g off => Sys2Proof.Machine.execSwapi g off s
  | .add p => Sys2Proof.Machine.execAdd p s
  | .sub p => Sys2Proof.Machine.execSub p s
  | .mul p => Sys2Proof.Machine.execMul p s
  | .mulhs p => Sys2Proof.Machine.execMulhs p s
  | .mulhu p => Sys2Proof.Machine.execMulhu p s
  | .divs p => Sys2Proof.Machine.execDivs p s
  | .divu p => Sys2Proof.Machine.execDivu p s
  | .rems p => Sys2Proof.Machine.execRems p s
  | .remu p => Sys2Proof.Machine.execRemu p s
  | .and p => Sys2Proof.Machine.execAnd p s
  | .or p => Sys2Proof.Machine.execOr p s
  | .xor p => Sys2Proof.Machine.execXor p s
  | .andn p => Sys2Proof.Machine.execAndn p s
  | .shl p => Sys2Proof.Machine.execShl p s
  | .shrl p => Sys2Proof.Machine.execShrl p s
  | .shra p => Sys2Proof.Machine.execShra p s
  | .min p => Sys2Proof.Machine.execMin p s
  | .max p => Sys2Proof.Machine.execMax p s
  | .minu p => Sys2Proof.Machine.execMinu p s
  | .maxu p => Sys2Proof.Machine.execMaxu p s
  | .mov p => Sys2Proof.Machine.execMov p s
  | .sel p => Sys2Proof.Machine.execSel p s
  | .clz p => Sys2Proof.Machine.execClz p s
  | .popc p => Sys2Proof.Machine.execPopc p s
  | .bfx p => Sys2Proof.Machine.execBfx p s
  | .bfi p => Sys2Proof.Machine.execBfi p s
  | .cmpeq p => Sys2Proof.Machine.execCmpeq p s
  | .cmpne p => Sys2Proof.Machine.execCmpne p s
  | .cmplt p => Sys2Proof.Machine.execCmplt p s
  | .cmpltu p => Sys2Proof.Machine.execCmpltu p s
  | .cmple p => Sys2Proof.Machine.execCmple p s
  | .cmpleu p => Sys2Proof.Machine.execCmpleu p s
  | .pand p => Sys2Proof.Machine.execPand p s
  | .por p => Sys2Proof.Machine.execPor p s
  | .pxor p => Sys2Proof.Machine.execPxor p s
  | .pandn p => Sys2Proof.Machine.execPandn p s
  | .pmov p => Sys2Proof.Machine.execPmov p s
  | .lea p => Sys2Proof.Machine.execLea p s
  | .aset p => Sys2Proof.Machine.execAset p s
  | .aget p => Sys2Proof.Machine.execAget p s
  | .ld p => Sys2Proof.Machine.execLd p s
  | .st p => Sys2Proof.Machine.execSt p s
  | .ldsp p => Sys2Proof.Machine.execLdsp p s
  | .stsp p => Sys2Proof.Machine.execStsp p s
  | .csrr p => Sys2Proof.Machine.execCsrr p s
  | .csrw p => Sys2Proof.Machine.execCsrw p s
  | .csrset p => Sys2Proof.Machine.execCsrset p s
  | .csrclr p => Sys2Proof.Machine.execCsrclr p s
  | .amoadd p => Sys2Proof.Machine.execAmoadd p s
  | .amoand p => Sys2Proof.Machine.execAmoand p s
  | .amoor p => Sys2Proof.Machine.execAmoor p s
  | .amoxor p => Sys2Proof.Machine.execAmoxor p s
  | .amomin p => Sys2Proof.Machine.execAmomin p s
  | .amomax p => Sys2Proof.Machine.execAmomax p s
  | .amominu p => Sys2Proof.Machine.execAmominu p s
  | .amomaxu p => Sys2Proof.Machine.execAmomaxu p s
  | .amoswap p => Sys2Proof.Machine.execAmoswap p s
  | .amocas p => Sys2Proof.Machine.execAmocas p s
  | .amold p => Sys2Proof.Machine.execAmold p s
  | .amost p => Sys2Proof.Machine.execAmost p s
  | .qalloc p => Sys2Proof.Machine.execQalloc p s
  | .qfree p => Sys2Proof.Machine.execQfree p s
  | .qdeq p => Sys2Proof.Machine.execQdeq p s
  | .qsplice p => Sys2Proof.Machine.execQsplice p s
  | .qunsplice p => Sys2Proof.Machine.execQunsplice p s
  | .qresplice p => Sys2Proof.Machine.execQresplice p s
  | .qfreeze p => Sys2Proof.Machine.execQfreeze p s
  | .qthaw p => Sys2Proof.Machine.execQthaw p s
  | .qsave p => Sys2Proof.Machine.execQsave p s
  | .qrestore p => Sys2Proof.Machine.execQrestore p s
  | .qstat p => Sys2Proof.Machine.execQstat p s
  | .baralloc p => Sys2Proof.Machine.execBaralloc p s
  | .barref p => Sys2Proof.Machine.execBarref p s
  | .bardrop p => Sys2Proof.Machine.execBardrop p s
  | .barinit p => Sys2Proof.Machine.execBarinit p s
  | .bartest p => Sys2Proof.Machine.execBartest p s
  | .bararr p => Sys2Proof.Machine.execBararr p s
  | .msload p => Sys2Proof.Machine.execMsload p s
  | .ephbind p => Sys2Proof.Machine.execEphbind p s
  | .ephstat p => Sys2Proof.Machine.execEphstat p s
  | .rlcgo p => Sys2Proof.Machine.execRlcgo p s
  | .rlcwait p => Sys2Proof.Machine.execRlcwait p s
  | .rlcstat p => Sys2Proof.Machine.execRlcstat p s
  | .rlcabort p => Sys2Proof.Machine.execRlcabort p s
  | .vadd p => Sys2Proof.Machine.execVadd p s
  | .vsub p => Sys2Proof.Machine.execVsub p s
  | .vmul p => Sys2Proof.Machine.execVmul p s
  | .vmulhs p => Sys2Proof.Machine.execVmulhs p s
  | .vmulhu p => Sys2Proof.Machine.execVmulhu p s
  | .vmin p => Sys2Proof.Machine.execVmin p s
  | .vmax p => Sys2Proof.Machine.execVmax p s
  | .vminu p => Sys2Proof.Machine.execVminu p s
  | .vmaxu p => Sys2Proof.Machine.execVmaxu p s
  | .vand p => Sys2Proof.Machine.execVand p s
  | .vor p => Sys2Proof.Machine.execVor p s
  | .vxor p => Sys2Proof.Machine.execVxor p s
  | .vshl p => Sys2Proof.Machine.execVshl p s
  | .vshrl p => Sys2Proof.Machine.execVshrl p s
  | .vshra p => Sys2Proof.Machine.execVshra p s
  | .vabs p => Sys2Proof.Machine.execVabs p s
  | .vneg p => Sys2Proof.Machine.execVneg p s
  | .vmov p => Sys2Proof.Machine.execVmov p s
  | .vsel p => Sys2Proof.Machine.execVsel p s
  | .vmad p => Sys2Proof.Machine.execVmad p s
  | .vcmpeq p => Sys2Proof.Machine.execVcmpeq p s
  | .vcmpne p => Sys2Proof.Machine.execVcmpne p s
  | .vcmplt p => Sys2Proof.Machine.execVcmplt p s
  | .vcmpltu p => Sys2Proof.Machine.execVcmpltu p s
  | .vcmple p => Sys2Proof.Machine.execVcmple p s
  | .vcmpleu p => Sys2Proof.Machine.execVcmpleu p s
  | .vredadd p => Sys2Proof.Machine.execVredadd p s
  | .vredmin p => Sys2Proof.Machine.execVredmin p s
  | .vredmax p => Sys2Proof.Machine.execVredmax p s
  | .vredminu p => Sys2Proof.Machine.execVredminu p s
  | .vredmaxu p => Sys2Proof.Machine.execVredmaxu p s
  | .vcompact p => Sys2Proof.Machine.execVcompact p s
  | .vexpand p => Sys2Proof.Machine.execVexpand p s
  | .vmaskcnt p => Sys2Proof.Machine.execVmaskcnt p s
  | .viota p => Sys2Proof.Machine.execViota p s
  | .vreq p => Sys2Proof.Machine.execVreq p s
  | .vreq8 p => Sys2Proof.Machine.execVreq8 p s
  | .vfadd p => Sys2Proof.Machine.execVfadd p s
  | .vfsub p => Sys2Proof.Machine.execVfsub p s
  | .vfmul p => Sys2Proof.Machine.execVfmul p s
  | .vfma p => Sys2Proof.Machine.execVfma p s
  | .vfms p => Sys2Proof.Machine.execVfms p s
  | .vfnma p => Sys2Proof.Machine.execVfnma p s
  | .vfmin p => Sys2Proof.Machine.execVfmin p s
  | .vfmax p => Sys2Proof.Machine.execVfmax p s
  | .vfabs p => Sys2Proof.Machine.execVfabs p s
  | .vfneg p => Sys2Proof.Machine.execVfneg p s
  | .vfcmpeq p => Sys2Proof.Machine.execVfcmpeq p s
  | .vfcmplt p => Sys2Proof.Machine.execVfcmplt p s
  | .vfcmple p => Sys2Proof.Machine.execVfcmple p s
  | .vfcmpun p => Sys2Proof.Machine.execVfcmpun p s
  | .vfredadd p => Sys2Proof.Machine.execVfredadd p s
  | .vfredmin p => Sys2Proof.Machine.execVfredmin p s
  | .vfredmax p => Sys2Proof.Machine.execVfredmax p s
  | .vcvt p => Sys2Proof.Machine.execVcvt p s
  | .vfround p => Sys2Proof.Machine.execVfround p s
  | .vfreq p => Sys2Proof.Machine.execVfreq p s
  | .vrcp p => Sys2Proof.Machine.execVrcp p s
  | .vrsq p => Sys2Proof.Machine.execVrsq p s
  | .vrcps p => Sys2Proof.Machine.execVrcps p s
  | .vrsqs p => Sys2Proof.Machine.execVrsqs p s
  | .vexp2 p => Sys2Proof.Machine.execVexp2 p s
  | .vmadm p => Sys2Proof.Machine.execVmadm p s
  | .vmsbm p => Sys2Proof.Machine.execVmsbm p s
  | .vmulm p => Sys2Proof.Machine.execVmulm p s
  | .vmulmc p => Sys2Proof.Machine.execVmulmc p s
  | .vbfly p => Sys2Proof.Machine.execVbfly p s
  | .vibfly p => Sys2Proof.Machine.execVibfly p s
  | .vperm p => Sys2Proof.Machine.execVperm p s
  | .vmred p => Sys2Proof.Machine.execVmred p s
  | .vmcent p => Sys2Proof.Machine.execVmcent p s
  | .vmodset p => Sys2Proof.Machine.execVmodset p s
  | .vmodget p => Sys2Proof.Machine.execVmodget p s
  | .xperm p => Sys2Proof.Machine.execXperm p s
  | .xbcast p => Sys2Proof.Machine.execXbcast p s
  | .xrot p => Sys2Proof.Machine.execXrot p s
  | .xzip p => Sys2Proof.Machine.execXzip p s
  | .xunzip p => Sys2Proof.Machine.execXunzip p s
  | .xtrn p => Sys2Proof.Machine.execXtrn p s
  | .mcall g ar r imm => Sys2Proof.Machine.execMcall g ar r imm s
  | .cplin p => Sys2Proof.Machine.execCplin p s
  | .cplinCode p => Sys2Proof.Machine.execCplinCode p s
  | .cpstr p => Sys2Proof.Machine.execCpstr p s
  | .cpgath p => Sys2Proof.Machine.execCpgath p s
  | .cpconv p => Sys2Proof.Machine.execCpconv p s
  | .cpver p => Sys2Proof.Machine.execCpver p s
  | .cpcomp p => Sys2Proof.Machine.execCpcomp p s
  | .cpst p => Sys2Proof.Machine.execCpst p s
  | .cpsts p => Sys2Proof.Machine.execCpsts p s
  | .cpbank p => Sys2Proof.Machine.execCpbank p s
  | .cpwb p => Sys2Proof.Machine.execCpwb p s
  | .cpdisc p => Sys2Proof.Machine.execCpdisc p s
  | .cppref p => Sys2Proof.Machine.execCppref p s
  | .cpcoll p => Sys2Proof.Machine.execCpcoll p s
  | .mzero u => Sys2Proof.Machine.execMzero u s
  | .mlda u => Sys2Proof.Machine.execMlda u s
  | .mldb u => Sys2Proof.Machine.execMldb u s
  | .mmac u => Sys2Proof.Machine.execMmac u s
  | .mpromo u => Sys2Proof.Machine.execMpromo u s
  | .macc u => Sys2Proof.Machine.execMacc u s
  | .mout u => Sys2Proof.Machine.execMout u s
  | .mwbl u => Sys2Proof.Machine.execMwbl u s
  | .msetk u => Sys2Proof.Machine.execMsetk u s
  | .mloop u => Sys2Proof.Machine.execMloop u s
  | .mend u => Sys2Proof.Machine.execMend u s
  | .mbr u => Sys2Proof.Machine.execMbr u s
  | .mret u => Sys2Proof.Machine.execMret u s
  | .pktNop h => Sys2Proof.Machine.execPktNop h s
  | .beginBatch h => Sys2Proof.Machine.execBeginBatch h s
  | .commitBatch h => Sys2Proof.Machine.execCommitBatch h s
  | .launchPkt h desc sig val => Sys2Proof.Machine.execLaunchPkt h desc sig val s
  | .graphPkt h desc sig val => Sys2Proof.Machine.execGraphPkt h desc sig val s
  | .writePkt h dst cnt v0 v1 v2 v3 => Sys2Proof.Machine.execWritePkt h dst cnt v0 v1 v2 v3 s
  | .waitmemPkt h addr mask val op tmo => Sys2Proof.Machine.execWaitmemPkt h addr mask val op tmo s
  | .pktLoop h body trips => Sys2Proof.Machine.execPktLoop h body trips s
  | .indirectPkt h buf cnt => Sys2Proof.Machine.execIndirectPkt h buf cnt s
  | .signalPkt h addr val store irq vec => Sys2Proof.Machine.execSignalPkt h addr val store irq vec s
  | .fetchFence h => Sys2Proof.Machine.execFetchFence h s
  | .nullifierSkip core ctx => Sys2Proof.Machine.execNullifierSkip core ctx s
  | .bundleUnblock core ctx => Sys2Proof.Machine.execBundleUnblock core ctx s
  | .fenceComplete core ctx => Sys2Proof.Machine.execFenceComplete core ctx s
  | .ifenceComplete core ctx => Sys2Proof.Machine.execIfenceComplete core ctx s
  | .dbarRelease core ctx => Sys2Proof.Machine.execDbarRelease core ctx s
  | .haltDrained core ctx => Sys2Proof.Machine.execHaltDrained core ctx s
  | .launchEndCore core => Sys2Proof.Machine.execLaunchEndCore core s
  | .dividerComplete core => Sys2Proof.Machine.execDividerComplete core s
  | .loadComplete core ctx => Sys2Proof.Machine.execLoadComplete core ctx s
  | .storePerform core idx => Sys2Proof.Machine.execStorePerform core idx s
  | .atomicComplete core ctx => Sys2Proof.Machine.execAtomicComplete core ctx s
  | .fillLand core idx => Sys2Proof.Machine.execFillLand core idx s
  | .readComplete core ctx q pos => Sys2Proof.Machine.execReadComplete core ctx q pos s
  | .spliceAppendArrive core idx => Sys2Proof.Machine.execSpliceAppendArrive core idx s
  | .headAdvertise core idx => Sys2Proof.Machine.execHeadAdvertise core idx s
  | .freezeRequest core idx => Sys2Proof.Machine.execFreezeRequest core idx s
  | .freezeMarker core idx => Sys2Proof.Machine.execFreezeMarker core idx s
  | .freezeAck core idx => Sys2Proof.Machine.execFreezeAck core idx s
  | .thawHandshake core idx => Sys2Proof.Machine.execThawHandshake core idx s
  | .barrierArrive core idx => Sys2Proof.Machine.execBarrierArrive core idx s
  | .barrierFree core bar => Sys2Proof.Machine.execBarrierFree core bar s
  | .rlcStep cluster => Sys2Proof.Machine.execRlcStep cluster s
  | .vbSplitStart core idx => Sys2Proof.Machine.execVbSplitStart core idx s
  | .vectorPartComplete core idx => Sys2Proof.Machine.execVectorPartComplete core idx s
  | .routineStart core => Sys2Proof.Machine.execRoutineStart core s
  | .stageFetchDone core idx => Sys2Proof.Machine.execStageFetchDone core idx s
  | .routineRetire core idx => Sys2Proof.Machine.execRoutineRetire core idx s
  | .copyStart core idx => Sys2Proof.Machine.execCopyStart core idx s
  | .copyLand core idx => Sys2Proof.Machine.execCopyLand core idx s
  | .cpverCommit core idx => Sys2Proof.Machine.execCpverCommit core idx s
  | .collectiveComplete idx => Sys2Proof.Machine.execCollectiveComplete idx s
  | .contribArrive idx => Sys2Proof.Machine.execContribArrive idx s
  | .entryRead idx => Sys2Proof.Machine.execEntryRead idx s
  | .entryStart idx => Sys2Proof.Machine.execEntryStart idx s
  | .entryComplete idx entry => Sys2Proof.Machine.execEntryComplete idx entry s
  | .ephStallPass core ctx => Sys2Proof.Machine.execEphStallPass core ctx s
  | .windowBoundary => Sys2Proof.Machine.execWindowBoundary s
  | .portGrant die port => Sys2Proof.Machine.execPortGrant die port s
  | .trapEnter core ctx => Sys2Proof.Machine.execTrapEnter core ctx s
  | .fatalFault core => Sys2Proof.Machine.execFatalFault core s
  | .softerr st core n => Sys2Proof.Machine.execSofterr st core n s
  | .scrubDie die => Sys2Proof.Machine.execScrubDie die s
  | .pollSlot host q => Sys2Proof.Machine.execPollSlot host q s
  | .waitmemTimeout host q => Sys2Proof.Machine.execWaitmemTimeout host q s
  | .launchBind id => Sys2Proof.Machine.execLaunchBind id s
  | .launchComplete id => Sys2Proof.Machine.execLaunchComplete id s
  | .graphNodeEnd id => Sys2Proof.Machine.execGraphNodeEnd id s
  | .preemptSave core => Sys2Proof.Machine.execPreemptSave core s
  | .saveAreaCheck core => Sys2Proof.Machine.execSaveAreaCheck core s
  | .restore idx => Sys2Proof.Machine.execRestore idx s
  | .createTenant port asid => Sys2Proof.Machine.execCreateTenant port asid s
  | .destroyTenant port asid => Sys2Proof.Machine.execDestroyTenant port asid s
  | .givecore port asid => Sys2Proof.Machine.execGivecore port asid s
  | .takecore port asid => Sys2Proof.Machine.execTakecore port asid s
  | .setQuota port asid => Sys2Proof.Machine.execSetQuota port asid s
  | .preemptCore port asid => Sys2Proof.Machine.execPreemptCore port asid s
  | .releaseCore port asid => Sys2Proof.Machine.execReleaseCore port asid s
  | .badop port asid => Sys2Proof.Machine.execBadop port asid s
  | .replayCopy port core slot => Sys2Proof.Machine.execReplayCopy port core slot s
  | .declineCopy port core slot => Sys2Proof.Machine.execDeclineCopy port core slot s
  | .txinv port die v => Sys2Proof.Machine.execTxinv port die v s
  | .txinvDone die => Sys2Proof.Machine.execTxinvDone die s
  | .l2Commit port die v => Sys2Proof.Machine.execL2Commit port die v s
  | .l2CommitDone die => Sys2Proof.Machine.execL2CommitDone die s
  | .featmaskWrite port v => Sys2Proof.Machine.execFeatmaskWrite port v s
  | .redwinWrite port w word v => Sys2Proof.Machine.execRedwinWrite port w word v s
  | .pwrctlWrite port die v => Sys2Proof.Machine.execPwrctlWrite port die v s
  | .powerChangeDone die => Sys2Proof.Machine.execPowerChangeDone die s
  | .iopwrWrite port v => Sys2Proof.Machine.execIopwrWrite port v s
  | .thermalTrip die => Sys2Proof.Machine.execThermalTrip die s
  | .thermalResume die => Sys2Proof.Machine.execThermalResume die s
  | .attestGo port v => Sys2Proof.Machine.execAttestGo port v s
  | .registerWrite port blk off v => Sys2Proof.Machine.execRegisterWrite port blk off v s
  | .hostApertureRead port ap off len => Sys2Proof.Machine.execHostApertureRead port ap off len s
  | .hostApertureWrite port ap off data => Sys2Proof.Machine.execHostApertureWrite port ap off data s
  | .hostAtomic port ap off op len a b => Sys2Proof.Machine.execHostAtomic port ap off op len a b s
  | .uliTrain port gen2 => Sys2Proof.Machine.execUliTrain port gen2 s
  | .uliDown port => Sys2Proof.Machine.execUliDown port s
  | .powerGood fail farmask => Sys2Proof.Machine.execPowerGood fail farmask s
  | .deviceReset => Sys2Proof.Machine.execDeviceReset s
  | .spliceRequest core idx => Sys2Proof.Machine.execSpliceRequest core idx s
  | .unspliceRequest core idx => Sys2Proof.Machine.execUnspliceRequest core idx s
  | .thawReply core idx => Sys2Proof.Machine.execThawReply core idx s
  | .remoteRequest dev asid addr req => Sys2Proof.Machine.execRemoteRequest dev asid addr req s
  | .launchAbort id => Sys2Proof.Machine.execLaunchAbort id s

end Sys2Proof.Machine
end

