-- ==== Sys2Proof/Machine/Schedule.lean ====
section
/-! DEFINITION. Which agent moves next. The spec leaves the order among agents open; here the agenda says it, and where the
agenda is empty a fixed order does (log 1). The issue of a whole bundle stands here too. -/
namespace Sys2Proof.Machine
open Sys2Proof

/-! ### One bundle (R43, R44, R62) -/

/-- The parts of a bundle in the order their effects follow: the slots, then the control operation. -/
def issueOrder (ps : List Instr) : List Instr :=
  ps.filter (fun i => partNo i ≠ 0) ++ ps.filter (fun i => partNo i = 0)
/-- Instructions executed one after another, up to the first that stops. -/
def execAll : List Instr → State → Out
  | [], s => .next s
  | i :: t, s => match exec i s with
    | .next s' => execAll t s'
    | .fault r => .fault r
    | .refused r => .refused r
/-- Core `c` and its context `x` come into focus. -/
def State.focus (s : State) (c x : Nat) : State := { s with mach := { s.mach with focusCore := c, focusCtx := x } }
/-- A bundle opened on its core, with the core and context in focus. -/
def State.open' (s : State) (c x : Nat) (k : Core) : State := (s.onCore c (fun _ => k)).focus c x
/-- An outcome's state changed. -/
def Out.map' (f : State → State) (o : Out) : Out :=
  match o with
  | .next s => .next (f s)
  | .fault r => .fault r
  | .refused r => .refused r
/-- The next bundle of context `x` of core `c`: it is skipped (R65), it is held, it waits, traps or blocks, or it issues and
each of its parts has its effect. -/
def issueStep (c x : Nat) (s : State) : Out :=
  let n := nextBun s c x
  let r := n.1.ruling n.2
  let s1 := s.open' c x (n.1.act n.2 r)
  match r with
  | .go => Out.map' (fun t => t.close c) (execAll (issueOrder n.2.parts) s1)
  | _ => .next { s1 with mach := s1.mach.ticked }

/-! ### What the agents can do -/

/-- A step that may be possible. -/
abbrev Try := State → Option State
/-- The first possible step of a list. -/
def tryAll : List Try → Try
  | [], _ => none
  | f :: t, s => match f s with
    | some s' => some s'
    | none => tryAll t s
/-- A step for one of `n` indices. -/
def tryIdx (n : Nat) (f : Nat → Try) : Try := tryAll ((List.range n).map f)
/-- A step on core `c` alone. -/
def tryCore (c : Nat) (f : Core → Option Core) : Try :=
  fun s => (f (s.mach.core c)).map (fun k => { s with mach := s.mach.setCore c k })
/-- A step that changes no memory. -/
def tryMach (f : Mach → Option Mach) : Try := fun s => (f s.mach).map (fun m => { s with mach := m })
/-- A step on core `c` where a condition holds. -/
def tryIf (c : Nat) (p : Core → Bool) (f : Core → Core) : Try :=
  tryMach (fun m => if p (m.core c) then some (m.upd c f) else none)
/-- Message `idx` of core `c` under one of the kinds of delivery. -/
def tryMsg (c idx : Nat) (f : Msg → Mach → Option Mach) : Try :=
  tryMach (fun m =>
    let k := m.core c
    match k.out[idx]? with
    | none => none
    | some g => if k.first idx = false then none else f g (m.setCore c { k with out := dropNth k.out idx }))
/-- The deliveries of R93 to R97, R105 and R106. -/
def deliveries : List (Msg → Mach → Option Mach) :=
  [appendArrive, headArrive, freezeReqArrive, markerArrive, ackArrive, thawArrive, thawReplyArrive, spliceArrive, unspliceArrive]
/-- What context `x` of core `c` waits for. -/
def ctxTries (c x : Nat) : List Try :=
  [tryMach (trapEnter c x),
   fenceTry c x,
   ifenceTry c x,
   dbarTry c x,
   tryIf c (fun k => haltReady k x) (haltOn x (Core.abandonPart c)),
   stallPass c x,
   loadComplete c x,
   atomicComplete c x,
   bundleUnblock c x]
/-- The reads of a core that can be completed. -/
def readTries (c : Nat) (k : Core) : List Try :=
  ctxNums.flatMap (fun x => (List.range 8).flatMap (fun q =>
    (k.queue x q).pos.map (fun e => tryCore c (readCompleteOn x q e.1))))
/-- What the engines of core `c` have at work. -/
def coreTries (c : Nat) (k : Core) : List Try :=
  [tryMach (fatalStop c),
   tryIdx k.fetches.length (fun i => tryCore c (fetchDone i)),
   tryIdx k.fills.length (fun i => tryCore c (fillLandOn i)),
   tryAll (readTries c k),
   tryIdx k.arrivals.length (fun i => tryCore c (barrierArriveOn i)),
   tryAll (k.bars.map (fun e => tryCore c (barrierFreeOn e.1))),
   tryIdx k.vparts.length (fun i s => tryCore c (splitStart c s.mach.tick i) s),
   tryIdx k.vparts.length (fun i s => tryCore c (partComplete c i (s.mach.slotsAwaited c)) s),
   dividerDone c,
   tryIdx k.stores.length (fun i => storePerform c i),
   tryIdx k.out.length (fun i => tryAll (deliveries.map (tryMsg c i))),
   tryCore c routineStart,
   tryIdx k.rq.length (fun i => tryCore c (routineRetire i)),
   tryIdx k.cq.length (fun i => copyStarts c i),
   tryIdx k.cq.length (fun i => copyLands c i),
   tryIdx k.cq.length (fun i => cpverCommit c i),
   tryAll (ctxNums.flatMap (ctxTries c)),
   preemptSave c, saveAreaCheck c, endCore c]
/-- What the rest of the module has at work. -/
def moduleTries (m : Mach) : List Try :=
  [tryIdx m.colls.length collComplete, tryIdx m.contribs.length contribArrive,
   tryIdx m.bindings.length entryRead, tryIdx m.bindings.length entryStart,
   tryIdx m.bindings.length (fun i => tryAll (((m.bindings[i]?).map (fun b => b.started.map (fun e => entryComplete i e.idx))).getD [])),
   tryAll (m.portReqs.map (fun r => tryMach (portGrant r.die r.port))),
   tryAll (m.rlcs.map (fun e => rlcStep e.1)),
   tryAll (m.launches.map (fun l => launchBind l.id)), tryAll (m.launches.map (fun l => launchComplete l.id)),
   tryAll (m.graphs.map (fun g => graphNodeEnd g.id)), tryIdx m.saved.length restore,
   tryAll (m.saved.map (fun v => saveAreaCheck v.num)),
   tryIdx 4 (fun d => tryMach (txinvDone d)), tryIdx 4 l2CommitDone, tryIdx 4 powerDone,
   tryAll (m.fe.map (fun e => waitTimeout (.ofNat 1 (e.1 / 64)) (.ofNat 6 e.1)))]
/-- The first step that some agent's waiting work allows. -/
def anyEvent (s : State) : Option State :=
  tryAll (s.mach.cores.map (fun e => tryAll (coreTries e.1 e.2)) ++ moduleTries s.mach) s

/-- The context that an issue unit would issue from: selected, ISSUING, not stopped. -/
def Mach.issuer (m : Mach) (c : Nat) : Option Nat :=
  let k := m.core c
  match k.selected with
  | none => none
  | some x => if (k.ctx x).st = .issuing ∧ k.held x = false ∧ m.stopped c = false then some x else none
/-- The first core in the order of the table, from core `from'` on and then from the start, that meets a test. -/
def pick (from' : Nat) (p : Nat → Bool) (l : List Nat) : Option Nat :=
  (l.filter (fun c => decide (from' ≤ c))).find? p |>.orElse (fun _ => l.find? p)
/-- The core whose issue unit takes a bundle, in turn. -/
def Mach.issueTurn (m : Mach) : Option (Nat × Nat) :=
  (pick (m.focusCore + (if m.tick % 3 = 0 then 0 else 1)) (fun c => (m.issuer c).isSome) (m.cores.map (·.1))).bind
    (fun c => (m.issuer c).map (fun x => (c, x)))
/-- A core with a running routine, in turn. -/
def Mach.seqTurn (m : Mach) : Option Nat :=
  pick (m.focusCore + (if m.tick % 3 = 0 then 0 else 1)) (fun c => (m.core c).running.isSome) (m.cores.map (·.1))
/-- A packet that a queue can begin and that would go on, a WAITMEM that has begun apart: a queue whose head may not run, or waits for
ports or for a home die, keeps no other back (R280, R287). -/
def headTurn (s : State) : Option Instr :=
  s.mach.fe.findSome? (fun e =>
    let h : BitVec 1 := .ofNat 1 (e.1 / 64)
    let q : BitVec 6 := .ofNat 6 e.1
    if e.2.since.isSome then none else ((headOf h q s).filter (headGoes h q s)).map (·.i))
/-- Is a queue FAST (R282)? -/
def fastQueue (s : State) (h : BitVec 1) (q : BitVec 6) : Bool := flag (wordAt (qEntry s h q) 0) 5
/-- The frame of the front ends (R280; log 1): eight parts of one µs. A FAST queue has a polling slot in each part, any other in one of
them; each part ends with the end of its µs. -/
def outerStep (s : State) : Out :=
  let n := s.mach.tick % 3099 / 3
  let key := n % 129
  let h : BitVec 1 := .ofNat 1 (key / 64)
  let q : BitVec 6 := .ofNat 6 key
  if n ≥ 1032 then stepMach s s.mach
  else if key = 128 then execWindowBoundary s
  else if polled s h q = true ∧ (fastQueue s h q = true ∨ n / 129 = key % 8) then execPollSlot h q s
  else stepMach s s.mach

/-- What the machine does next. -/
inductive Turn where
  | bringUp
  | event (s : State)
  | issue (c x : Nat)
  | micro (c : Nat)
  | packet (i : Instr)
  | outer

/-- The first of some choices, else the outer turn. -/
def firstTurn (l : List (Option Turn)) : Turn := (firstSome l).getD .outer
/-- Waiting work first, then an issue unit, a sequencer or a front end in an order that rotates (log 1). -/
def workTurn (s : State) : Turn :=
  match anyEvent s with
  | some s' => .event s'
  | none =>
    let i := s.mach.issueTurn.map (fun e => Turn.issue e.1 e.2)
    let u := s.mach.seqTurn.map Turn.micro
    let p := (headTurn s).map Turn.packet
    match s.mach.tick % 3 with
    | 0 => firstTurn [i, u, p]
    | 1 => firstTurn [u, p, i]
    | _ => firstTurn [p]
/-- The choice: bring-up, then the work at hand; in every 64 turns one goes to the front end's packets and one to the polls
and the clock, so that neither waits for ever (log 1). -/
def turn (s : State) : Turn :=
  if s.mach.unbooted then .bringUp
  else match s.mach.tick % 64 with
    | 63 => .outer
    | 31 => match headTurn s with
      | some i => .packet i
      | none => workTurn s
    | _ => workTurn s
/-- A turn taken. -/
def takeTurn (s : State) (t : Turn) : Out :=
  match t with
  | .bringUp => execPowerGood 0 0 s
  | .event s' => .next { s' with mach := s'.mach.ticked }
  | .issue c x => issueStep c x s
  | .micro c => seqStep (s.focus c s.mach.focusCtx)
  | .packet i => exec i s
  | .outer => outerStep s
/-- An instruction that the agenda may name: a step of the device, not a part, a micro-op or a packet. -/
def isEvent (i : Instr) : Bool :=
  match view i with
  | .step => decide (encode i = .none)
  | _ => false

/-! ### A state that is about to run one instruction (log 12) -/

/-- The parcels of a bundle that holds one matrix slot and nothing else (R14, R16). -/
def matrixBundle (w : Nat) : List W64 :=
  [.ofNat 64 (1 * 2 ^ 60 + 0x06000600), .ofNat 64 (0x06000600 * 2 ^ 32 + w % 2 ^ 32)]
/-- A context bound and ISSUING at address 0. -/
def readyCtx : Ctx := { Ctx.zero with st := .issuing, vcount := 160, acount := 4 }
/-- A loaded core with that context and the bundle at address 0. -/
def readyCore (w : Nat) : Core :=
  { Core.zero.booted with ispad := numbered 0 (matrixBundle w), selected := some 0, ctxs := [(0, readyCtx)] }

end Sys2Proof.Machine
end

