-- ==== Sys2Proof/Machine/Step.lean ====
section
/-! DEFINITION. One step of the machine. -/
namespace Sys2Proof.Machine
open Sys2Proof

/-- One step: the agenda's next event, else the turn that the machine's own state gives (log 1). -/
def step (s : State) : Host.Outcome State Fault Refusal :=
  match s.mach.agenda with
  | i :: t =>
    let s' : State := { s with mach := { s.mach with agenda := t } }
    if isEvent i then exec i s' else .next s'
  | [] => takeTurn s (turn s)

/-- The state in which the very next step issues, from the instruction scratchpad of core 0, a bundle with the matrix slot
`w` alone (log 12): bring-up is over, and a context of core 0 is bound. -/
def State.withFetchWord (s : State) (nbits w : Nat) : State :=
  let m := (s.mach.setCore 0 (readyCore (w % 2 ^ nbits))).bootstat 4 false 0 0
  { s with mach := { m with agenda := [], focusCore := 0, focusCtx := 0, tick := 0 } }

end Sys2Proof.Machine
end

