-- ==== Sys2Proof/Safety.lean ====
section
/-! DEFINITION. The terms in which claims about the machine are made: when a part takes effect, what one step on a core
changes, what stays as it stood, and the form that every step keeps. -/
namespace Sys2Proof.Machine
open Sys2Proof

/-! ### When a part takes effect -/

/-- The core in focus. -/
def State.here (s : State) : Core := s.mach.core s.mach.focusCore
/-- Bundle `b` is open on the core in focus: it has issued and its parts take effect now (R44, R62); and the guard `g` of
the part in question reads true (R18). -/
structure Runs (s : State) (b : Issue) (g : BitVec 4) : Prop where
  isOpen : s.here.issue = some b
  live : b.pre.rP g.toNat = true
/-- An operand of a part: as it stood before the bundle (R44). -/
def State.arg (s : State) (b : Issue) (p : Part) (d : Desc) : W64 := scalarOp b.pre (s.here.ctx b.ctx).cbank p.cw d
/-- The opcode of a part that takes a control word; 0 of any other. -/
def opcOf (i : Instr) : Nat :=
  match view i with
  | .op o _ => o
  | _ => 0

/-! ### What a step changes -/

/-- One step in which core `c` alone changes, by `f`. -/
def State.stepOn (s : State) (c : Nat) (f : Core → Core) : State := { s with mach := (s.mach.upd c f).ticked }
/-- One step in which the core in focus alone changes. -/
def State.did (s : State) (f : Core → Core) : State := s.stepOn s.mach.focusCore f
/-- One step in which nothing changes but the model's own counter of steps (log 6). -/
def State.idle (s : State) : State := { s with mach := s.mach.ticked }
/-- One step that changes no memory. -/
def State.mechs (s : State) (m : Mach) : State := { s with mach := m.ticked }
/-- A part that leaves its value in a scalar and retires (R64, R123). -/
def State.wrote (s : State) (i : Instr) (b : Issue) (n : Nat) (v : W64) : State :=
  s.did (fun k => (k.upd b.ctx (fun c => c.onRegs (fun r => r.wS n v))).retire ⟨i, b⟩)
/-- A part that leaves a truth value in a predicate and retires. -/
def State.marked (s : State) (i : Instr) (b : Issue) (n : Nat) (t : Bool) : State :=
  s.did (fun k => (k.upd b.ctx (fun c => c.onRegs (fun r => r.wP n t))).retire ⟨i, b⟩)
/-- The context of the bundle goes on at `a` (R70). -/
def State.goesOn (s : State) (b : Issue) (a : Nat) : State :=
  s.did (fun k => { k with issue := some { b with next := BitVec.ofNat 64 a } })

/-- A system operation that answers at once: `f` on the core, then its result word in DST and success in PDST (R101). -/
def State.answered (s : State) (i : Instr) (b : Issue) (p : Part) (f : Core → Core) (v : W64) (ok : Bool) : State :=
  s.did (fun k => (((f k).upd b.ctx (fun c => c.onRegs (fun r => r.wS (dstReg p.cw.dst) v))).upd b.ctx
    (fun c => c.onRegs (fun r => r.wP p.cw.pdst.toNat ok))).retire ⟨i, b⟩)
/-- A system operation that fails with a code: nothing changes but DST and PDST (R101). -/
def State.failed (s : State) (i : Instr) (b : Issue) (p : Part) (code : Nat) : State :=
  s.answered i b p id (BitVec.ofNat 64 (2 ^ 63 + code)) false
/-- A system operation that holds back its context, after `f` on the core (R113). -/
def State.waits (s : State) (i : Instr) (b : Issue) (f : Core → Core) : State :=
  s.did (fun k => (f k).upd b.ctx (fun c => { c with wait := some ⟨i, b⟩, answer := none }))
/-- What waits for ports under a name goes on at once (R256; log 19): they have moved what it asked for, or it needs nothing of them. -/
def State.portsOpen (s : State) (holder tag : Nat) (reqs : List PortReq) : Prop :=
  if s.mach.asked.contains (holder, tag) then portsDone s.mach holder tag = true else reqs = []
/-- A transfer of a tenant goes on at once: every home die of its ranges serves (R348), and the ports let it. -/
def State.mayMove (s : State) (core asid holder tag : Nat) (mv : List (Move × List (Nat × Nat))) (more : List PortReq := []) : Prop :=
  (∀ e ∈ mv, s.sleeps (agentOf core) asid e.2 = false) ∧
  s.portsOpen holder tag (more ++ mv.flatMap (fun e => portNeeds s core asid holder tag false e.1 e.2))
/-- The machine as it then goes on: what it asked for has left the ports. -/
def State.served (s : State) (holder tag : Nat) : State :=
  if s.mach.asked.contains (holder, tag) then { s with mach := s.mach.dropPorts holder tag } else s
/-- The machine once message `idx` of core `c` is taken from those on their way. -/
def State.took (s : State) (c idx : Nat) : Mach :=
  s.mach.setCore c { s.mach.core c with out := dropNth (s.mach.core c).out idx }
/-- Message `g` is the `idx`-th on its way from core `c`, and none before it to the same queue holds it back. -/
def State.hasMsg (s : State) (c idx : Nat) (g : Msg) : Prop :=
  c < 640 ∧ (s.mach.core c).out[idx]? = some g ∧ (s.mach.core c).first idx = true

/-! ### What stays -/

/-- Every byte of every memory reads as before, and every line's poison bit stands. -/
def SameMemory (s t : State) : Prop :=
  (∀ sp a, t.mem.byte sp a = s.mem.byte sp a) ∧ ∀ sp a, t.mem.poisoned sp a = s.mem.poisoned sp a
/-- Do two numbers name one memory: 0 local, 1 a remote device's, 2 and 3 the hosts'? -/
def sameSpace (a b : Nat) : Bool := Nat.min a 3 == Nat.min b 3
/-- Every byte outside the `n` bytes at address `a` of memory `sp` reads as before. -/
def SameBut (s t : State) (sp a n : Nat) : Prop :=
  ∀ sp' x, (sameSpace sp sp' = false ∨ x < a ∨ a + n ≤ x) → t.mem.byte sp' x = s.mem.byte sp' x
/-- Registers of context `x` of core `c` outside the write set `w` (R44) hold what they held: scalars, predicates, parameter
registers, modulus pairs, and the vector registers of the core. -/
def SameRegs (s t : State) (c x : Nat) (w : List RKey) : Prop :=
  let r := ((s.mach.core c).ctx x).regs
  let r' := ((t.mach.core c).ctx x).regs
  (∀ n, RKey.s n ∉ w → r'.rS n = r.rS n) ∧ (∀ n, RKey.p n ∉ w → r'.rP n = r.rP n) ∧
  (∀ n, RKey.a n ∉ w → r'.rA n = r.rA n) ∧ (∀ n, RKey.mk n ∉ w → r'.rM n = r.rM n ∧ r'.rK n = r.rK n) ∧
  ∀ n, RKey.v n ∉ w → Tab.get 0 (t.mach.core c).vpool n = Tab.get 0 (s.mach.core c).vpool n
/-- Of core `c` nothing changes but registers of context `x` and arrivals that wait to be made: accumulators, stages,
scratchpads, queues, barriers, CSRs, counters, engines, the other contexts and the state of this one stand. -/
def OnlyRegs (s t : State) (c x : Nat) : Prop :=
  let k := s.mach.core c
  let k' := t.mach.core c
  k' = { k with ctxs := k'.ctxs, arrivals := k'.arrivals } ∧ (∀ y, y ≠ x → k'.ctx y = k.ctx y) ∧
  k'.ctx x = { k.ctx x with regs := (k'.ctx x).regs }
/-- Every other core, and everything of the module that is no core and no counter of the model's own, stands. -/
def SameElse (s t : State) (c : Nat) : Prop :=
  (∀ d, d ≠ c → t.mach.core d = s.mach.core d) ∧
  t.mach = { s.mach with cores := t.mach.cores, tick := t.mach.tick }

/-! ### The form every step keeps -/

/-- Memory is in its canonical form: addresses strictly rise, and no listed byte or bit equals what an unlisted one reads
as. -/
def State.Inv (s : State) : Prop := s.mem.wf = true

end Sys2Proof.Machine
end

