-- ==== Sys2Proof/Certificates/Slice0/Obligations.lean ====
section
/-! DEFINITION. The statements for the provers. -/
open Sys2Proof Sys2Proof.Machine

/-- In an open bundle at header address h, with its guard true: NOP and an issued WAITB change nothing. BR and CALL with a legal target go on there, CALL leaves h plus the bundle's size in S63; BRX goes on at the register, RET at S63, SWAPI at 8 times the offset in the other half. Nothing else changes. -/
def Obligations.ControlTransfers : Prop :=
  ∀ (s : State) (b : Issue) (g : BitVec 4), Runs s b g →
    exec (.nop g) s = .next s.idle ∧
    (∀ n, exec (.waitb g n) s = .next s.idle) ∧
    (∀ off a, nearTarget b.h.toNat off.toInt = some a → exec (.br g off) s = .next (s.goesOn b a)) ∧
    (∀ off a, nearTarget b.h.toNat off.toInt = some a →
      exec (.call g off) s = .next (s.did (fun k =>
        { k.upd b.ctx (fun c => c.onRegs (fun r => r.wS 63 (BitVec.ofNat 64 (b.h.toNat + b.size)))) with
          issue := some { b with next := BitVec.ofNat 64 a } }))) ∧
    (∀ n, exec (.brx g n) s = .next (s.goesOn b (b.pre.rS n.toNat).toNat)) ∧
    exec (.ret g) s = .next (s.goesOn b (b.pre.rS 63).toNat) ∧
    (∀ off : BitVec 14, exec (.swapi g off) s =
      .next (s.goesOn b ((if b.h.toNat < 0x20000 then 0x20000 else 0) + 8 * off.toNat)))

/-- LOOP with a count of zero goes on after the bundle at the loop's last address; with another count it writes BEG, FIN and CNT of level LDEPTH and raises LDEPTH. LEND lowers CNT of the innermost level and goes back to BEG, or, at zero, lowers LDEPTH. LDEPTH, CNT and BEG are read as they stood before the bundle. Nothing else changes. -/
def Obligations.LoopAndLend : Prop :=
  ∀ (s : State) (b : Issue) (g : BitVec 4), Runs s b g →
    (∀ (off : BitVec 13) (n : BitVec 6),
      let fin := b.h.toNat + 8 * off.toNat
      let d := b.ldepth
      (b.pre.rS n.toNat = 0 → exec (.loop g off n) s = .next (s.goesOn b (fin + s.here.bundleSize fin))) ∧
      (b.pre.rS n.toNat ≠ 0 → exec (.loop g off n) s = .next (s.did (fun k => k.upd b.ctx (fun c =>
        ((((c.wC (0x49 + 3 * d) (BitVec.ofNat 64 (b.h.toNat + b.size))).wC (0x4A + 3 * d) (BitVec.ofNat 64 fin)).wC
          (0x4B + 3 * d) (b.pre.rS n.toNat)).wC 0x48 (BitVec.ofNat 64 ((d + 1) % 4)))))))) ∧
    (let d := b.ldepth - 1
     let n := b.rC (0x4B + 3 * d) - 1
     (n ≠ 0 → exec (.lend g) s = .next (s.did (fun k =>
        { k.upd b.ctx (fun c => c.wC (0x4B + 3 * d) n) with
          issue := some { b with next := BitVec.ofNat 64 (b.rC (0x49 + 3 * d)).toNat } }))) ∧
     (n = 0 → exec (.lend g) s = .next (s.did (fun k =>
        (k.upd b.ctx (fun c => c.wC (0x4B + 3 * d) n)).upd b.ctx (fun c => c.wC 0x48 (BitVec.ofNat 64 (d % 4)))))))

/-- With an idle target other than the spawning context, a legal offset and the spawning context holding the issue unit, SPAWN answers a next state in which the target is READY with pc at the target address, LDEPTH 0, S8 to S15 as the spawner had them before the bundle and every other scalar as it was, and waits for the accesses issued before the bundle; the other contexts, their queues and all memory stand. -/
def Obligations.SpawnStartsContext : Prop :=
  ∀ (s : State) (b : Issue) (g : BitVec 4) (off : BitVec 17) (t : BitVec 2) (a : Nat), Runs s b g →
    t.toNat ≠ b.ctx → s.here.selected = some b.ctx → (s.here.ctx b.ctx).st = .issuing →
    nearTarget b.h.toNat off.toInt = some a →
    ∃ s', exec (.spawn g off t) s = .next s' ∧
      (s'.here.ctx t.toNat).st = .ready ∧ (s'.here.ctx t.toNat).pc = BitVec.ofNat 64 a ∧
      (s'.here.ctx t.toNat).ldepth = 0 ∧ (s'.here.ctx t.toNat).hold = some (b.ctx, b.seq) ∧
      (∀ n, (s'.here.ctx t.toNat).regs.rS n = if 8 ≤ n ∧ n < 16 then b.pre.rS n else (s.here.ctx t.toNat).regs.rS n) ∧
      (∀ n, (s'.here.ctx t.toNat).regs.rP n = (s.here.ctx t.toNat).regs.rP n) ∧
      (∀ n, (s'.here.ctx t.toNat).queue n = (s.here.ctx t.toNat).queue n) ∧
      (∀ y, y ≠ t.toNat → s'.here.ctx y = s.here.ctx y) ∧ s'.here.selected = s.here.selected ∧ s'.mem = s.mem

/-- HALT and YIELD with another context READY: the first READY one in the order c + 1, c + 2, c + 3 modulo 4 becomes ISSUING and is selected, one penalty is counted (SWITCHPEN), and the yielding context is READY, the halting one HALTING. With none READY a HALT leaves the issue unit without a context, and YIELD changes nothing. -/
def Obligations.HaltAndYield : Prop :=
  ∀ (s : State) (b : Issue) (g : BitVec 4), Runs s b g → s.here.selected = some b.ctx → b.ctx < 4 →
    (∀ y, s.here.nextReady b.ctx = some y → y ≠ b.ctx ∧ (s.here.ctx y).st = .ready ∧
      (∃ t, exec (.halt g) s = .next t ∧ (t.here.ctx b.ctx).st = .halting ∧ (t.here.ctx y).st = .issuing ∧
        t.here.selected = some y ∧ t.here.rC 0x51 = s.here.rC 0x51 + 1 ∧
        (∀ z, z ≠ y → z ≠ b.ctx → t.here.ctx z = s.here.ctx z) ∧ t.mem = s.mem) ∧
      ∃ t, exec (.yield g) s = .next t ∧ (t.here.ctx b.ctx).st = .ready ∧ (t.here.ctx y).st = .issuing ∧
        t.here.selected = some y ∧ t.here.rC 0x51 = s.here.rC 0x51 + 1 ∧
        (∀ z, z ≠ y → z ≠ b.ctx → t.here.ctx z = s.here.ctx z) ∧ t.mem = s.mem) ∧
    (s.here.nextReady b.ctx = none →
      (∃ t, exec (.halt g) s = .next t ∧ (t.here.ctx b.ctx).st = .halting ∧ t.here.selected = none ∧
        (∀ z, z ≠ b.ctx → t.here.ctx z = s.here.ctx z) ∧ t.mem = s.mem) ∧
      exec (.yield g) s = .next (s.did id))

/-- DBAR notes its level, not yet arrived. FENCE, at whichever scope, holds the context unless every copy of it has landed and every access of it is performed; IFENCE unless every copy of it that writes the instruction scratchpad has landed. A copy parked for its replay (R221), or one that a slot fault took out and ERET will run again, has not landed: log 30 and 32, the model's own clauses. TRAP notes its code, for the bundle's end. Nothing else changes. -/
def Obligations.WaitsBegin : Prop :=
  ∀ (s : State) (b : Issue) (g : BitVec 4), Runs s b g →
    (∀ lvl : BitVec 3, exec (.dbar g lvl) s =
      .next (s.did (fun k => k.upd b.ctx (fun c => { c with dbar := some ⟨lvl.toNat, false⟩ })))) ∧
    (∀ sc : BitVec 3, exec (.fence g sc) s = .next (s.did (fun k =>
      if (!k.copiesOf b.ctx (fun _ => true) && !k.parkedOf b.ctx (fun _ => true) &&
        !k.owes b.ctx (fun f => decide (partNo f.i = 6)) && k.accessesDone b.ctx) = true then k
      else k.upd b.ctx (fun c => { c with fence := some sc.toNat })))) ∧
    exec (.ifence g) s = .next (s.did (fun k =>
      if (!k.copiesOf b.ctx (fun c => c.fl.isCode) && !k.parkedOf b.ctx (fun c => c.fl.isCode) &&
        !k.owes b.ctx (fun f => decide (partNo f.i = 6) && f.isCode)) = true then k
      else k.upd b.ctx (fun c => { c with ifence := true }))) ∧
    ∀ code : BitVec 8, exec (.trap g code) s =
      .next (s.did (fun k => { k with issue := some { b with swtrap := some code.toNat } }))

/-- At INT64 or INT32, with x and y the low w bits of the operands as they stood before the bundle: without .sat, ADD, SUB, MUL, MULHS, MULHU, AND, OR, XOR, ANDN, SHL, SHRL, SHRA, MIN, MAX, MINU, MAXU, MOV, SEL, CLZ and POPC leave the value of their row, sign-extended to 64 bits, in DST; with .sat, ADD, SUB and MUL leave the exact sum, difference or product of the signed readings clamped to −2^(w−1) … 2^(w−1) − 1, sign-extended. Each retires and changes nothing else. S0 takes no write. -/
def Obligations.IntegerResults : Prop :=
  ∀ (s : State) (b : Issue) (p : Part) (w : Nat), Runs s b p.guard →
    (p.cw.etype = 5 ∧ w = 64) ∨ (p.cw.etype = 4 ∧ w = 32) →
      let d := dstReg p.cw.dst
      let x : BitVec w := (s.arg b p p.cw.src1).setWidth w
      let y : BitVec w := (s.arg b p p.cw.src2).setWidth w
      let clamp : Int → BitVec 64 := fun t => BitVec.ofInt 64 (max (-2 ^ (w - 1)) (min t (2 ^ (w - 1) - 1)))
      (p.cw.sat = 0 →
      exec (.add p) s = .next (s.wrote (.add p) b d ((x + y : BitVec w).signExtend 64)) ∧
      exec (.sub p) s = .next (s.wrote (.sub p) b d ((x - y : BitVec w).signExtend 64)) ∧
      exec (.mul p) s = .next (s.wrote (.mul p) b d ((x * y : BitVec w).signExtend 64)) ∧
      exec (.mulhs p) s = .next (s.wrote (.mulhs p) b d ((((x.signExtend (2 * w) * y.signExtend (2 * w)) >>> w).setWidth w : BitVec w).signExtend 64)) ∧
      exec (.mulhu p) s = .next (s.wrote (.mulhu p) b d ((((x.setWidth (2 * w) * y.setWidth (2 * w)) >>> w).setWidth w : BitVec w).signExtend 64)) ∧
      exec (.and p) s = .next (s.wrote (.and p) b d ((x &&& y : BitVec w).signExtend 64)) ∧
      exec (.or p) s = .next (s.wrote (.or p) b d ((x ||| y : BitVec w).signExtend 64)) ∧
      exec (.xor p) s = .next (s.wrote (.xor p) b d ((x ^^^ y : BitVec w).signExtend 64)) ∧
      exec (.andn p) s = .next (s.wrote (.andn p) b d ((x &&& ~~~y : BitVec w).signExtend 64)) ∧
      exec (.shl p) s = .next (s.wrote (.shl p) b d ((x <<< (y.toNat % w) : BitVec w).signExtend 64)) ∧
      exec (.shrl p) s = .next (s.wrote (.shrl p) b d ((x >>> (y.toNat % w) : BitVec w).signExtend 64)) ∧
      exec (.shra p) s = .next (s.wrote (.shra p) b d ((x.sshiftRight (y.toNat % w) : BitVec w).signExtend 64)) ∧
      exec (.min p) s = .next (s.wrote (.min p) b d ((if x.slt y then x else y : BitVec w).signExtend 64)) ∧
      exec (.max p) s = .next (s.wrote (.max p) b d ((if x.slt y then y else x : BitVec w).signExtend 64)) ∧
      exec (.minu p) s = .next (s.wrote (.minu p) b d ((if x.ult y then x else y : BitVec w).signExtend 64)) ∧
      exec (.maxu p) s = .next (s.wrote (.maxu p) b d ((if x.ult y then y else x : BitVec w).signExtend 64)) ∧
      exec (.mov p) s = .next (s.wrote (.mov p) b d ((x : BitVec w).signExtend 64)) ∧
      exec (.sel p) s = .next (s.wrote (.sel p) b d ((if b.pre.rP (p.cw.aux.toNat % 16) then x else y : BitVec w).signExtend 64)) ∧
      exec (.clz p) s = .next (s.wrote (.clz p) b d ((x.clz : BitVec w).signExtend 64)) ∧
      exec (.popc p) s = .next (s.wrote (.popc p) b d ((x.cpop : BitVec w).signExtend 64))) ∧
      (p.cw.sat = 1 →
      exec (.add p) s = .next (s.wrote (.add p) b d (clamp (x.toInt + y.toInt))) ∧
      exec (.sub p) s = .next (s.wrote (.sub p) b d (clamp (x.toInt - y.toInt))) ∧
      exec (.mul p) s = .next (s.wrote (.mul p) b d (clamp (x.toInt * y.toInt))))

/-- With pos bits 5:0 and len bits 14:8 of the describing word, cut off at bit w − 1: BFX leaves the field of a, signed or not as AUX[0] says; every bit of BFI's result is bit i − pos of b inside the field and bit i of a outside it; both sign-extended from w bits. -/
def Obligations.BitFieldResults : Prop :=
  ∀ (s : State) (b : Issue) (p : Part) (w : Nat), Runs s b p.guard →
    (p.cw.etype = 5 ∧ w = 64) ∨ (p.cw.etype = 4 ∧ w = 32) → p.cw.sat = 0 →
      let d := dstReg p.cw.dst
      let x : BitVec w := (s.arg b p p.cw.src1).setWidth w
      let y : BitVec w := (s.arg b p p.cw.src2).setWidth w
      let pos := fun (f : BitVec 64) => f.toNat % 64
      let len := fun (f : BitVec 64) => min (f.toNat / 256 % 128) (w - pos f)
      (let f := (s.arg b p p.cw.src2).setWidth w |>.setWidth 64
       let v : BitVec (len f) := (x >>> pos f).setWidth (len f)
       exec (.bfx p) s = .next (s.wrote (.bfx p) b d
         ((if p.cw.aux.getLsbD 0 then v.signExtend w else v.setWidth w : BitVec w).signExtend 64))) ∧
      (let f := s.arg b p p.cw.src3
       ∃ v : BitVec w, exec (.bfi p) s = .next (s.wrote (.bfi p) b d (v.signExtend 64)) ∧
         ∀ i, i < w → v.getLsbD i = if pos f ≤ i ∧ i < pos f + len f then y.getLsbD (i - pos f) else x.getLsbD i)

/-- A division takes the core's divider and changes nothing else. When it completes, quotient or remainder of the w-bit operands, with the values the rule gives for a zero divisor, stands sign-extended in DST; the divider is free, the part has retired and the context goes on if nothing else holds it. -/
def Obligations.DivisionHoldsAndCompletes : Prop :=
  (∀ (s : State) (b : Issue) (p : Part), Runs s b p.guard →
    ∀ i ∈ [Instr.divs p, .divu p, .rems p, .remu p],
      exec i s = .next (s.did (fun k => { k with divider := some ⟨i, b⟩ }))) ∧
  ∀ (s : State) (c : Nat) (b : Issue) (p : Part) (w : Nat), c < 640 →
    (p.cw.etype = 5 ∧ w = 64) ∨ (p.cw.etype = 4 ∧ w = 32) →
      let k := s.mach.core c
      let arg := fun (d : Desc) => (scalarOp b.pre (k.ctx b.ctx).cbank p.cw d).setWidth w
      let x : BitVec w := arg p.cw.src1
      let y : BitVec w := arg p.cw.src2
      ∀ i v, (i, v) ∈ [(Instr.divs p, if y = 0 then BitVec.allOnes w else x.sdiv y),
          (.divu p, if y = 0 then BitVec.allOnes w else x / y), (.rems p, x.srem y), (.remu p, x % y)] →
        k.divider = some ⟨i, b⟩ →
        exec (.dividerComplete c) s = .next (((s.onCore c (fun k =>
          (({ k with divider := none } : Core).upd b.ctx (fun t => t.onRegs (fun r => r.wS (dstReg p.cw.dst) (v.signExtend 64)))).retire
            ⟨i, b⟩)).settle c b.ctx).idle)

/-- The compare of the low w bits of the operands, or its AND or OR with the predicate's value before the bundle as COMB says, stands in PDST. With x and y the predicates AUX[7:4] and AUX[3:0] as they stood before the bundle, PAND, POR, PXOR, PANDN and PMOV leave their combination in PDST. Nothing else changes. P0 takes no write. -/
def Obligations.CompareAndPredicateResults : Prop :=
  (∀ (s : State) (b : Issue) (p : Part) (w : Nat), Runs s b p.guard →
    (p.cw.etype = 5 ∧ w = 64) ∨ (p.cw.etype = 4 ∧ w = 32) →
      let n := p.cw.pdst.toNat
      let x : BitVec w := (s.arg b p p.cw.src1).setWidth w
      let y : BitVec w := (s.arg b p p.cw.src2).setWidth w
      let comb := fun (t : Bool) =>
        if p.cw.aux.toNat % 4 = 1 then t && b.pre.rP n else if p.cw.aux.toNat % 4 = 2 then t || b.pre.rP n else t
      exec (.cmpeq p) s = .next (s.marked (.cmpeq p) b n (comb (x == y))) ∧
      exec (.cmpne p) s = .next (s.marked (.cmpne p) b n (comb (x != y))) ∧
      exec (.cmplt p) s = .next (s.marked (.cmplt p) b n (comb (x.slt y))) ∧
      exec (.cmpltu p) s = .next (s.marked (.cmpltu p) b n (comb (x.ult y))) ∧
      exec (.cmple p) s = .next (s.marked (.cmple p) b n (comb (x.sle y))) ∧
      exec (.cmpleu p) s = .next (s.marked (.cmpleu p) b n (comb (x.ule y)))) ∧
  ∀ (s : State) (b : Issue) (p : Part), Runs s b p.guard →
      let n := p.cw.pdst.toNat
      let x := b.pre.rP (p.cw.aux.toNat / 16)
      let y := b.pre.rP (p.cw.aux.toNat % 16)
      exec (.pand p) s = .next (s.marked (.pand p) b n (x && y)) ∧
      exec (.por p) s = .next (s.marked (.por p) b n (x || y)) ∧
      exec (.pxor p) s = .next (s.marked (.pxor p) b n (x != y)) ∧
      exec (.pandn p) s = .next (s.marked (.pandn p) b n (x && !y)) ∧
      exec (.pmov p) s = .next (s.marked (.pmov p) b n (x))

/-- LEA leaves a + b × 2^sh + c modulo 2^64 in DST, a left-out c being 0; ASET writes parameter register N; AGET leaves register N, as it stood before the bundle, in DST. Nothing else changes. -/
def Obligations.LeaAsetAget : Prop :=
  ∀ (s : State) (b : Issue) (p : Part), Runs s b p.guard →
      exec (.lea p) s = .next (s.wrote (.lea p) b (dstReg p.cw.dst)
        (s.arg b p p.cw.src1 + s.arg b p p.cw.src2 * BitVec.ofNat 64 (2 ^ (p.cw.aux.toNat % 8)) + s.arg b p p.cw.src3)) ∧
      exec (.aset p) s = .next (s.did (fun k => (k.upd b.ctx (fun c => c.onRegs (fun r =>
        r.wA (p.cw.aux.toNat % 8) (s.arg b p p.cw.src1)))).retire ⟨.aset p, b⟩)) ∧
      exec (.aget p) s = .next (s.wrote (.aget p) b (dstReg p.cw.dst) (b.pre.rA (p.cw.aux.toNat % 8)))

/-- A write to S0 or P0 changes no register; every other scalar and predicate reads back what was written, and a write leaves the others alone. -/
def Obligations.HardwiredRegisters : Prop :=
  ∀ (r : Regs) (n m : Nat) (v : W64) (t : Bool),
    (r.wS 0 v = r ∧ r.rS 0 = 0 ∧ r.wP 0 t = r ∧ r.rP 0 = true) ∧
    (n ≠ 0 → (r.wS n v).rS n = v ∧ (n < 16 → (r.wP n t).rP n = t)) ∧
    (m ≠ n → (r.wS n v).rS m = r.rS m ∧ (n < 16 → (r.wP n t).rP m = r.rP m))

/-- With old the value of the CSR before the bundle, CSRR leaves old in DST; CSRW offers the operand, CSRSET old or it, CSRCLR old without its bits, to the register under its access rules, and leaves old in DST. The part then retires; nothing else changes. -/
def Obligations.CsrInstructions : Prop :=
  ∀ (s : State) (b : Issue) (p : Part), Runs s b p.guard →
    let n := p.cw.aux.toNat
    let old := csrBefore s.mach s.mach.focusCore b n
    let a := s.arg b p p.cw.src1
    let then' := fun (i : Instr) (w1c : Bool) (v : W64) => s.did (fun k =>
      ((csrWrite b.ctx n w1c v k).upd b.ctx (fun c => c.onRegs (fun r => r.wS (dstReg p.cw.dst) old))).retire ⟨i, b⟩)
    exec (.csrr p) s = .next (s.wrote (.csrr p) b (dstReg p.cw.dst) old) ∧
    exec (.csrw p) s = .next (then' (.csrw p) true a) ∧
    exec (.csrset p) s = .next (then' (.csrset p) false (old ||| a)) ∧
    exec (.csrclr p) s = .next (then' (.csrclr p) false (old &&& ~~~a))

/-- After a write of v to CSR n of a context, n reads v in its RW bits and its old value elsewhere. LOOPST changes only to a lower depth; writing 1 to PEND of GUARDST clears PEND and COUNT; writing 1 to bits of ESLOTS clears them, by CSRW alone; EPC stands while ESLOTS is not zero; BARPOOL takes LOW. Every other CSR reads as before, but for SLOTENT after a write of SLOTIDX. -/
def Obligations.CsrAccessRules : Prop :=
  ∀ (m : Mach) (c x n : Nat) (w1c : Bool) (v : W64), n < 256 →
    let m' := m.upd c (csrWrite x n w1c v)
    let old := csrRead m c x n
    (n ≠ 0x48 → n ≠ 0x78 → n ≠ 0xF5 → n ≠ 0xB1 → (n = 0xF3 → csrRead m c x 0xF5 = 0) →
      csrRead m' c x n = (v &&& BitVec.ofNat 64 (csrRwMask n)) ||| (old &&& ~~~BitVec.ofNat 64 (csrRwMask n))) ∧
    (n = 0x48 → csrRead m' c x n = if v.toNat % 4 < old.toNat % 4 then BitVec.ofNat 64 (v.toNat % 4) else old) ∧
    (n = 0x78 → csrRead m' c x n =
      if w1c ∧ v.getLsbD 20 = true then old &&& ~~~(0x0000FFFF00100000 : W64) else old) ∧
    (n = 0xF5 → csrRead m' c x n = if w1c then old &&& ~~~(v &&& 0x7F) else old) ∧
    (n = 0xF3 → csrRead m c x 0xF5 ≠ 0 → csrRead m' c x n = old) ∧
    (n = 0xB1 → csrRead m' c x n = (old &&& ~~~(0x7F00 : W64)) ||| (v &&& (0x7F00 : W64))) ∧
    (∀ j, j ≠ n → (n = 0xD8 → j ≠ 0xD9) → csrRead m' c x j = csrRead m c x j)

/-- LD joins the loads under way, asks the ports its bytes lie beyond for their units, and changes nothing else. When the oldest load of a context has a translation for reading, nothing holds it back (an earlier access of the context to these bytes, an earlier acquire, a home that does not serve, a port that has not moved its units), and the line carries no poison, the step reads all its bytes and, where no plain write under way races them, writes the value: sign-extended for INT8, INT16 and INT32 without ZX, else zero-extended. No other register of the context, no other core and no memory changes. The model's own clauses: that the units are asked for at issue (R211, R256: log 19) and that all bytes are read at one step (log 9). -/
def Obligations.LoadsIssueAndReturn : Prop :=
  (∀ (s : State) (b : Issue) (p : Part), Runs s b p.guard →
    let c := s.mach.focusCore
    let va := accessAddr b.pre (s.here.ctx b.ctx).cbank 0x40 p
    exec (.ld p) s = .next (s.mechs { s.mach.upd c (fun k => { k with loads := k.loads ++ [⟨.ld p, b⟩] }) with
      portReqs := s.mach.portReqs ++ portNeeds s c b.asid (scalarHolder c) b.seq false (.read 0) [(va, accessSize p)] })) ∧
  ∀ (s : State) (c x : Nat) (b : Issue) (p : Part) (sp ad : Nat) (sa : Bool), c < 640 → x < 4 →
    let k := s.mach.core c
    let n := accessSize p
    let ea := accessAddr b.pre (k.ctx b.ctx).cbank 0x40 p
    k.loads.find? (fun f => f.iss.ctx == x) = some ⟨.ld p, b⟩ → translate s (agentOf c) b.asid ea accRead = .ok sp ad sa →
    accessHeld s c b sp ad n = false → s.mem.poisoned sp ad = false → uliLost s.mach c sp = false →
    ∃ t, exec (.loadComplete c x) s = .next t ∧
      (races (s.racers c b false) sp ad n = false → ((t.mach.core c).ctx x).regs.rS (dstReg p.cw.dst) =
        if dstReg p.cw.dst = 0 then 0
        else if (p.cw.etype = 1 ∨ p.cw.etype = 3 ∨ p.cw.etype = 4) ∧ p.cw.aux.getLsbD 0 = false then
          (BitVec.ofNat (8 * n) (s.mem.read sp ad n)).signExtend 64
        else BitVec.ofNat 64 (s.mem.read sp ad n)) ∧
      (t.mach.core c).loads = k.loads.erase ⟨.ld p, b⟩ ∧
      SameRegs s t c x [.s (dstReg p.cw.dst)] ∧ (∀ d, d ≠ c → t.mach.core d = s.mach.core d) ∧ SameMemory s t

/-- ST joins the posted stores with its address, size and value, and asks the ports its bytes lie beyond for their units. When its page has a translation for writing and nothing holds it back (an earlier access of the context to these bytes, an earlier acquire, a home that does not serve, a port that has not moved its units), the step writes exactly the n bytes there with the low 8n bits of the value; the store leaves the list; every other byte and, for a partial line, every poison bit stands. The model's own clauses: that the units are asked for at issue (R211, R256: log 19) and that all bytes are written at one step (log 9). -/
def Obligations.StoresIssueAndPerform : Prop :=
  (∀ (s : State) (b : Issue) (p : Part), Runs s b p.guard →
    let c := s.mach.focusCore
    let va := accessAddr b.pre (s.here.ctx b.ctx).cbank 0x41 p
    exec (.st p) s = .next (s.mechs { s.mach.upd c (fun k => { k with stores := k.stores ++
        [⟨⟨.st p, b⟩, va, accessSize p, (s.arg b p p.cw.src3).toNat⟩] }) with
      portReqs := s.mach.portReqs ++ portNeeds s c b.asid (scalarHolder c) b.seq false (.read 0) [(va, accessSize p)] })) ∧
  ∀ (s : State) (c idx : Nat) (q : PStore) (sp ad : Nat) (sa : Bool), c < 640 →
    let k := s.mach.core c
    k.stores[idx]? = some q → q.n < 64 → translate s (agentOf c) q.fl.iss.asid q.va accWrite = .ok sp ad sa →
    uliLost s.mach c sp = false → accessHeld s c q.fl.iss sp ad q.n = false →
    storeTarget c idx s = some (sp, ad, q.n) ∧
    ∃ t, exec (.storePerform c idx) s = .next t ∧ t.mem.read sp ad q.n = q.val % 2 ^ (8 * q.n) ∧ SameBut s t sp ad q.n ∧
      (∀ sp' a, t.mem.poisoned sp' a = s.mem.poisoned sp' a) ∧ (t.mach.core c).stores = dropNth k.stores idx ∧
      SameRegs s t c q.fl.iss.ctx [] ∧ ∀ d, d ≠ c → t.mach.core d = s.mach.core d

/-- LDSP joins the loads under way. When it is the oldest load of its context, after every acquire before it, the step leaves the n bytes at its address, sign- or zero-extended, in DST, unless a granule with an uncorrectable error is met, which is a slot fault of the part. STSP stores the low bytes of its value. Both note a flagged access in GUARDST and count their wait for the bank. Where an operation on a position of the bytes is under way, an append on its way to it among them, what LDSP reads and STSP leaves is free (log 6), the model's own clause. A stored run of bytes reads back, and every other byte of the scratchpad, every lap tag and every queue position stands. -/
def Obligations.ScratchpadAccesses : Prop :=
  (∀ (s : State) (b : Issue) (p : Part), Runs s b p.guard →
    let n := accessSize p
    let al := accessAddr b.pre (s.here.ctx b.ctx).cbank 0x42 p
    let a := accessAddr b.pre (s.here.ctx b.ctx).cbank 0x43 p
    exec (.ldsp p) s = .next (s.did (fun k =>
      let k' := (k.noteGuard b.ctx al n false).bankWait
      { k' with loads := k'.loads ++ [⟨.ldsp p, b⟩] })) ∧
    (s.mach.racing s.mach.focusCore a n = false → exec (.stsp p) s = .next (s.did (fun k =>
      (((k.bankWait).noteGuard b.ctx a n true).spStore a (leBytes (s.arg b p p.cw.src3).toNat n)).retire ⟨.stsp p, b⟩))) ∧
    (s.mach.racing s.mach.focusCore a n = true → exec (.stsp p) s = .next (s.did (fun k =>
      ({ (((k.bankWait).noteGuard b.ctx a n true).spStore a (leBytes (Config.freeWord s.mach.tick).toNat n)) with
        raced := (a, n, s.mach.tick) :: k.raced } : Core).retire ⟨.stsp p, b⟩)))) ∧
  (∀ (s : State) (c x : Nat) (b : Issue) (p : Part), c < 640 → x < 4 →
    let k := s.mach.core c
    let n := accessSize p
    let a := accessAddr b.pre (k.ctx b.ctx).cbank 0x42 p
    let v := leNat (k.spBytes a n)
    k.loads.find? (fun f => f.iss.ctx == x) = some ⟨.ldsp p, b⟩ → k.acquiring b = false →
    (∀ g, k.badGranule a n = some g → exec (.loadComplete c x) s = .next (s.mechs
      ((s.mach.upd c (fun k => { k with loads := k.loads.erase ⟨.ldsp p, b⟩ }.faultPart c ⟨.ldsp p, b⟩ ⟨0x14, 1, true, 7 * 2 ^ 16, g⟩)).dropPorts
        (scalarHolder c) b.seq))) ∧
    (k.badGranule a n = none → ∃ t, exec (.loadComplete c x) s = .next t ∧ t.mem = s.mem ∧
      (t.mach.core c).loads = k.loads.erase ⟨.ldsp p, b⟩ ∧ SameRegs s t c x [.s (dstReg p.cw.dst)] ∧
      (∀ d, d ≠ c → t.mach.core d = s.mach.core d) ∧
      (s.mach.racing c a n = false → ((t.mach.core c).ctx x).regs.rS (dstReg p.cw.dst) =
        if dstReg p.cw.dst = 0 then 0
        else if (p.cw.etype = 1 ∨ p.cw.etype = 3 ∨ p.cw.etype = 4) ∧ p.cw.aux.getLsbD 0 = false then
          (BitVec.ofNat (8 * n) v).signExtend 64 else BitVec.ofNat 64 v))) ∧
  ∀ (k : Core) (a n : Nat) (bs : List Byte) (j : Nat),
    let k' := k.spStore a bs
    k'.spBytes j 1 = (if a ≤ j ∧ j < a + bs.length then [bs.getD (j - a) 0] else k.spBytes j 1) ∧
    k'.lap = k.lap ∧ k'.ctxs = k.ctxs ∧ (k'.spBytes a n).length = n

/-- In an open bundle each of AMOADD to AMOST joins the atomics under way, with a note whether it falls in a reduction window, and raises AMOISS by one; it asks the ports its bytes lie beyond for their units, and, where the switches merge it on its way to a home on this device, a fabric port for one (R256, R332: log 19, the model's own clause); nothing else changes. When the oldest atomic of a context, AMOADD to AMOMAXU, falls in a reduction window and nothing holds it back, the step hands one contribution with its opcode, width and value to the switches and changes no memory and no register; the atomic stays under way until the home accepts the contribution, which R332 says of home merge and log 38 takes for both paths. -/
def Obligations.AtomicsIssueAndMerge : Prop :=
  (∀ (s : State) (b : Issue) (p : Part), Runs s b p.guard →
    ∀ i opc, (i, opc) ∈ [(Instr.amoadd p, 0x60), (.amoand p, 0x61), (.amoor p, 0x62), (.amoxor p, 0x63), (.amomin p, 0x64), (.amomax p, 0x65), (.amominu p, 0x66), (.amomaxu p, 0x67), (.amoswap p, 0x68), (.amocas p, 0x69), (.amold p, 0x6A), (.amost p, 0x6B)] →
      let c := s.mach.focusCore
      let n := accessSize p
      let va := accessAddr b.pre (s.here.ctx b.ctx).cbank opc p
      let win := s.mach.window b.asid va opc n
      ∃ t more, exec i s = .next t ∧ t.mem = s.mem ∧
        t.here = Core.inc { s.here with atomics := s.here.atomics ++ [⟨i, { b with win := win.isSome }⟩] } 0xC0 1 ∧
        (∀ d, d ≠ c → t.mach.core d = s.mach.core d) ∧
        t.mach = { s.mach with cores := t.mach.cores, portReqs := t.mach.portReqs, tick := t.mach.tick } ∧
        t.mach.portReqs = s.mach.portReqs ++ portNeeds s c b.asid (scalarHolder c) b.seq false (.read 0) [(va, n)] ++ more ∧
        (win = none → more = []) ∧
        (∀ w ad sa, win = some w → translate s (agentOf c) b.asid va accRead = .ok 0 ad sa →
          more = if (s.mach.redwin w 0).getLsbD 4 then []
            else ((s.mach.fabricPort (c / 160) s.mach.deviceNo).map
              (fun f => (⟨c / 160, 13 + f, b.asid, 1, scalarHolder c, b.seq⟩ : PortReq))).toList)) ∧
  ∀ (s : State) (core x : Nat) (b : Issue) (p : Part) (w sp ad : Nat) (sa : Bool), core < 640 → x < 4 →
    ∀ i opc, (i, opc) ∈ [(Instr.amoadd p, 0x60), (.amoand p, 0x61), (.amoor p, 0x62), (.amoxor p, 0x63), (.amomin p, 0x64), (.amomax p, 0x65), (.amominu p, 0x66), (.amomaxu p, 0x67)] →
    let n := accessSize p
    let k := s.mach.core core
    let ea := accessAddr b.pre (k.ctx b.ctx).cbank opc p
    k.atomics.find? (fun f => f.iss.ctx == x) = some ⟨i, b⟩ →
    translate s (agentOf core) b.asid ea accAtomic = .ok sp ad sa →
    s.mach.sent core ⟨i, b⟩ = false → releaseHeld k ⟨i, b⟩ p.cw.aux.toNat = false →
    accessHeld s core b sp ad n = false → s.mach.window b.asid ea opc n = some w →
    uliLost s.mach core (if mergeLeaves s.mach w sp then 1 else 0) = false →
    ∃ t con, exec (.atomicComplete core x) s = .next t ∧ t.mem = s.mem ∧
      t.mach.contribs = s.mach.contribs ++ [con] ∧ con.win = w ∧ con.opc = opc - 0x60 ∧ con.len = n ∧ con.space = sp ∧ con.addr = ad ∧
      con.val = BitVec.ofNat 64 (k.pairOpnd b p p.cw.src3) ∧ con.dev = s.mach.deviceNo ∧ con.core = core ∧ con.ctx = x ∧
      con.seq = some b.seq ∧ (t.mach.core core).atomics = k.atomics ∧ (t.mach.core core).rC 0xC3 = k.rC 0xC3 + 1 ∧
      SameRegs s t core x []

/-- When the oldest atomic of a context is performed at its home, the n bytes there hold the new value of its row from the old value o and the operands c and e at width 8n; S[DST], or the pair for 16 bytes, holds o (sign-extended for 4 bytes) except for AMOST; PDST of AMOCAS holds whether o was e. AMOLD writes nothing. No other byte and no other register changes. Where a plain write under way races it, the old value is free (R231: log 9), which the statement leaves out. -/
def Obligations.AtomicsPerform : Prop :=
  ∀ (s : State) (core x : Nat) (b : Issue) (p : Part) (w sp ad : Nat) (sa : Bool) (v : BitVec w), core < 640 → x < 4 →
    let n := accessSize p
    w = 8 * n →
    let k := s.mach.core core
    let o := BitVec.ofNat w (s.mem.read sp ad n)
    let c := BitVec.ofNat w (k.pairOpnd b p p.cw.src3)
    let e := BitVec.ofNat w (k.pairOpnd b p p.cw.src2)
    let d := dstReg p.cw.dst
    ∀ i opc, (i, opc, v) ∈ [(Instr.amoadd p, 0x60, o + c), (.amoand p, 0x61, o &&& c), (.amoor p, 0x62, o ||| c), (.amoxor p, 0x63, o ^^^ c), (.amomin p, 0x64, if o.slt c then o else c), (.amomax p, 0x65, if o.slt c then c else o), (.amominu p, 0x66, if o.ult c then o else c), (.amomaxu p, 0x67, if o.ult c then c else o), (.amoswap p, 0x68, c), (.amocas p, 0x69, if o = e then c else o), (.amold p, 0x6A, o), (.amost p, 0x6B, c)] →
    let ea := accessAddr b.pre (k.ctx b.ctx).cbank opc p
    k.atomics.find? (fun f => f.iss.ctx == x) = some ⟨i, b⟩ →
    translate s (agentOf core) b.asid ea (if opc = 0x6A then accAmold else accAtomic) = .ok sp ad sa →
    s.mach.sent core ⟨i, b⟩ = false → releaseHeld k ⟨i, b⟩ p.cw.aux.toNat = false →
    accessHeld s core b sp ad n = false → s.mach.window b.asid ea opc n = none →
    s.mem.poisoned sp ad = false → uliLost s.mach core sp = false → races (s.racers core b false) sp ad n = false →
    ∃ t, exec (.atomicComplete core x) s = .next t ∧ t.mem.read sp ad n = v.toNat ∧ SameBut s t sp ad n ∧
      (let r := ((t.mach.core core).ctx x).regs
       (opc ≠ 0x6B → d ≠ 0 → r.rS d = (if n = 4 then o.signExtend 64 else o.setWidth 64)) ∧
       (opc ≠ 0x6B → d ≠ 0 → n = 16 → r.rS (d + 1) = (o >>> 64).setWidth 64) ∧
       (opc = 0x69 → p.cw.pdst ≠ 0 → r.rP p.cw.pdst.toNat = decide (o = e))) ∧
      SameRegs s t core x ((if opc = 0x6B ∨ d = 0 then [] else if n = 16 then [.s d, .s (d + 1)] else [.s d]) ++
        (if opc = 0x69 then [.p p.cw.pdst.toNat] else [])) ∧
      ∀ y, y ≠ core → t.mach.core y = s.mach.core y

/-- With n the lowest barrier not ALLOC, BARALLOC leaves it ALLOC with REFCNT 1 and EPOCH 0 and all else zero but its generation, and DST holds the handle: number n, its generation, bit 22 set, WEPOCH 1; that handle is valid afterwards, and PDST is true. With every barrier taken DST holds 2^63 + 1, PDST false, and no barrier changes. -/
def Obligations.BarrierAllocation : Prop :=
  ∀ (s : State) (b : Issue) (p : Part), Runs s b p.guard →
    let k := s.here
    let d := dstReg p.cw.dst
    (∀ n, n < 64 → (k.bar n).alloc = false → (∀ m, m < n → (k.bar m).alloc = true) → (k.bar n).gen < 65536 →
      let h : W64 := BitVec.ofNat 64 (n + (k.bar n).gen * 2 ^ 6 + 2 ^ 22 + 2 ^ 23)
      ∃ t, exec (.baralloc p) s = .next t ∧ (d ≠ 0 → (t.here.ctx b.ctx).regs.rS d = h) ∧
        (t.here.ctx b.ctx).regs.rP p.cw.pdst.toNat = true ∧
        t.here.bar n = { Barrier.zero with alloc := true, gen := (k.bar n).gen, refcnt := 1 } ∧
        t.here.handle h = some n ∧ (∀ m, m ≠ n → t.here.bar m = k.bar m) ∧
        SameRegs s t s.mach.focusCore b.ctx [.s d, .p p.cw.pdst.toNat] ∧ t.mem = s.mem) ∧
    ((∀ m, m < 64 → (k.bar m).alloc = true) → exec (.baralloc p) s = .next (s.failed (.baralloc p) b p 1))

/-- On a handle that is not valid each fails with BADH. On barrier n of a valid one: BARREF raises REFCNT, unless it is 255 (REFMAX); BARDROP lowers REFCNT; BARINIT arms and zeroes the counts, unless a count is out of range (BADCOUNT); BARTEST leaves the chosen word in DST and Reached in PDST, or takes a slot fault of cause BAROVR in OVERRUN; BARARR declares further bytes, arrives, and returns the EPOCH, unless a count is out of range. Nothing else changes. -/
def Obligations.BarrierInstructions : Prop :=
  ∀ (s : State) (b : Issue) (p : Part), Runs s b p.guard →
    let h := s.arg b p p.cw.src1
    let y := (s.arg b p p.cw.src2).toNat
    let z := (s.arg b p p.cw.src3).toNat
    (s.here.handle h = none →
      exec (.barref p) s = .next (s.failed (.barref p) b p 2) ∧ exec (.bardrop p) s = .next (s.failed (.bardrop p) b p 2) ∧
      exec (.barinit p) s = .next (s.failed (.barinit p) b p 2) ∧ exec (.bartest p) s = .next (s.failed (.bartest p) b p 2) ∧
      exec (.bararr p) s = .next (s.failed (.bararr p) b p 2)) ∧
    ∀ n, s.here.handle h = some n →
      let r := s.here.bar n
      (r.refcnt = 255 → exec (.barref p) s = .next (s.failed (.barref p) b p 3)) ∧
      (r.refcnt ≠ 255 → exec (.barref p) s = .next (s.answered (.barref p) b p
        (fun k => k.setBar n { r with refcnt := r.refcnt + 1 }) (BitVec.ofNat 64 (r.refcnt + 1)) true)) ∧
      exec (.bardrop p) s = .next (s.answered (.bardrop p) b p
        (fun k => k.setBar n { r with refcnt := r.refcnt - 1 }) (BitVec.ofNat 64 (r.refcnt - 1)) true) ∧
      (y > 65535 ∨ z ≥ 2 ^ 48 ∨ (y = 0 ∧ z = 0) → exec (.barinit p) s = .next (s.failed (.barinit p) b p 4)) ∧
      (y ≤ 65535 → z < 2 ^ 48 → ¬ (y = 0 ∧ z = 0) → exec (.barinit p) s = .next (s.answered (.barinit p) b p
        (fun k => k.setBar n { Barrier.zero with alloc := r.alloc, gen := r.gen, epoch := r.epoch, refcnt := r.refcnt,
                                                 armed := true, exparr := y, expb := z }) 0 true)) ∧
      (r.ovr = true → exec (.bartest p) s = .next (s.did (fun k =>
        k.faultPart s.mach.focusCore ⟨.bartest p, b⟩ ⟨0x0D, 1, true, 0, 0⟩))) ∧
      (r.ovr = false → exec (.bartest p) s = .next (s.answered (.bartest p) b p id
        (BitVec.ofNat 64 (match p.cw.aux.toNat % 4 with
          | 0 => r.epoch + b2n r.armed * 2 ^ 16 + b2n r.ovr * 2 ^ 17 + b2n r.fault * 2 ^ 18 + r.arrcnt * 2 ^ 19 +
              r.exparr * 2 ^ 35
          | 1 => r.expb + r.xtrab - r.landb
          | 2 => r.oorcnt + r.vfail * 2 ^ 16 + r.refcnt * 2 ^ 32
          | _ => r.faddr)) (r.reached (fld h 38 23)))) ∧
      (y > 65535 ∨ r.expb + r.xtrab + z > 2 ^ 48 - 1 → exec (.bararr p) s = .next (s.failed (.bararr p) b p 4)) ∧
      (y ≤ 65535 → r.expb + r.xtrab + z ≤ 2 ^ 48 - 1 →
        let r' := Barrier.arrive { r with xtrab := r.xtrab + z } y
        exec (.bararr p) s = .next (s.answered (.bararr p) b p
          (fun k => k.onBar n (fun _ => r')) (BitVec.ofNat 64 r'.epoch) true))

/-- For every barrier: Land and Arrive count towards the declared totals, stop at them and set OVR past them, do nothing while OVR is set, and end with Check; Check, on an armed barrier whose arrivals and bytes equal their totals, raises EPOCH by one modulo 2^16 and zeroes ARRCNT, LANDB and XTRAB; Reached compares EPOCH less WEPOCH modulo 2^16 with 2^15. So an unarmed barrier, whose totals are zero, takes any landing or arrival as OVERRUN, and no phase completes while OVR is set. A waiting arrival leaves the list and its barrier takes Arrive(1). A barrier that is ALLOC with REFCNT 0 and that no issued copy or AR part names becomes free, all zero, with GEN one higher modulo 2^16, no handle of it valid: by a step of its own while no bundle issues, and when the bundle that issues is done. No other barrier, no register and no memory changes. -/
def Obligations.BarrierCountingAndFreeing : Prop :=
  (∀ (b : Barrier) (n e : Nat), b.epoch < 65536 → e < 65536 →
    let full := b.armed = true ∧ b.arrcnt = b.exparr ∧ b.landb = b.expb + b.xtrab
    (full → b.check = { b with epoch := (b.epoch + 1) % 65536, arrcnt := 0, landb := 0, xtrab := 0 }) ∧
    (¬ full → b.check = b) ∧
    (b.ovr = true → b.land n = b ∧ b.arrive n = b) ∧
    (b.ovr = false → b.landb + n > b.expb + b.xtrab → b.land n = { b with landb := b.expb + b.xtrab, ovr := true }) ∧
    (b.ovr = false → b.landb + n ≤ b.expb + b.xtrab → b.land n = Barrier.check { b with landb := b.landb + n }) ∧
    (b.ovr = false → b.arrcnt + n > b.exparr → b.arrive n = { b with arrcnt := b.exparr, ovr := true }) ∧
    (b.ovr = false → b.arrcnt + n ≤ b.exparr → b.arrive n = Barrier.check { b with arrcnt := b.arrcnt + n }) ∧
    (b.reached e = true ↔ (((b.epoch : Int) - e) % 65536) < 32768) ∧
    (b.exparr = 0 → b.expb = 0 → b.xtrab = 0 → b.arrcnt = 0 → b.landb = 0 → 0 < n → (b.land n).ovr = true ∧ (b.arrive n).ovr = true) ∧
    (b.ovr = true → (b.land n).epoch = b.epoch ∧ (b.arrive n).epoch = b.epoch)) ∧
  (∀ (s : State) (c idx n : Nat), c < 640 → (s.mach.core c).arrivals[idx]? = some n →
    ∃ t, exec (.barrierArrive c idx) s = .next t ∧ (t.mach.core c).bar n = ((s.mach.core c).bar n).arrive 1 ∧
      (∀ m, m ≠ n → (t.mach.core c).bar m = (s.mach.core c).bar m) ∧
      (t.mach.core c).arrivals = dropNth (s.mach.core c).arrivals idx ∧ (t.mach.core c).ctxs = (s.mach.core c).ctxs ∧
      (∀ d, d ≠ c → t.mach.core d = s.mach.core d) ∧ t.mem = s.mem) ∧
  (∀ (s : State) (c n : Nat), c < 640 → n < 64 →
    let r := (s.mach.core c).bar n
    r.alloc = true → r.refcnt = 0 → (s.mach.core c).barNamed n = false → (s.mach.core c).issue = none →
    exec (.barrierFree c n) s = .next (s.stepOn c (fun k => k.setBar n { Barrier.zero with gen := (r.gen + 1) % 65536 }))) ∧
  ∀ (k : Core) (b : Issue) (n : Nat), n < 64 → k.issue = some b → (k.bar n).alloc = true → (k.bar n).refcnt = 0 →
    k.barNamed n = false →
    k.closeIssue.bar n = { Barrier.zero with gen := ((k.bar n).gen + 1) % 65536 } ∧
      ∀ h, fld h 5 0 = n → k.closeIssue.handle h = none

/-- For every descriptor and positions below 4 × Cap: Cap is 2^LOGCAP; Pos reduces modulo 4 × Cap; Dist is the number of positions from a up to b, modulo 4 × Cap; SlotOf is BASE + p mod Cap; LapOf is p div Cap; Readable is Dist(IHEAD, TAIL) for a local queue, Cap for a target end, 0 for a producer end or a queue not allotted; RoomHead is SHEAD for a producer end and IHEAD otherwise; StateAt is FREE outside HEAD to TAIL, and inside it the recorded state, EMPTY until a fill. -/
def Obligations.QueueHelpers : Prop :=
  ∀ (q : Queue) (x a b p : Nat), a < 4 * 2 ^ q.logcap.toNat → b < 4 * 2 ^ q.logcap.toNat →
    q.cap = 2 ^ q.logcap.toNat ∧ q.wrap x = x % (4 * q.cap) ∧ ((q.dist a b : Nat) : Int) = ((b : Int) - a) % ((4 * q.cap : Nat) : Int) ∧
    q.slotOf p = q.base.toNat + p % q.cap ∧ q.lapOf p = p / q.cap ∧
    (q.alloc = false → q.readable = 0) ∧
    (q.alloc = true → q.readable = match q.role with
      | .loc => q.dist q.ihead q.tail
      | .target => q.cap
      | .producer => 0) ∧
    q.roomHead = (if q.role = .producer then q.shead else q.ihead) ∧
    (q.dist q.head p < q.dist q.head q.tail → (q.cell p).st ≠ .free → q.stateAt p = (q.cell p).st) ∧
    (q.dist q.head p < q.dist q.head q.tail → (q.cell p).st = .free → q.stateAt p = .empty) ∧
    (q.dist q.head q.tail ≤ q.dist q.head p → q.stateAt p = .free)

/-- QALLOC fails with ALLOTTED, then BADCAP, then, with a base given, BADBASE, SLOTSBUSY or FMTMIX, with .any NORUN; else the queue is ALLOC, local, with that base and capacity, HEAD, IHEAD, TAIL and SHEAD 0, every position FREE, and DST the base. QFREE fails with NOTALLOT or BOUND; with no fill and no read outstanding the descriptor returns to all zero and DST is 0; else its context waits. -/
def Obligations.QueueAllotment : Prop :=
  ∀ (s : State) (b : Issue) (p : Part), Runs s b p.guard →
    let n := p.cw.aux.toNat % 8
    let q := s.here.queue b.ctx n
    let any := p.cw.aux.getLsbD 3
    let cap := (s.arg b p p.cw.src1).toNat
    let base := (s.arg b p p.cw.src2).toNat
    let good := cap = 2 ∨ cap = 4 ∨ cap = 8 ∨ cap = 16 ∨ cap = 32 ∨ cap = 64 ∨ cap = 128
    (q.alloc = true → exec (.qalloc p) s = .next (s.failed (.qalloc p) b p 3)) ∧
    (q.alloc = false → ¬ good → exec (.qalloc p) s = .next (s.failed (.qalloc p) b p 1)) ∧
    (q.alloc = false → good → any = false →
      (base % cap ≠ 0 ∨ base + cap > 256 → exec (.qalloc p) s = .next (s.failed (.qalloc p) b p 2)) ∧
      (base % cap = 0 → base + cap ≤ 256 → s.here.runFree base cap = false →
        exec (.qalloc p) s = .next (s.failed (.qalloc p) b p 5)) ∧
      (base % cap = 0 → base + cap ≤ 256 → s.here.runFree base cap = true → s.here.runOneFmt base cap = false →
        exec (.qalloc p) s = .next (s.failed (.qalloc p) b p 6))) ∧
    (q.alloc = false → good → any = true →
      (∀ i, i < 256 / cap → (s.here.runFree (i * cap) cap && s.here.runOneFmt (i * cap) cap) = false) →
        exec (.qalloc p) s = .next (s.failed (.qalloc p) b p 7)) ∧
    (∀ r, q.alloc = false → good →
      (any = false → r = base ∧ base % cap = 0 ∧ base + cap ≤ 256 ∧ s.here.runFree base cap = true ∧
        s.here.runOneFmt base cap = true) →
      (any = true → ∃ i, r = i * cap ∧ i < 256 / cap ∧ s.here.runFree r cap = true ∧ s.here.runOneFmt r cap = true ∧
        ∀ j, j < i → (s.here.runFree (j * cap) cap && s.here.runOneFmt (j * cap) cap) = false) →
      exec (.qalloc p) s = .next (s.answered (.qalloc p) b p (fun k => k.upd b.ctx (fun c => c.setQueue n
        { Queue.zero with alloc := true, base := BitVec.ofNat 8 r, logcap := BitVec.ofNat 3 (Nat.log2 cap) }))
        (BitVec.ofNat 64 r) true)) ∧
    (q.alloc = false → exec (.qfree p) s = .next (s.failed (.qfree p) b p 4)) ∧
    (q.alloc = true → q.role ≠ .loc → exec (.qfree p) s = .next (s.failed (.qfree p) b p 9)) ∧
    (q.alloc = true → q.role = .loc → s.here.queueQuiet b.ctx n = true →
      exec (.qfree p) s = .next (s.answered (.qfree p) b p (fun k => k.upd b.ctx (fun c => c.setQueue n Queue.zero)) 0 true)) ∧
    (q.alloc = true → q.role = .loc → s.here.queueQuiet b.ctx n = false →
      exec (.qfree p) s = .next (s.waits (.qfree p) b id))

/-- QDEQ of n ≤ Readable of a local queue in its bundle raises IHEAD by n modulo 4 × Cap, leaves TAIL and SHEAD's rule to HEAD, and with no read outstanding and every position before IHEAD consumed or dequeued HEAD reaches IHEAD; QSTAT leaves the packed descriptor, the state byte of HEAD + i or PARTNER in DST. No other register and no memory changes. -/
def Obligations.QueueDequeueAndStatus : Prop :=
  ∀ (s : State) (b : Issue) (p : Part), Runs s b p.guard →
    let n := p.cw.aux.toNat % 8
    let q := s.here.queue b.ctx n
    let m := (s.arg b p p.cw.src1).toNat
    (q.role = .loc → m ≤ q.dist q.ihead q.tail → m ≤ 128 →
      ∃ t, exec (.qdeq p) s = .next t ∧ (t.here.queue b.ctx n).ihead = (q.ihead + m) % (4 * q.cap) ∧
        (t.here.queue b.ctx n).tail = q.tail ∧ (t.here.queue b.ctx n).shead = (t.here.queue b.ctx n).head ∧
        (q.head = q.ihead → q.head < 4 * q.cap →
          (∀ i, i < m → (q.cell (q.wrap (q.ihead + i))).reads = 0) → q.ihead < 4 * q.cap →
          (t.here.queue b.ctx n).head = (q.ihead + m) % (4 * q.cap)) ∧
        (∀ j, j ≠ n → t.here.queue b.ctx j = s.here.queue b.ctx j) ∧
        SameRegs s t s.mach.focusCore b.ctx [] ∧ t.mem = s.mem) ∧
    exec (.qstat p) s = .next (s.wrote (.qstat p) b (dstReg p.cw.dst) (BitVec.ofNat 64 (match p.cw.aux.toNat / 8 with
      | 0 => q.head + q.ihead * 2 ^ 9 + q.tail * 2 ^ 18 + q.base.toNat * 2 ^ 27 + q.logcap.toNat * 2 ^ 35 +
          b2n q.alloc * 2 ^ 38 + q.role.code * 2 ^ 39 + b2n q.frozen * 2 ^ 41 + b2n q.freezing * 2 ^ 42 + q.shead * 2 ^ 43
      | 1 => s.here.stateByte b.ctx n (s.arg b p p.cw.src1).toNat
      | _ => q.partner.toNat)))

/-- Each fails with the code its rule gives and then changes nothing else. QSPLICE and QUNSPLICE send their message and wait. QRESPLICE re-points a FROZEN end. QFREEZE and QTHAW set or clear FROZEN of a local queue and answer its TAIL or HEAD; on a splice end they start the handshake and wait, QFREEZE answering at once when FROZEN. QSAVE and QRESTORE wait, QSAVE of a producer end that is not FROZEN starting its freeze. -/
def Obligations.SpliceInstructions : Prop :=
  ∀ (s : State) (b : Issue) (p : Part), Runs s b p.guard →
    let n := p.cw.aux.toNat % 8
    let q := s.here.queue b.ctx n
    let w := s.arg b p p.cw.src1
    let me : QAddr := ⟨s.mach.focusCore, b.ctx, n⟩
    let malformed := w.toNat ≥ 2 ^ 15 ∨ w.toNat % 1024 > 639
    (q.alloc = false → ∀ i ∈ [Instr.qsplice p, .qfreeze p, .qthaw p, .qsave p], exec i s = .next (s.failed i b p 4)) ∧
    (q.alloc = true → q.role ≠ .loc → exec (.qsplice p) s = .next (s.failed (.qsplice p) b p 9)) ∧
    (q.alloc = true → q.role = .loc → q.head ≠ q.tail → exec (.qsplice p) s = .next (s.failed (.qsplice p) b p 8)) ∧
    (q.alloc = true → q.role = .loc → q.head = q.tail → malformed ∨ QAddr.ofWord w.toNat = me →
      exec (.qsplice p) s = .next (s.failed (.qsplice p) b p 11)) ∧
    (q.alloc = true → q.role = .loc → q.head = q.tail → ¬ (malformed ∨ QAddr.ofWord w.toNat = me) →
      exec (.qsplice p) s = .next (s.did (fun k =>
        (k.sysWait ⟨.qsplice p, b⟩).send (.splice (QAddr.ofWord w.toNat) me k.asid q.cap)))) ∧
    (q.alloc = false ∨ q.role ≠ .producer → exec (.qunsplice p) s = .next (s.failed (.qunsplice p) b p 10)) ∧
    (q.alloc = true → q.role = .producer → q.frozen = true ∨ q.freezing = true →
      exec (.qunsplice p) s = .next (s.failed (.qunsplice p) b p 15)) ∧
    (q.alloc = true → q.role = .producer → q.frozen = false → q.freezing = false →
      exec (.qunsplice p) s = .next (s.did (fun k =>
        (k.sysWait ⟨.qunsplice p, b⟩).send (.unsplice (QAddr.ofWord q.partner.toNat) me)))) ∧
    (q.alloc = false ∨ q.role = .loc → exec (.qresplice p) s = .next (s.failed (.qresplice p) b p 10)) ∧
    (q.alloc = true → q.role ≠ .loc → q.frozen = false → exec (.qresplice p) s = .next (s.failed (.qresplice p) b p 12)) ∧
    (q.alloc = true → q.role ≠ .loc → q.frozen = true → malformed →
      exec (.qresplice p) s = .next (s.failed (.qresplice p) b p 11)) ∧
    (q.alloc = true → q.role ≠ .loc → q.frozen = true → ¬ malformed →
      exec (.qresplice p) s = .next (s.answered (.qresplice p) b p (fun k => k.upd b.ctx (fun c => c.setQueue n
        { c.queue n with partner := BitVec.ofNat 15 w.toNat })) 0 true)) ∧
    (q.alloc = true → q.role = .loc →
      exec (.qfreeze p) s = .next (s.answered (.qfreeze p) b p (fun k => k.upd b.ctx (fun c => c.setQueue n
        { c.queue n with frozen := true })) (BitVec.ofNat 64 q.tail) true) ∧
      exec (.qthaw p) s = .next (s.answered (.qthaw p) b p (fun k => k.upd b.ctx (fun c => c.setQueue n
        { c.queue n with frozen := false })) (BitVec.ofNat 64 q.head) true)) ∧
    (q.alloc = true → q.role ≠ .loc →
      (q.frozen = true → exec (.qfreeze p) s = .next (s.answered (.qfreeze p) b p id (BitVec.ofNat 64 q.tail) true)) ∧
      (q.frozen = false → exec (.qfreeze p) s =
        .next (s.waits (.qfreeze p) b (freezeStart s.mach.focusCore b.ctx n false))) ∧
      exec (.qthaw p) s = .next (s.did (fun k => (k.sysWait ⟨.qthaw p, b⟩).sendThaw s.mach.focusCore b.ctx n))) ∧
    (q.alloc = true → q.role = .target → q.frozen = false → exec (.qsave p) s = .next (s.failed (.qsave p) b p 12)) ∧
    (q.alloc = true → ¬ (q.role = .target ∧ q.frozen = false) → exec (.qsave p) s = .next (s.waits (.qsave p) b
      (fun k => if q.role = .producer then freezeStart s.mach.focusCore b.ctx n false k else k))) ∧
    (q.alloc = true → exec (.qrestore p) s = .next (s.failed (.qrestore p) b p 3)) ∧
    (q.alloc = false → exec (.qrestore p) s = .next (s.waits (.qrestore p) b id))

/-- Once the accesses an append releases are performed: at its target end, with the slot's earlier position free, it lands with its state and, if PRESENT or POISON and no STSP has raced over the slot, its tile, after its wait for the bank, and landed positions are released in order; at a queue that is no such end it is discarded and counted in QDROP. A head advance moves HEAD, IHEAD and SHEAD of the producer end together, and is lost at any other queue. The message leaves; no memory changes. -/
def Obligations.SpliceAppendsAndHeads : Prop :=
  (∀ (s : State) (c idx : Nat) (d src : QAddr) (seq pos : Nat) (st : PSt) (tile : Tile) (cp : Bool),
    s.hasMsg c idx (.append d src seq pos st tile false cp) →
      let m := s.took c idx
      (m.core src.core).releasedBefore src.ctx seq = true →
      (m.isEnd d src .target = true → (m.queueAt d).canFill pos = true →
        exec (.spliceAppendArrive c idx) s =
          .next (s.mechs (m.upd d.core (fun k => ((k.land d.ctx d.q pos st tile).bankWait).releaseLanded d.ctx d.q)))) ∧
      (m.isEnd d src .target = false →
        exec (.spliceAppendArrive c idx) s = .next (s.mechs (m.upd d.core (fun k => k.inc 0x74 1))))) ∧
  (∀ (s : State) (c idx : Nat) (d : QAddr) (v : Nat), s.hasMsg c idx (.head d v) →
      let m := s.took c idx
      ((m.queueAt d).alloc = true → (m.queueAt d).role = .producer →
        exec (.headAdvertise c idx) s = .next (s.mechs (m.upd d.core (fun k => k.upd d.ctx (fun x => x.setQueue d.q
          { x.queue d.q with head := v, ihead := v, shead := v }))))) ∧
      (¬ ((m.queueAt d).alloc = true ∧ (m.queueAt d).role = .producer) →
        exec (.headAdvertise c idx) s = .next (s.mechs m))) ∧
  ∀ (k : Core) (x n pos : Nat) (st : PSt) (tile : Tile),
    let q := k.queue x n
    let k' := k.land x n pos st tile
    (k'.queue x n).cell pos = { q.cell pos with st := st } ∧ Tab.get 0 k'.lap (q.slotOf pos) = pos / q.cap ∧
    (st = .present ∨ st = .poison → (∀ r ∈ k.raced, r.1 / 4096 ≠ q.slotOf pos) → Tab.get 0 k'.spad (q.slotOf pos) = tile) ∧
    (¬ (st = .present ∨ st = .poison) → k'.spad = k.spad) ∧
    (∀ sl, sl ≠ q.slotOf pos → Tab.get 0 k'.spad sl = Tab.get 0 k.spad sl ∧ Tab.get 0 k'.lap sl = Tab.get 0 k.lap sl)

/-- A freeze request makes an unfrozen producer end FREEZING and send its marker with TAIL; the marker, once the target has released every position before it, makes the target FROZEN and send an acknowledgement; that makes the producer FROZEN. A thaw of a FROZEN partner end with equal capacity and tail, whether the target or the producer asks, thaws it and answers, a target then advertising its HEAD; else it is answered with failure; the answer thaws the asking end. An answer of failure is the result of the QTHAW that waits for it, and else is reported to the tenant's host (R98, in the form of log 34, the model's own clause). A splice request binds a free local queue of the tenant and capacity as target, else its operation fails; on a core that a save has stopped the new ends start to freeze; for a partner that a pre-emption has saved the request waits (log 39, the model's own clauses). An unsplice request unbinds both ends once every append is released, ending a freeze under way (log 39). No memory changes. -/
def Obligations.SpliceHandshakes : Prop :=
  (∀ (s : State) (c idx : Nat) (d src : QAddr), s.hasMsg c idx (.freezeReq d src) →
      let m := s.took c idx
      m.isEnd d src .producer = true → (m.queueAt d).freezing = false →
        exec (.freezeRequest c idx) s = .next (s.mechs ((m.onQueueAt d (fun q =>
          { q with freezing := !q.frozen, held := q.held || (m.queueAt src).held })).upd d.core
          (fun k => { k with out := k.out ++ [.marker src d (m.queueAt d).tail] })))) ∧
  (∀ (s : State) (c idx : Nat) (d src : QAddr) (tail : Nat), s.hasMsg c idx (.marker d src tail) →
      let m := s.took c idx
      m.isEnd d src .target = true → (m.queueAt d).tail = tail →
        exec (.freezeMarker c idx) s = .next (s.mechs ((m.onQueueAt d (fun q =>
          { q with frozen := true, freezing := false, ftail := some tail, held := q.held || (m.queueAt src).held })).upd d.core
            (fun k => { k with out := k.out ++ [.ack src] })))) ∧
  (∀ (s : State) (c idx : Nat) (d : QAddr), s.hasMsg c idx (.ack d) →
      let m := s.took c idx
      (m.queueAt d).alloc = true → (m.queueAt d).role = .producer → (m.queueAt d).freezing = true →
        exec (.freezeAck c idx) s = .next (s.mechs (m.onQueueAt d (fun q =>
          { q with frozen := true, freezing := false, ftail := some q.tail })))) ∧
  (∀ (s : State) (c idx : Nat) (d src : QAddr) (cap tail : Nat), s.hasMsg c idx (.thaw d src .target cap tail) →
      let m := s.took c idx
      let q := m.queueAt d
      let ok := m.isEnd d src .producer = true ∧ q.frozen = true ∧ q.cap = cap ∧ q.tail = tail
      let h := (m.queueAt src).head
      (ok → ∃ t, exec (.thawHandshake c idx) s = .next t ∧ t.mem = s.mem ∧
        t.mach.queueAt d = { q with frozen := false, pfrz := false, ftail := none, held := false, head := h, ihead := h, shead := h } ∧
        (t.mach.core d.core).out = (m.core d.core).out ++ [.thawReply src true h]) ∧
      (¬ ok → exec (.thawHandshake c idx) s = .next (s.mechs (m.upd d.core
        (fun k => { k with out := k.out ++ [.thawReply src false 0] }))))) ∧
  (∀ (s : State) (c idx : Nat) (d src : QAddr) (cap tail : Nat), s.hasMsg c idx (.thaw d src .producer cap tail) →
      let m := s.took c idx
      let q := m.queueAt d
      let ok := m.isEnd d src .target = true ∧ q.frozen = true ∧ q.cap = cap ∧ q.tail = tail
      (ok → q.freezing = false → ∃ t, exec (.thawHandshake c idx) s = .next t ∧ t.mem = s.mem ∧
        t.mach.queueAt d = { q with frozen := false, pfrz := false, ftail := none, held := false } ∧
        (t.mach.core d.core).out = (m.core d.core).out ++
          [.thawReply src true q.head, .head (QAddr.ofWord q.partner.toNat) q.head]) ∧
      (¬ ok → exec (.thawHandshake c idx) s = .next (s.mechs (m.upd d.core
        (fun k => { k with out := k.out ++ [.thawReply src false 0] }))))) ∧
  (∀ (s : State) (c idx : Nat) (d : QAddr) (h : Nat), s.hasMsg c idx (.thawReply d false h) →
      let m := s.took c idx
      let w := ((m.core d.core).ctx d.ctx).wait
      (∀ (fl : Flight) (p : Part), w = some fl → fl.i = .qthaw p → p.cw.aux.toNat % 8 = d.q →
        exec (.thawReply c idx) s = .next (s.mechs (m.answer d 0x367 (BitVec.ofNat 64 (2 ^ 63 + 13))))) ∧
      (∀ a host, w = none → (m.core d.core).owner = some a → Tab.get none m.tenants a = some host →
        exec (.thawReply c idx) s = .next (s.mechs { m with reports := m.reports ++ [(host, d)] }))) ∧
  (∀ (s : State) (c idx : Nat) (d : QAddr) (h : Nat), s.hasMsg c idx (.thawReply d true h) →
      let q := (s.took c idx).queueAt d
      (q.role = .producer → ∃ t, exec (.thawReply c idx) s = .next t ∧ t.mem = s.mem ∧
        t.mach.queueAt d = { q with frozen := false, pfrz := false, ftail := none, held := false, head := h, ihead := h, shead := h }) ∧
      (q.role = .target → q.freezing = false → ∃ t, exec (.thawReply c idx) s = .next t ∧ t.mem = s.mem ∧
        t.mach.queueAt d = { q with frozen := false, pfrz := false, ftail := none, held := false } ∧
        (t.mach.core d.core).out = ((s.took c idx).core d.core).out ++ [.head (QAddr.ofWord q.partner.toNat) q.head])) ∧
  (∀ (s : State) (c idx : Nat) (d src : QAddr) (asid cap : Nat) (fl : Flight) (p : Part),
    s.hasMsg c idx (.splice d src asid cap) →
      let m := s.took c idx
      let q := m.queueAt d
      ((m.core src.core).ctx src.ctx).wait = some fl → fl.i = .qsplice p → p.cw.aux.toNat % 8 = src.q →
      ((m.core src.core).ctx src.ctx).answer = none →
      let ok := d.core < 640 ∧ q.alloc = true ∧ q.role = .loc ∧ q.frozen = false ∧ q.cap = cap ∧ (m.core d.core).owner = some asid
      (m.awaySaved src d = true → exec (.spliceRequest c idx) s = .next s) ∧
      (m.awaySaved src d = false → ok → d ≠ src → q.held = false → m.saving d.core = true → ∃ t, exec (.spliceRequest c idx) s = .next t ∧
        (t.mach.queueAt d).role = .target ∧ (t.mach.queueAt d).freezing = true ∧ (t.mach.queueAt d).pfrz = true) ∧
      (m.awaySaved src d = false → ok → d ≠ src → m.saving d.core = false → m.saving src.core = false → ∃ t, exec (.spliceRequest c idx) s = .next t ∧ t.mem = s.mem ∧
        t.mach.queueAt d = { q with role := .target, partner := BitVec.ofNat 15 src.word } ∧
        (let y := t.mach.queueAt src
         y.role = .producer ∧ y.partner = BitVec.ofNat 15 d.word ∧ y.tail = q.tail ∧ y.head = q.head ∧ y.ihead = q.head ∧
           y.shead = q.head) ∧
        ((t.mach.core src.core).ctx src.ctx).answer = some (BitVec.ofNat 64 q.tail)) ∧
      (m.awaySaved src d = false → ¬ ok → ∃ t, exec (.spliceRequest c idx) s = .next t ∧ t.mach.queueAt d = q ∧
        ((t.mach.core src.core).ctx src.ctx).answer = some (BitVec.ofNat 64 (2 ^ 63 + 11)))) ∧
  ∀ (s : State) (c idx : Nat) (d src : QAddr), s.hasMsg c idx (.unsplice d src) →
      let m := s.took c idx
      let q := m.queueAt d
      m.isEnd d src .target = true → q.tail = (m.queueAt src).tail → d ≠ src →
      ∃ t, exec (.unspliceRequest c idx) s = .next t ∧ t.mem = s.mem ∧
        t.mach.queueAt d = { q with role := .loc, partner := 0, shead := q.head, frozen := (q.frozen || q.freezing) && !q.pfrz, freezing := false, pfrz := false, ftail := none, held := false } ∧
        (let y := t.mach.queueAt src
         y.role = .loc ∧ y.partner = 0 ∧ y.head = 0 ∧ y.ihead = 0 ∧ y.tail = 0 ∧ y.shead = 0)

/-- A waiting fill whose slot's earlier position is free lands and leaves the list; of a freed queue it is dropped and counted. A filled and marked position all of whose reads are complete becomes CONSUMED; if it stood at HEAD of a local queue, HEAD passes it. No register and no memory changes. -/
def Obligations.FillsAndReads : Prop :=
  (∀ (s : State) (c idx : Nat) (f : FillRec), c < 640 → (s.mach.core c).fills[idx]? = some f →
      let k := { s.mach.core c with fills := dropNth (s.mach.core c).fills idx }
      let q := (s.mach.core c).queue f.ctx f.q
      (q.alloc = false → exec (.fillLand c idx) s = .next (s.stepOn c (fun _ => Core.inc k 0x74 1))) ∧
      (q.alloc = true → q.dist q.head f.pos < q.cap →
        exec (.fillLand c idx) s = .next (s.stepOn c (fun _ => k.land f.ctx f.q f.pos f.st f.data)))) ∧
  ∀ (s : State) (c x n pos : Nat), c < 640 → x < 4 → n < 8 → pos < 512 →
      let q := (s.mach.core c).queue x n
      q.alloc = true → (q.cell pos).marked = true → (q.cell pos).reads = 0 → q.dist q.head pos < q.dist q.head q.tail →
      (q.cell pos).st = .present ∨ (q.cell pos).st = .void ∨ (q.cell pos).st = .poison →
      ∃ t, exec (.readComplete c x n pos) s = .next t ∧ t.mem = s.mem ∧ SameRegs s t c x [] ∧
        (t.mach.core c).spad = (s.mach.core c).spad ∧ ((t.mach.core c).queue x n).tail = q.tail ∧
        ((t.mach.core c).queue x n).ihead = q.ihead ∧
        (q.role = .loc → q.head = pos → q.head < 4 * q.cap → q.dist q.head q.ihead = 1 →
          ((t.mach.core c).queue x n).head = (pos + 1) % (4 * q.cap)) ∧
        (pos ≠ q.head → q.dist q.head q.ihead > 0 → (q.cell q.head).st ≠ .consumed →
          (((t.mach.core c).queue x n).cell pos).st = .consumed)

/-- When a QFREE finds no fill or read outstanding the queue returns to all zero with result 0; when the end a QFREEZE waits for is FROZEN its result is the final tail; when the answer of a QSPLICE, QUNSPLICE or QTHAW has arrived its result is that answer, a failure if bit 63 is set. When the queue a QSAVE waits for has drained, its pages translate for writing, and no port and no sleeping home holds it back, its record stands in memory at its address and its result is the record's length; other memory stands. When a QRESTORE has read a record without an error, a bad record fails with BADREC, one for which no base is free with the code of R102, and else the queue has the record's base, capacity, role, FROZEN, indices and partner, and the result is the base. The result stands in DST and success in PDST, and the context waits no longer. Only QSAVE changes memory. That a transfer waits for its ports in one piece is log 19, the model's own clause. -/
def Obligations.WaitingOperationsComplete : Prop :=
  ∀ (s : State) (c x : Nat) (b : Issue) (p : Part), c < 640 → x < 4 → b.ctx = x →
    let k := s.mach.core c
    let n := p.cw.aux.toNat % 8
    let q := k.queue x n
    let done := fun (v : W64) (ok : Bool) (f : Queue → Queue) => ∃ t, exec (.bundleUnblock c x) s = .next t ∧ t.mem = s.mem ∧
      ((t.mach.core c).ctx x).wait = none ∧ (t.mach.core c).queue x n = f q ∧
      (dstReg p.cw.dst ≠ 0 → ((t.mach.core c).ctx x).regs.rS (dstReg p.cw.dst) = v) ∧
      (p.cw.pdst ≠ 0 → ((t.mach.core c).ctx x).regs.rP p.cw.pdst.toNat = ok) ∧
      SameRegs s t c x [.s (dstReg p.cw.dst), .p p.cw.pdst.toNat]
    ((k.ctx x).wait = some ⟨.qfree p, b⟩ → k.queueQuiet x n = true → done 0 true (fun _ => Queue.zero)) ∧
    ((k.ctx x).wait = some ⟨.qfreeze p, b⟩ → q.frozen = true → done (BitVec.ofNat 64 q.tail) true id) ∧
    (∀ i ∈ [Instr.qsplice p, .qunsplice p, .qthaw p], (k.ctx x).wait = some ⟨i, b⟩ → ∀ a, (k.ctx x).answer = some a →
      (a.getLsbD 63 = false → done a true id) ∧ (a.getLsbD 63 = true → done a false id)) ∧
    let va := (scalarOp b.pre (k.ctx x).cbank p.cw p.cw.src1).toNat
    let free := fun (w : Move) (n : Nat) => s.mayMove c b.asid (waitHolder c) b.seq [(w, [(va, n)])]
    (let bs := k.queueRecord x n
     (k.ctx x).wait = some ⟨.qsave p, b⟩ → k.queueDrained x n = true → va % 65536 + bs.length ≤ 65536 → free .write bs.length →
     ∀ sp ad sa, translate s (agentOf c) b.asid va accWrite = .ok sp ad sa → uliLost s.mach c sp = false → ∃ t,
      exec (.bundleUnblock c x) s = .next t ∧ t.mem.bytes sp ad bs.length = bs ∧ SameBut s t sp ad bs.length ∧
        ((t.mach.core c).ctx x).wait = none ∧ (t.mach.core c).queue x n = q ∧
        (dstReg p.cw.dst ≠ 0 → ((t.mach.core c).ctx x).regs.rS (dstReg p.cw.dst) = BitVec.ofNat 64 bs.length) ∧
        (p.cw.pdst ≠ 0 → ((t.mach.core c).ctx x).regs.rP p.cw.pdst.toNat = true) ∧
        SameRegs s t c x [.s (dstReg p.cw.dst), .p p.cw.pdst.toNat]) ∧
    ∀ hd bs, (k.ctx x).wait = some ⟨.qrestore p, b⟩ → readVa s (agentOf c) b.asid va 256 accRead = .ok hd →
      softAt s c b.asid [(va, 256)] = none →
      let r := SaveRec.ofBytes hd
      free (.read 0) (256 + 4096 * r.nblk) →
      (r.bad (p.cw.aux.getLsbD 3) = true → done (BitVec.ofNat 64 (2 ^ 63 + 14)) false id) ∧
      (r.bad (p.cw.aux.getLsbD 3) = false → readVa s (agentOf c) b.asid (va + 256) (4096 * r.nblk) accRead = .ok bs →
        softAt s c b.asid [(va + 256, 4096 * r.nblk)] = none →
        (∀ e, k.findBase (p.cw.aux.getLsbD 3) r.queue.cap r.queue.base.toNat = .error e →
          done (BitVec.ofNat 64 (2 ^ 63 + e)) false id) ∧
        ∀ base, k.findBase (p.cw.aux.getLsbD 3) r.queue.cap r.queue.base.toNat = .ok base → ∃ t,
          exec (.bundleUnblock c x) s = .next t ∧ SameMemory s t ∧ ((t.mach.core c).ctx x).wait = none ∧
          (let y := (t.mach.core c).queue x n
           y.alloc = true ∧ y.base = BitVec.ofNat 8 base ∧ y.logcap = BitVec.ofNat 3 (bitsOf r.w0 10 8) ∧
           y.role.code = bitsOf r.w0 12 11 ∧ y.frozen = r.w0.testBit 13 ∧ y.pfrz = r.w0.testBit 14 ∧
           y.head = bitsOf r.w0 24 16 ∧ y.ihead = bitsOf r.w0 33 25 ∧ y.tail = bitsOf r.w0 42 34 ∧
           y.shead = bitsOf r.w0 51 43 ∧ y.partner = BitVec.ofNat 15 r.partner) ∧
          (dstReg p.cw.dst ≠ 0 → ((t.mach.core c).ctx x).regs.rS (dstReg p.cw.dst) = BitVec.ofNat 64 base) ∧
          (p.cw.pdst ≠ 0 → ((t.mach.core c).ctx x).regs.rP p.cw.pdst.toNat = true) ∧
          SameRegs s t c x [.s (dstReg p.cw.dst), .p p.cw.pdst.toNat])

/-- When the queue sources of a part in VA, VB or XB are filled and its bundle is not split, the part joins those at work with the writes that its operation computes from its sources as they stood before the bundle, and the counters of a start move; with any source VOID it is void, on a lap mismatch or POISON it takes its slot fault; a VB of a split bundle waits. No register and no memory changes yet. -/
def Obligations.LaneOperationsStart : Prop :=
  ∀ (s : State) (b : Issue) (p : Part), Runs s b p.guard →
    ∀ i op, (i, op) ∈ ([
        (Instr.vadd p, vintOp), (.vsub p, vintOp), (.vmul p, vintOp), (.vmulhs p, vintOp), (.vmulhu p, vintOp),
        (.vmin p, vintOp), (.vmax p, vintOp), (.vminu p, vintOp), (.vmaxu p, vintOp), (.vand p, vintOp),
        (.vor p, vintOp), (.vxor p, vintOp), (.vshl p, vintOp), (.vshrl p, vintOp), (.vshra p, vintOp),
        (.vabs p, vintOp), (.vneg p, vintOp), (.vmov p, vintOp), (.vsel p, vintOp), (.vmad p, vintOp),
        (.vcmpeq p, vcmpOp), (.vcmpne p, vcmpOp), (.vcmplt p, vcmpOp), (.vcmpltu p, vcmpOp), (.vcmple p, vcmpOp),
        (.vcmpleu p, vcmpOp), (.vredadd p, vredOp), (.vredmin p, vredOp), (.vredmax p, vredOp),
        (.vredminu p, vredOp), (.vredmaxu p, vredOp), (.vcompact p, vmaskOp), (.vexpand p, vmaskOp),
        (.vmaskcnt p, vmaskOp), (.viota p, vmaskOp), (.vreq p, vreqOp), (.vreq8 p, vreqOp), (.vfadd p, vfloatOp),
        (.vfsub p, vfloatOp), (.vfmul p, vfloatOp), (.vfma p, vfloatOp), (.vfms p, vfloatOp), (.vfnma p, vfloatOp),
        (.vfmin p, vfloatOp), (.vfmax p, vfloatOp), (.vfabs p, vfloatOp), (.vfneg p, vfloatOp),
        (.vfcmpeq p, vfcmpOp), (.vfcmplt p, vfcmpOp), (.vfcmple p, vfcmpOp), (.vfcmpun p, vfcmpOp),
        (.vfredadd p, vfredOp), (.vfredmin p, vfredOp), (.vfredmax p, vfredOp), (.vcvt p, vcvtOp),
        (.vfround p, vfroundOp), (.vfreq p, vfreqOp), (.vrcp p, vspecOp), (.vrsq p, vspecOp), (.vrcps p, vspecOp),
        (.vrsqs p, vspecOp), (.vexp2 p, vspecOp), (.vmadm p, vmodOp), (.vmsbm p, vmodOp), (.vmulm p, vmodOp),
        (.vmulmc p, vmodOp), (.vbfly p, vbflyOp), (.vibfly p, vbflyOp), (.vperm p, vpermOp), (.vmred p, vresOp),
        (.vmcent p, vresOp), (.vmodset p, vmodsetOp), (.vmodget p, vmodgetOp), (.xperm p, xpermOp),
        (.xbcast p, xmoveOp), (.xrot p, xmoveOp), (.xzip p, xmoveOp), (.xunzip p, xmoveOp), (.xtrn p, xmoveOp)] : List (Instr × (VIn → VRes))) →
      let n := partNo i
      let o := opcOf i
      let got := fetchTiles s.here b.redo b.ctx n (b.readsOf n)
      let split := b.split = true ∧ n = 3
      (split → exec i s = .next (s.did (fun k => Core.inc { k with vparts := k.vparts ++ [⟨⟨i, b⟩, true, []⟩] } 0xA2 1))) ∧
      (¬ split → got = .void → exec i s = .next (s.did (fun k => k.voidPart s.mach.focusCore ⟨i, b⟩))) ∧
      (¬ split → ∀ tr, got = .trap tr → exec i s = .next (s.did (fun k => k.faultPart s.mach.focusCore ⟨i, b⟩ tr))) ∧
      (¬ split → ∀ ts, got = .ok ts → s.here.badVreg b.ctx o p = false →
        let ws := vecWrites (s.here.ctx b.ctx).vbase n p (b.destsOf n) (op (vecIn s.here b o p ts))
        exec i s = .next (s.did (fun k => countStart o p s.mach.tick { k with vparts := k.vparts ++ [⟨⟨i, b⟩, false, ws⟩] })))

/-- At INT8 to INT64 without saturation, element i of the result of VADD to VMAD is the value of its row from elements i of the sources, at the element width; VADD, VSUB, VMUL and VMAD with saturation give the exact result clamped to the type, UINT8 too. At BF16, FP16 and FP32, element i of the result of VFADD to VFNEG is the exact value of its row from the values of elements i, rounded once into the type under RND and SAT. Every lane has a value. -/
def Obligations.IntegerLanes : Prop :=
  (∀ (v : VIn) (i e : Nat), e = v.f.width → i < v.n → ∃ bits, (vintOp v).bits = some bits ∧
    let x := BitVec.ofNat e (v.at 0 i)
    let y := BitVec.ofNat e (v.at 1 i)
    let z := BitVec.ofNat e (v.at 2 i)
    (v.f = .int8 ∨ v.f = .int16 ∨ v.f = .int32 ∨ v.f = .int64 → v.sat = false →
      ∀ o (r : BitVec e), (o, r) ∈ [
          (0x101, x + y), (0x102, x - y), (0x103, x * y),
          (0x104, ((x.signExtend (2 * e) * y.signExtend (2 * e)) >>> e).setWidth e),
          (0x105, ((x.setWidth (2 * e) * y.setWidth (2 * e)) >>> e).setWidth e), (0x106, if x.slt y then x else y),
          (0x107, if x.slt y then y else x), (0x108, if x.ult y then x else y), (0x109, if x.ult y then y else x),
          (0x10A, x &&& y), (0x10B, x ||| y), (0x10C, x ^^^ y), (0x10D, x <<< (y.toNat % e)),
          (0x10E, x >>> (y.toNat % e)), (0x10F, x.sshiftRight (y.toNat % e)), (0x110, x.abs), (0x111, -x),
          (0x112, x), (0x113, if x ≠ 0 then y else z), (0x114, x * y + z)] →
        v.o = o → elemAt bits i e = r.toNat) ∧
    (v.f = .int8 ∨ v.f = .int16 ∨ v.f = .int32 ∨ v.f = .int64 → v.sat = true →
      ∀ o (t : Int), (o, t) ∈ [(0x101, x.toInt + y.toInt), (0x102, x.toInt - y.toInt), (0x103, x.toInt * y.toInt),
          (0x114, x.toInt * y.toInt + z.toInt)] →
        v.o = o → elemAt bits i e = (BitVec.ofInt e (max (-2 ^ (e - 1)) (min t (2 ^ (e - 1) - 1)))).toNat) ∧
    (v.f = .uint8 → v.sat = true →
      ∀ o (t : Int), (o, t) ∈ [(0x101, (x.toNat : Int) + y.toNat), (0x102, (x.toNat : Int) - y.toNat),
          (0x103, (x.toNat : Int) * y.toNat), (0x114, (x.toNat : Int) * y.toNat + z.toNat)] →
        v.o = o → (elemAt bits i e : Int) = max 0 (min t 255))) ∧
  ∀ (v : VIn) (i e : Nat), e = v.f.width → i < v.n → v.f.isFloat = true → ∃ bits, (vfloatOp v).bits = some bits ∧
    let x := valueOf (v.at 0 i) v.f 0
    let y := valueOf (v.at 1 i) v.f 0
    let z := valueOf (v.at 2 i) v.f 0
    ∀ o t, (o, t) ∈ [(0x201, x.add y v.rnd), (0x202, x.add y.neg v.rnd), (0x203, x.mul y), (0x204, (x.mul y).add z v.rnd),
        (0x205, (x.mul y).add z.neg v.rnd), (0x206, (x.mul y).neg.add z v.rnd), (0x207, valMin x y), (0x208, valMax x y),
        (0x209, x.abs), (0x20A, x.neg)] →
      v.o = o → elemAt bits i e = roundIeee t v.f v.rnd v.sat

/-- Element i of a compare's mask, integer or float, is all ones where the compare of elements i holds and zero elsewhere; a float compare with a NaN holds for VFCMPUN alone, and −0 equals +0; the predicate is the OR of all results, or their AND with ALL. VMASKCNT gives the number of true elements, or bit i for each of the first 64, or the least true index or N; element i of VIOTA is the number of true elements before i, modulo 2^e. -/
def Obligations.CompareAndMaskLanes : Prop :=
  ∀ (v : VIn) (i e : Nat), e = v.f.width → i < v.n →
    (v.f = .int8 ∨ v.f = .int16 ∨ v.f = .int32 ∨ v.f = .int64 →
      let cmp := fun (o j : Nat) =>
        let x := BitVec.ofNat e (v.at 0 j)
        let y := BitVec.ofNat e (v.at 1 j)
        match o with
        | 0x120 => x == y
        | 0x121 => x != y
        | 0x122 => x.slt y
        | 0x123 => x.ult y
        | 0x124 => x.sle y
        | _ => x.ule y
      0x120 ≤ v.o → v.o ≤ 0x125 → ∃ bits, (vcmpOp v).bits = some bits ∧
        elemAt bits i e = (if cmp v.o i then 2 ^ e - 1 else 0) ∧
        ((vcmpOp v).pred = some true ↔
          if v.p.cw.aux.getLsbD 0 then ∀ j, j < v.n → cmp v.o j = true else ∃ j, j < v.n ∧ cmp v.o j = true)) ∧
    (v.f.isFloat = true →
      let less := fun (a b : Val) => match a, b with
        | .nan, _ => false
        | _, .nan => false
        | .inf s, .inf t => s && !t
        | .inf s, _ => s
        | _, .inf t => !t
        | a, b => decide (a.toQ.num * b.toQ.den < b.toQ.num * a.toQ.den)
      let cmp := fun (o j : Nat) =>
        let x := valueOf (v.at 0 j) v.f 0
        let y := valueOf (v.at 1 j) v.f 0
        let un := x.isNan || y.isNan
        match o with
        | 0x220 => !un && !less x y && !less y x
        | 0x221 => less x y
        | 0x222 => !un && !less y x
        | _ => un
      0x220 ≤ v.o → v.o ≤ 0x223 → ∃ bits, (vfcmpOp v).bits = some bits ∧
        elemAt bits i e = (if cmp v.o i then 2 ^ e - 1 else 0) ∧
        ((vfcmpOp v).pred = some true ↔
          if v.p.cw.aux.getLsbD 0 then ∀ j, j < v.n → cmp v.o j = true else ∃ j, j < v.n ∧ cmp v.o j = true)) ∧
    (let t := fun (j : Nat) => decide (v.at 0 j ≠ 0)
     let before := fun (n : Nat) => ((List.range n).filter t).length
     (v.o = 0x142 → v.p.cw.aux = 0 → (vmaskOp v).bits = some (before v.n)) ∧
     (v.o = 0x142 → v.p.cw.aux = 1 → i < 64 → ∃ bits, (vmaskOp v).bits = some bits ∧ bits.testBit i = t i) ∧
     (v.o = 0x142 → v.p.cw.aux = 2 → t i = true → (∀ j, j < i → t j = false) → (vmaskOp v).bits = some i) ∧
     (v.o = 0x142 → v.p.cw.aux = 2 → (∀ j, j < v.n → t j = false) → (vmaskOp v).bits = some v.n) ∧
     (v.o = 0x143 → ∃ bits, (vmaskOp v).bits = some bits ∧ elemAt bits i e = before i % 2 ^ e))

/-- At the integer types, element k of a VCOMPACT is the element of the source at the k-th true index and zero past the last; element i of a VEXPAND is, where the mask is true, the source element numbered by the true elements before i, and zero elsewhere. -/
def Obligations.CompactAndExpandLanes : Prop :=
  ∀ (v : VIn) (i e : Nat), e = v.f.width → i < v.n → v.f.isInt = true →
    let t := fun (j : Nat) => decide (v.at 0 j ≠ 0)
    let idx := (List.range v.n).filter t
    (v.o = 0x140 → ∃ bits, (vmaskOp v).bits = some bits ∧
      elemAt bits i e = match idx[i]? with
        | some j => v.at 1 j
        | none => 0) ∧
    (v.o = 0x141 → ∃ bits, (vmaskOp v).bits = some bits ∧
      elemAt bits i e = if t i then v.at 1 (((List.range i).filter t).length) else 0)

/-- With a scalar destination, no initial value and no saturation, VREDADD gives the sum of the elements at width e, VREDMIN and VREDMAX the least and greatest signed element, sign-extended, VREDMINU and VREDMAXU the least and greatest unsigned one, zero-extended; with a vector destination element 0 holds the sum and the rest are zero. At a float type without an initial value, VFREDADD over one piece of 2^h elements gives the root of the tree of pairwise FP32 sums, VFREDMIN and VFREDMAX the least and greatest value, NaNs left out, each rounded into the type. -/
def Obligations.ReductionLanes : Prop :=
  (∀ (v : VIn) (e : Nat), e = v.f.width → 0 < v.n →
    v.f = .int8 ∨ v.f = .int16 ∨ v.f = .int32 ∨ v.f = .int64 → v.p.cw.src2 = Desc.zero → v.sat = false →
    ∃ bits, (vredOp v).bits = some bits ∧
    let x := fun (j : Nat) => BitVec.ofNat e (v.at 0 j)
    let sum := (List.range v.n).foldl (fun a j => a + x j) 0
    (∀ n, v.p.cw.dst = .sreg n →
      (v.o = 0x130 → bits = (sum.signExtend 64).toNat) ∧
      (v.o = 0x131 → ∃ j, j < v.n ∧ bits = ((x j).signExtend 64).toNat ∧ ∀ k, k < v.n → (x j).sle (x k) = true) ∧
      (v.o = 0x132 → ∃ j, j < v.n ∧ bits = ((x j).signExtend 64).toNat ∧ ∀ k, k < v.n → (x k).sle (x j) = true) ∧
      (v.o = 0x133 → ∃ j, j < v.n ∧ bits = (x j).toNat ∧ ∀ k, k < v.n → (x j).ule (x k) = true) ∧
      (v.o = 0x134 → ∃ j, j < v.n ∧ bits = (x j).toNat ∧ ∀ k, k < v.n → (x k).ule (x j) = true)) ∧
    (∀ n, v.p.cw.dst = .vreg n → v.o = 0x130 → bits = sum.toNat)) ∧
  ∀ (v : VIn) (e : Nat), e = v.f.width → v.f.isFloat = true → v.p.cw.src2 = Desc.zero →
    ∃ bits, (vfredOp v).bits = some bits ∧
    let x := fun (j : Nat) => valueOf (v.at 0 j) v.f 0
    (v.o = 0x230 → v.c = v.w → ∀ (h : Nat) (node : Nat → Nat → Val), v.n = 2 ^ h → h ≤ 7 → (∀ j, node 0 j = x j) →
      (∀ l j, node (l + 1) j =
        decodeIeee (roundIeee ((node l (2 * j)).add (node l (2 * j + 1)) v.rnd) .fp32 v.rnd v.sat) .fp32) →
      bits = roundIeee (node h 0) v.f v.rnd v.sat) ∧
    ((∀ j, j < v.n → (x j).isNan = true) → v.o = 0x231 ∨ v.o = 0x232 → bits = v.f.nanBits) ∧
    ∀ k, k < v.n → (x k).isNan = false →
      (v.o = 0x231 → ∃ j, j < v.n ∧ bits = roundIeee (x j) v.f v.rnd v.sat ∧ (x j).isNan = false ∧
        ∀ l, l < v.n → (x l).lt (x j) = false) ∧
      (v.o = 0x232 → ∃ j, j < v.n ∧ bits = roundIeee (x j) v.f v.rnd v.sat ∧ (x j).isNan = false ∧
        ∀ l, l < v.n → (x j).lt (x l) = false)

/-- For all natural arguments the six helpers give the values of the rule: the Barrett constant from its two halves, its low half, the reduction with at most two subtractions, the product by a constant with its companion, and the conditional sum and difference, each taken modulo 2^64. -/
def Obligations.ModularHelpers : Prop :=
  ∀ (t q k a b w wc : Nat),
    let low := fun (r : Int) => (r % 2 ^ 64).toNat
    (q = 0 → kFull q k = k ∧ kLow q = 0) ∧
    (q ≠ 0 → kFull q k = 2 ^ 64 / q * 2 ^ 64 + k ∧ kLow q = 2 ^ 128 / q % 2 ^ 64) ∧
    (let r0 : Int := (t : Int) - ((t * kFull q k / 2 ^ 128 * q : Nat) : Int)
     let r1 := if r0 ≥ q then r0 - q else r0
     modRed t q k = low (if r1 ≥ q then r1 - q else r1)) ∧
    (let r := low ((a : Int) * w - (a * wc / 2 ^ 64 : Nat) * q)
     mulC a w wc q = if r ≥ q then r - q else r) ∧
    (let r : Int := (a : Int) + b
     addM a b q = low (if r ≥ q then r - q else r)) ∧
    (let r : Int := (a : Int) - b
     subM a b q = low (if r < 0 then r + q else r))

/-- For 1 ≤ q < 2^62 and k = KLow(q), ModRed(t, q, k) is t mod q for every t below 2^128; for w < q < 2^62 and the companion floor(w × 2^64 / q), MulC is a × w mod q for every a below 2^64; AddM and SubM of reduced operands are the sum and difference mod q; a q of 0 gives t mod 2^64. -/
def Obligations.ModularResultsExact : Prop :=
  (∀ t q : Nat, 1 ≤ q → q < 2 ^ 62 → t < 2 ^ 128 → modRed t q (kLow q) = t % q) ∧
  (∀ a w q : Nat, w < q → q < 2 ^ 62 → a < 2 ^ 64 → mulC a w (w * 2 ^ 64 / q) q = a * w % q) ∧
  (∀ a b q : Nat, a < q → b < q → q < 2 ^ 64 → addM a b q = (a + b) % q ∧ subM a b q = (a + q - b) % q) ∧
  ∀ t k : Nat, modRed t 0 k = t % 2 ^ 64

/-- Element i of VMADM, VMSBM, VMULM and VMULMC is the helper's value at the modulus and constant of lane i mod 16; a VBFLY pair is x + u and x − u with u the twiddle times y, a VIBFLY pair x + y and the twiddle times x − y, at the lane of its even element; VMRED reduces the element, or, SIGNED, the signed reading of it; VMCENT gives a − q above q div 2 and a else, as a signed number; VMODSET gives every lane of M the element of a at its number modulo those of the container, and K the element of k there, or, with AUTO, its KLow; VMODGET gives a scalar the chosen lane of the chosen register and a vector the whole of it. -/
def Obligations.ModularLanes : Prop :=
  ∀ (v : VIn) (i : Nat), i < v.n →
    let q := fun (j : Nat) => (v.m.toNat >>> (64 * (j % 16))) % 2 ^ 64
    let kc := fun (j : Nat) => (v.k.toNat >>> (64 * (j % 16))) % 2 ^ 64
    let x := v.at 0
    let y := v.at 1
    (v.f = .mod64 → ∃ bits, (vmodOp v).bits = some bits ∧
      (v.o = 0x301 → elemAt bits i 64 = addM (x i) (y i) (q i)) ∧ (v.o = 0x302 → elemAt bits i 64 = subM (x i) (y i) (q i)) ∧
      (v.o = 0x303 → elemAt bits i 64 = modRed (x i * y i) (q i) (kc i)) ∧
      (v.o = 0x304 → elemAt bits i 64 = mulC (x i) (y i) (v.at 2 i) (q i) % 2 ^ 64)) ∧
    (v.f = .mod64 → i % 2 = 0 → i + 1 < v.n → ∃ bits, (vbflyOp v).bits = some bits ∧
      let tw := fun (a : Nat) => mulC a (y i) (y (i + 1)) (q i)
      (v.o = 0x305 → elemAt bits i 64 = addM (x i) (tw (x (i + 1))) (q i) ∧
        elemAt bits (i + 1) 64 = subM (x i) (tw (x (i + 1))) (q i)) ∧
      (v.o = 0x306 → elemAt bits i 64 = addM (x i) (x (i + 1)) (q i) ∧
        elemAt bits (i + 1) 64 = tw (subM (x i) (x (i + 1)) (q i)) % 2 ^ 64)) ∧
    (v.f = .mod64 ∨ v.f = .int64 → x i < 2 ^ 64 → ∃ bits, (vresOp v).bits = some bits ∧
      (v.o = 0x308 → v.p.cw.aux.getLsbD 0 = false → elemAt bits i 64 = modRed (x i) (q i) (kc i)) ∧
      (v.o = 0x308 → v.p.cw.aux.getLsbD 0 = true →
        let s := (BitVec.ofNat 64 (x i)).toInt
        let r := modRed (-s).toNat (q i) (kc i)
        elemAt bits i 64 = if 0 ≤ s then modRed s.toNat (q i) (kc i)
          else if r = 0 then 0 else (BitVec.ofInt 64 ((q i : Int) - r)).toNat) ∧
      (v.o = 0x309 → elemAt bits i 64 = if x i > q i / 2 then (BitVec.ofInt 64 ((x i : Int) - q i)).toNat else x i)) ∧
    (v.f = .mod64 → ∃ m k, (vmodsetOp v).pair = some (m, k) ∧ ∀ l, l < 16 →
      elemAt m.toNat l 64 = x (l % (v.w / 64)) % 2 ^ 64 ∧
      elemAt k.toNat l 64 = if v.p.cw.aux.getLsbD 0 then kLow (x (l % (v.w / 64))) % 2 ^ 64 else y (l % (v.w / 64)) % 2 ^ 64) ∧
    (∀ n, v.p.cw.dst = .sreg n → (vmodgetOp v).bits =
      some (if v.p.cw.aux.getLsbD 0 then kc (v.p.cw.aux.toNat / 2) else q (v.p.cw.aux.toNat / 2))) ∧
    (∀ n, v.p.cw.dst = .vreg n → ∃ bits, (vmodgetOp v).bits = some bits ∧ ∀ l, l < 16 →
      elemAt bits l 64 = if v.p.cw.aux.getLsbD 0 then kc l else q l)

/-- For a container of 4, 8, 16 or 512 elements of 64 bits and every legal stage s, with lo(j) the j-th index that has bit s clear: VPERM's PAIR puts elements lo(j) and lo(j) + 2^s at 2j and 2j + 1, UNPAIR puts elements 2j and 2j + 1 there, BITREV element i at the index with the bits of i reversed. So UNPAIR after PAIR is the identity, the other way round too, and BITREV twice; every source index is one of the container's. -/
def Obligations.PermutationsInvert : Prop :=
  (∀ (v : VIn) (s j : Nat), v.e = 64 → v.n = 4 ∨ v.n = 8 ∨ v.n = 16 ∨ v.n = 512 → s < Nat.log2 v.n → j < v.n / 2 →
    let a := v.p.cw.aux.toNat
    let lo := j / 2 ^ s * 2 ^ (s + 1) + j % 2 ^ s
    ∃ bits, (vpermOp v).bits = some bits ∧ lo + 2 ^ s < v.n ∧
      (a = 4 * s → elemAt bits (2 * j) 64 = v.at 0 lo % 2 ^ 64 ∧ elemAt bits (2 * j + 1) 64 = v.at 0 (lo + 2 ^ s) % 2 ^ 64) ∧
      (a = 4 * s + 1 → elemAt bits lo 64 = v.at 0 (2 * j) % 2 ^ 64 ∧
        elemAt bits (lo + 2 ^ s) 64 = v.at 0 (2 * j + 1) % 2 ^ 64)) ∧
  (∀ (v : VIn) (i r : Nat), v.e = 64 → v.n = 4 ∨ v.n = 8 ∨ v.n = 16 ∨ v.n = 512 → i < v.n → r < v.n → v.p.cw.aux = 2 →
    (∀ l, l < Nat.log2 v.n → r.testBit l = i.testBit (Nat.log2 v.n - 1 - l)) →
    ∃ bits, (vpermOp v).bits = some bits ∧ elemAt bits i 64 = v.at 0 r % 2 ^ 64) ∧
  ∀ (n st i : Nat), n = 4 ∨ n = 8 ∨ n = 16 ∨ n = 512 → st < Nat.log2 n → i < n →
    permIndex 0 st n i < n ∧ permIndex 1 st n i < n ∧ permIndex 2 0 n i < n ∧
    permIndex 0 st n (permIndex 1 st n i) = i ∧ permIndex 1 st n (permIndex 0 st n i) = i ∧
    permIndex 2 0 n (permIndex 2 0 n i) = i ∧ permIndex 0 0 n i = i

/-- At the integer types, element i of a piece of n elements is: for XBCAST the chosen one; for XROT that at (i + k) mod n; for XZIP alternately one of each source's chosen half; for XUNZIP the even or odd ones of both; for XTRN that of the transposed place; for XPERM the one whose pattern byte names i, else the fill, else zero. -/
def Obligations.CrossbarMoves : Prop :=
  ∀ (v : VIn) (i : Nat), v.f.isInt = true → i < v.n →
    let n := v.w / v.f.width
    0 < n →
    let base := i / n * n
    let j := i % n
    let a := v.p.cw.aux.toNat
    (∃ bits, (xmoveOp v).bits = some bits ∧
      (v.o = 0x341 → elemAt bits i v.f.width = v.at 0 (base + a % 128)) ∧
      (v.o = 0x342 → elemAt bits i v.f.width = v.at 0 (base + (j + v.rot) % n)) ∧
      (v.o = 0x343 → elemAt bits i v.f.width = v.at (j % 2) (base + (a % 2 * n / 2 + j / 2))) ∧
      (v.o = 0x344 → elemAt bits i v.f.width =
        if j < n / 2 then v.at 0 (base + 2 * j + a % 2) else v.at 1 (base + 2 * (j - n / 2) + a % 2)) ∧
      (v.o = 0x345 → elemAt bits i v.f.width = v.at 0 (base + j % 2 ^ (a % 8) * (n / 2 ^ (a % 8)) + j / 2 ^ (a % 8)))) ∧
    ∃ bits, (xpermOp v).bits = some bits ∧
      let pat := xpermPattern v.p.cw v.bank n
      (∀ k, k < n → pat[k]? = some j → j < 128 → (∀ l, l < k → pat[l]? ≠ some j) →
        elemAt bits i v.f.width = v.at 0 (base + k)) ∧
      ((∀ k, k < n → pat[k]? ≠ some j) → j < 128 →
        elemAt bits i v.f.width = if v.p.cw.src3 = Desc.zero then 0 else v.at 2 j)

/-- The 31 positive TF6 codes decode, in order, to the values of the rule's table; the listed TF8 codes decode to the listed values, 0x80 to NaR, 0x40 to 1, 0xC0 to −1, 0x7F to 4,096. Element i of VCVT, VFROUND, VREQ, VREQ8, VFREQ and of the special functions is what the rule's formula gives from the source elements: the chosen source element converted, an integer result clamped with SAT, elements past the last source element zero; a float rounded to an integer that keeps its sign; the exact product with the shift, plus the zero point, rounded to an integer and then into the type; the helper's value. -/
def Obligations.TaperedValues : Prop :=
  (∀ c num den, (c, num, den) ∈ ([(0x01, 1, 256), (0x02, 1, 64), (0x03, 1, 32), (0x04, 1, 16), (0x05, 3, 32), (0x06, 1, 8),
      (0x07, 3, 16), (0x08, 1, 4), (0x09, 5, 16), (0x0A, 3, 8), (0x0B, 7, 16), (0x0C, 1, 2), (0x0D, 5, 8), (0x0E, 3, 4),
      (0x0F, 7, 8), (0x10, 1, 1), (0x11, 5, 4), (0x12, 3, 2), (0x13, 7, 4), (0x14, 2, 1), (0x15, 5, 2), (0x16, 3, 1),
      (0x17, 7, 2), (0x18, 4, 1), (0x19, 6, 1), (0x1A, 8, 1), (0x1B, 12, 1), (0x1C, 16, 1), (0x1D, 32, 1), (0x1E, 64, 1),
      (0x1F, 256, 1)] : List (Nat × Int × Nat)) → ∃ q, decodeTF c 6 = .fin q ∧ q.num * den = num * q.den ∧ 0 < q.den) ∧
  (∀ c num den, (c, num, den) ∈ ([(0x00, 0, 1), (0x01, 1, 4096), (0x02, 1, 1024), (0x03, 1, 512), (0x23, 19, 64),
      (0x3F, 31, 32), (0x40, 1, 1), (0xC0, -1, 1), (0x41, 17, 16), (0x62, 5, 1), (0x79, 96, 1), (0x7A, 128, 1),
      (0x7E, 1024, 1), (0x7F, 4096, 1), (0xA3, -19, 64)] : List (Nat × Int × Nat)) →
    ∃ v, decodeTF c 8 = v ∧ v.toQ.num * den = num * v.toQ.den ∧ 0 < v.toQ.den ∧ v.isNan = false) ∧
  (decodeTF 0x80 8).isNan = true ∧
  ∀ (v : VIn) (i e : Nat), i < v.n → e = v.f.width →
    (v.f ∉ [Fmt.raw, .mod64] → v.sfmt ∉ [Fmt.raw, .mod64] → ∃ bits, (vcvtOp v).bits = some bits ∧
      let es := v.sfmt.width
      let j := v.p.cw.aux.toNat / 16 * v.n + i
      let a := (srcAt v.srcs 0).elem j es
      let y := valueOf a v.sfmt v.sscale
      let t : Int := if v.sfmt = .uint8 then a else (BitVec.ofNat es a).toInt
      (v.c / es ≤ j → elemAt bits i e = 0) ∧
      (j < v.c / es →
        (v.f.isInt = true → v.sfmt.isInt = true →
          elemAt bits i e = (BitVec.ofInt e (if v.sat then clampInt t v.f else t)).toNat) ∧
        (v.f.isInt = true → v.sfmt.isInt = false → elemAt bits i e = cvtToInt y v.f v.rnd) ∧
        (v.f.isFloat = true → elemAt bits i e = roundIeee y v.f v.rnd v.sat) ∧
        (v.f.isTapered = true → elemAt bits i e = encodeTF (y.scale (-v.dscale)) e v.rnd))) ∧
    (v.f.isFloat = true → ∃ bits, (vfroundOp v).bits = some bits ∧
      elemAt bits i e = match valueOf (v.at 0 i) v.f 0 with
        | .fin q => roundIeee (Val.ofQ ⟨roundToInteger q v.rnd, 1⟩ (decide (q.num < 0))) v.f .rne false
        | x => roundIeee x v.f .rne false) ∧
    (v.f = .int8 ∨ v.f = .uint8 ∨ v.f = .int16 → v.o = 0x150 ∨ v.o = 0x151 → ∃ bits, (vreqOp v).bits = some bits ∧
      let x := fun (n : Nat) => (BitVec.ofNat 32 ((srcAt v.srcs n).elem i 32)).toInt
      let z : Int := if v.p.cw.src3 = Desc.zero then 0 else x 2
      let sh := v.p.cw.aux.toNat % 64
      let r := roundToInteger ⟨x 0 * x 1 + z * (2 ^ sh : Nat), 2 ^ sh⟩ (if v.o = 0x151 then .rne else v.rnd)
      elemAt bits i e = if i < v.c / 32 then
          (BitVec.ofInt e (if v.o = 0x151 ∨ v.sat = true then clampInt r v.f else r)).toNat
        else 0) ∧
    (v.f ∉ [Fmt.raw, .mod64] → ∃ bits, (vfreqOp v).bits = some bits ∧
      let x := fun (n : Nat) => decodeIeee ((srcAt v.srcs n).elem i 32) .fp32
      let y := ((x 0).mul (x 1)).add (if v.p.cw.src3 = Desc.zero then .zero false else x 2) v.rnd
      elemAt bits i e = if v.c / 32 ≤ i then 0
        else if v.f.isInt then cvtToInt y v.f v.rnd else roundVal y v.f v.rnd v.sat v.dscale) ∧
    (v.f = .fp32 → ∃ bits, (vspecOp v).bits = some bits ∧
      ∀ o r, (o, r) ∈ [(0x250, rcpApprox (v.at 0 i)), (0x251, rsqApprox (v.at 0 i)), (0x252, rcpStep (v.at 0 i) (v.at 1 i)),
          (0x253, rsqStep (v.at 0 i) (v.at 1 i)), (0x254, exp2Approx (v.at 0 i))] → v.o = o → elemAt bits i 32 = r)

/-- For every well-formed instruction: a part of a bundle, a control operation and a micro-op have words, and so has each of the eleven packets, with every field; and decoding the words of any instruction that has some gives it back with every field. And whatever decoding accepts is well-formed, so no reserved encoding decodes. -/
def Obligations.DecodeEncode : Prop :=
  (∀ i : Instr, wellFormed i = true →
    (view i ≠ .step → encode i ≠ .none) ∧ (encode i ≠ .none → decodeWords (encode i) = some i) ∧
    ((∃ h, i ∈ [Instr.pktNop h, .beginBatch h, .commitBatch h, .fetchFence h]) ∨
      (∃ h d s v, i ∈ [Instr.launchPkt h d s v, .graphPkt h d s v]) ∨ (∃ h d n a b c e, i = .writePkt h d n a b c e) ∨
      (∃ h a m v o t, i = .waitmemPkt h a m v o t) ∨ (∃ h b t, i = .pktLoop h b t) ∨ (∃ h b n, i = .indirectPkt h b n) ∨
      (∃ h a v st irq vec, i = .signalPkt h a v st irq vec) →
      ∃ (q : BitVec 1) (n : BitVec 6) (ws : List W64), encode i = .packet q n ws ∧ ws.length = 8 ∧ decodePkt q n ws = .ok i)) ∧
  ∀ (w : Words) (i : Instr), decodeWords w = some i → wellFormed i = true

/-- From every state whose memory is in canonical form (addresses strictly rising, no entry equal to what an unlisted address reads as), whatever step the machine takes, of any agent, leaves it so; and so does every instruction executed by itself. -/
def Obligations.StepKeepsMemoryForm : Prop :=
  (∀ s t : State, s.Inv → step s = .next t → t.Inv) ∧
  ∀ (i : Instr) (s t : State), s.Inv → exec i s = .next t → t.Inv

/-- At reset memory is in canonical form, every context of every core is UNBOUND with every stored CSR zero, every die has domains 0 to 4 of sixteen slices, all-ones hash masks and its regions dealt to the domains in turn. With nothing placed, the first four steps are bring-up: after each BOOTSTAT reads the STAGE just completed, without FATAL, at both ports; after the fourth HPSTAT.READY is set at both ports, every location of the device is zero, and every core holds the standard routines with its contexts UNBOUND. Memory reading zero before bring-up, the presence of every register at zero and a step for each stage are the model's choice (log 4, 5, 12, 20). -/
def Obligations.ResetState : Prop :=
  State.reset.Inv ∧
  (∀ c x n, let y := (State.reset.mach.core c).ctx x
    y.st = .unbound ∧ y.rC n = 0 ∧ y.inh = false ∧ (State.reset.mach.core c).launch = none ∧
      (State.reset.mach.core c).owner = none) ∧
  (∀ d, d < 4 →
    (∀ n, n < 8 → State.reset.mach.dieReg d (0x100 + 8 * n) =
      (if n ≤ 4 then BitVec.ofNat 64 (16 * n + 4 * 2 ^ 7 + 2 ^ 10) else 0) ∧
      State.reset.mach.dieReg d (0x140 + 8 * n) = BitVec.ofNat 64 (2 ^ 46 - 1)) ∧
    ∀ r, r < 52 → State.reset.mem.l2sel d r = r % 5 ∧ selIn (State.reset.mach.dieReg d) r = r % 5) ∧
  ∃ t1 t2 t3 t, step State.reset = .next t1 ∧ step t1 = .next t2 ∧ step t2 = .next t3 ∧ step t3 = .next t ∧
    (∀ p, p < 2 → ∀ n u, (n, u) ∈ [(1, t1), (2, t2), (3, t3), (4, t)] →
      fld (u.mach.portReg p 0x018) 3 0 = n ∧ flag (u.mach.portReg p 0x018) 4 = false) ∧
    t2.mem = Mem.zero ∧ t.mem = Mem.zero ∧ (∀ p, p < 2 → flag (t.mach.portReg p 0x000) 2 = true) ∧
    ∀ c, c < 640 → (t.mach.core c).rtab = stdTable ∧ (t.mach.core c).ctxs = [] ∧ (t.mach.core c).launch = none

/-- Where the parcels at a context's pc decode to the parts ps, the fetch finds exactly ps. When the turn is a context's and its next bundle is not skipped and may issue, step is exec of its parts one after the other, the control operation last, on the opened bundle, whose parts see the registers and the CSRs as they stood; the bundle then closes. When the turn is a sequencer's and the routine is no controller's, step is exec of the micro-op its word decodes to; when it is a packet's, exec of the packet; and the agenda's next event is run by exec. Closing moves the context to the address its bundle left. Where a check of R43 fails, once the interlock is over, the step enters the handler with that check's cause at the bundle, or ends fatal where R306 and R307 say so; the checks are made in their order, each over all parts in theirs: an illegal bundle first, then an encoding error of a part with no legal part before it; among the others ALIGN before XLATE for a load, SPAWNBUSY, GUARD, BAROVR. The order of turns and the agenda are log 1, the fetch at issue log 16: the model's own clauses. -/
def Obligations.StepRunsDecoded : Prop :=
  (∀ (k : Core) (x a n : Nat) (ps : List Instr), bundleParcels (Tab.get 0 k.ispad (a / 8)) = some n →
    a % 8 = 0 → a + 8 * n ≤ 0x40000 → a / 0x20000 = (a + 8 * n - 1) / 0x20000 →
    decodeBundle ((List.range n).map (fun j => Tab.get 0 k.ispad (a / 8 + j))) (fun j => Tab.get 0 (k.ctx x).cwt j) = .ok ps →
    k.look x a = ⟨ps, none, 8 * n⟩) ∧
  (∀ (s : State) (c x : Nat), s.mach.agenda = [] → turn s = .issue c x →
    let n := nextBun s c x
    n.1.ruling n.2 = .go →
    let opened := s.open' c x (n.1.act n.2 .go)
    n.2 = (s.mach.core c).look x ((s.mach.core c).ctx x).pc.toNat ∧
    step s = Out.map' (fun t => t.close c) (execAll (issueOrder n.2.parts) opened) ∧
    ∃ b, opened.here.issue = some b ∧ b.ctx = x ∧ b.h = ((s.mach.core c).ctx x).pc ∧ b.size = n.2.size ∧
      b.pre = ((s.mach.core c).ctx x).regs ∧ b.csr = ((s.mach.core c).ctx x).csr ∧ b.next = BitVec.ofNat 64 (b.h.toNat + b.size)) ∧
  (∀ (s : State) (i : Instr) (t : List Instr), execAll [] s = .next s ∧
    execAll (i :: t) s = (match exec i s with
      | .next s' => execAll t s'
      | .fault r => .fault r
      | .refused r => .refused r)) ∧
  (∀ (s : State) (c : Nat) (r : Routine) (i : Instr), s.mach.agenda = [] → turn s = .micro c →
    (s.mach.core c).running = some r → r.ctrl = false →
    (Tab.get REntry.zero (s.mach.core c).rtab r.routine).start ≤ r.upc →
    r.upc < (Tab.get REntry.zero (s.mach.core c).rtab r.routine).start + (Tab.get REntry.zero (s.mach.core c).rtab r.routine).nwords →
    decodeUop (Tab.get 0 (s.mach.core c).ustore r.upc) = .ok (some i) →
    step s = exec i (s.focus c s.mach.focusCtx)) ∧
  (∀ (s : State) (i : Instr), s.mach.agenda = [] → turn s = .packet i → step s = exec i s) ∧
  (∀ (s : State) (i : Instr) (t : List Instr), s.mach.agenda = i :: t → isEvent i = true →
    step s = exec i { s with mach := { s.mach with agenda := t } }) ∧
  (∀ (s : State) (c x : Nat) (t : Trap), s.mach.agenda = [] → turn s = .issue c x →
    let n := nextBun s c x
    n.1.ruling n.2 = .trap t →
    step s = .next ((s.open' c x ((s.mach.core c).issueFault x t ((s.mach.core c).ctx x).pc)).idle)) ∧
  (∀ (b : Bun) (seen : Seen), b.k.held b.x = false → b.s.mach.stopped b.c = false → b.ctx.markWait = none →
    (∀ e, seen.err = some e → e.err = .illBundle → b.ruling seen = .trap ⟨0x01, 0, false, 0, 0⟩) ∧
    (∀ e, seen.err = some e → e.err ≠ .illBundle → seen.parts = [] → b.ruling seen = .trap ⟨0x02, e.part, false, 0, 0⟩) ∧
    (seen.err = none → b.interlocked seen.parts = false → b.skips seen = false →
      ∀ t, b.checks seen.parts none = some t → b.ruling seen = .trap t)) ∧
  (∀ (b : Bun) (ps : List Instr),
    let live := fun (f : Instr → Option Trap) (i : Instr) => if b.live i then f i else none
    let stages : List (Instr → Option Trap) := [live b.chk1,
      (fun i => if maskedOp b.s.mach.featMask i then some ⟨0x02, partNo i, false, 0, 0⟩ else live b.chk2 i),
      live b.chk3, live b.chk4, live b.chk5,
      live (fun i => if ps.any (fun j => b.live j && decide (partNo i ≠ partNo j) && clash b.k b.regs b.ctx.vbase i j) then
        some ⟨0x06, partNo i, false, 0, 0⟩ else none),
      live b.chk7, live b.chk8, (fun i => firstSome [b.abrChk i, live b.chk9 i]), live b.chk10, live b.chk11, live b.chk12]
    (b.checks ps none = none ↔ ∀ f ∈ stages, ∀ i ∈ ps, f i = none) ∧
    ∀ (l l' : List (Instr → Option Trap)) (f : Instr → Option Trap) (q q' : List Instr) (i : Instr) (t : Trap),
      stages = l ++ f :: l' → ps = q ++ i :: q' → (∀ g ∈ l, ∀ j ∈ ps, g j = none) → (∀ j ∈ q, f j = none) → f i = some t →
      b.checks ps none = some t) ∧
  (∀ (b : Bun) (p : Part) (g : BitVec 4) (off : BitVec 17) (t : BitVec 2) (n : BitVec 6),
    let ea := accessAddr b.regs b.ctx.cbank 0x40 p
    (ea % accessSize p ≠ 0 → b.chk9 (.ld p) = some ⟨0x09, 1, false, 0, ea⟩) ∧
    (ea % accessSize p = 0 → ∀ r, b.tr ea accRead = .fail r → b.chk9 (.ld p) = some ⟨0x0A, 1, false, r * 2 ^ 17, ea⟩) ∧
    (ea % accessSize p = 0 → ∀ sp ad sa, b.tr ea accRead = .ok sp ad sa → b.chk9 (.ld p) = none) ∧
    (t.toNat = b.x ∨ (b.k.ctx t.toNat).st ≠ .idle → b.chk10 (.spawn g off t) = some ⟨0x0B, 0, false, 0, 0⟩) ∧
    (t.toNat ≠ b.x → (b.k.ctx t.toNat).st = .idle → b.chk10 (.spawn g off t) = none) ∧
    (flag (b.ctx.rC 0x78) 20 = true → b.chk11 (.waitb g n) = some ⟨0x0C, 0, false, 0, 0⟩) ∧
    (∀ m, b.k.handle (b.regs.rS n.toNat) = some m → (b.k.bar m).ovr = true → b.chk12 (.waitb g n) = some ⟨0x0D, 0, false, 0, 0⟩)) ∧
  ∀ (k : Core) (b : Issue), k.issue = some b → b.swtrap = none →
    k.closeIssue.issue = none ∧ k.closeIssue.seq = k.seq + 1 ∧ (k.closeIssue.ctx b.ctx).pc = b.next ∧
      (k.closeIssue.ctx b.ctx).regs = (k.ctx b.ctx).regs

/-- The bundle worked to the bit in chapter 1 (branch, scalar add, vector add, routine call), the copy parcel of chapter 10, the SPAWN header of chapter 22, micro-op words of chapters 7 and 18 and a BEGIN packet decode to the instructions the spec gives; a reserved template has no parcels. -/
def Obligations.DecodeWords : Prop :=
  let cw := fun (a b c d : Nat) => BitVec.ofNat 256 (a * 2 ^ 192 + b * 2 ^ 128 + c * 2 ^ 64 + d)
  let z := Desc.queue 0 0 false
  decodeBundle [0x120FFFFA00100411, 0x060006003E040040] (fun n =>
      if n = 0x10 then cw 0x005410002F000000 0x004000A000000000 1 0
      else if n = 0x11 then cw 0x8060000802000600 0x0004000000000000 0 0 else 0) =
    .ok [.br 2 0x7FFFA,
      .add ⟨.sc, 0, false, 0, 0x010, ⟨5, 0, 0, .sreg 5, .lit false, z, .sreg 5, 0, 0, 0, 1, 0⟩⟩,
      .vfadd ⟨.va, 0, false, 2, 0x011, ⟨8, 0, 0, .queue 0 0 true, .vreg 3, z, .queue 1 0 false, 0, 0, 0, 0, 0⟩⟩,
      .mcall 3 true 0x81 0x40] ∧
  decodeCp 0x0460832460005000 = .ok (some (.cpcomp ⟨0, false, 2, 3, 9, .queue 3 0 false, 20, 0, 0, 0⟩)) ∧
  decodeCtl 0x0247FF7906000600 = .ok (some (.spawn 2 0x1FFDE 1)) ∧
  decodeUop 0x0800200000000000 = .ok (some (.mlda ⟨0, 0, 0, 1, 0⟩)) ∧
  decodeUop 0x0C80000000000000 = .ok (some (.mldb ⟨1, 0, 0, 0, 0⟩)) ∧
  decodeUop 0x1120000000000000 = .ok (some (.mmac ⟨2, 2, 0, 0, 0⟩)) ∧
  decodePkt 0 3 [0x100001, 0, 0, 0, 0, 0, 0, 0] = .ok (.beginBatch ⟨0, 3, false, 0x10⟩) ∧
  bundleParcels 0x4000000006000600 = none

/-- In an open bundle a part whose guard reads false changes nothing. Whatever part executes, memory stands; if its guard reads true every other core stands, and, for every part but SPAWN and ERET (which write their target's registers and re-execute faulted parts), every register of every context outside the part's write set of R44 holds what it held. -/
def Obligations.PartsFrame : Prop :=
  ∀ (s t : State) (i : Instr), isPart i = true → exec i s = .next t →
    t.mem = s.mem ∧
    ∀ b, s.here.issue = some b →
      (b.pre.rP (guardOf i).toNat = false → t = s.idle) ∧
      (b.pre.rP (guardOf i).toNat = true →
        (∀ d, d ≠ s.mach.focusCore → t.mach.core d = s.mach.core d) ∧
        ((∀ g, i ≠ .eret g) → (∀ g off x, i ≠ .spawn g off x) → ∀ x, SameRegs s t s.mach.focusCore x
          (if x = b.ctx then writeKeys (s.here.ctx b.ctx).vbase i else [])))

/-- Core (die, x, y) belongs to cluster (x div 4) + 5 × (y div 4) of its die, a number from 0 to 9, and to module cluster die × 10 + that number; each module cluster has sixteen cores, and the controllers are those of clusters 0 to 39: a step of any other controller, as of a core beyond 639 or a context beyond 3, names a unit that does not exist and stops (log 14). -/
def Obligations.ClustersAndUnits : Prop :=
  (∀ d x y, d < 4 → x < 20 → y < 8 →
    clusterOf (d * 160 + y * 20 + x) = d * 10 + (x / 4 + 5 * (y / 4)) ∧ x / 4 + 5 * (y / 4) < 10) ∧
  (∀ k, k < 40 → ((List.range 640).filter (fun c => clusterOf c == k)).length = 16) ∧
  (∀ (s : State) (k : Nat), exec (.rlcStep k) s = .fault .noSuchUnit ↔ 40 ≤ k) ∧
  ∀ (s : State) (c x n : Nat), 640 ≤ c ∨ 4 ≤ x →
    (∀ i ∈ [Instr.loadComplete c x, .atomicComplete c x, .nullifierSkip c x, .bundleUnblock c x, .fenceComplete c x, .ifenceComplete c x, .dbarRelease c x, .haltDrained c x, .trapEnter c x, .ephStallPass c x],
      exec i s = .fault .noSuchUnit) ∧
    (640 ≤ c → ∀ i ∈ [Instr.launchEndCore c, .fatalFault c, .preemptSave c, .saveAreaCheck c, .routineStart c, .dividerComplete c, .routineRetire c n, .stageFetchDone c n, .vbSplitStart c n, .vectorPartComplete c n, .copyStart c n, .copyLand c n, .cpverCommit c n, .fillLand c n, .barrierArrive c n, .storePerform c n],
      exec i s = .fault .noSuchUnit)

/-- A context that holds the issue unit at a bundle boundary outside its handler takes its oldest record: ECAUSE, EADDR, EPC, ENEXT and ESLOTS come from the record, INH is set, TRAPS rises by one, and the handler's address is next; registers, predicates, LOOPST, queues, the other contexts and memory stand. With EVEC not VALID the fault is fatal with NOVEC. ERET clears INH and goes on at EPC after KIND 0 and at ENEXT after KIND 1, as they stood before its bundle; with no faulting part in the record nothing else changes. A fatal fault of a core that runs no launch is forgotten; else its launch is stopped with it. A TRAP enters the handler as its bundle closes, with SWTRAP, its code in INFO, EPC and ENEXT the next bundle; inside the handler it is fatal. -/
def Obligations.TrapEntryAndReturn : Prop :=
  (∀ (s : State) (c x : Nat) (r : FaultRec) (l : List FaultRec), c < 640 → x < 4 →
    let k := s.mach.core c
    let y := k.ctx x
    y.waiting = r :: l → k.issue = none → y.st = .issuing → y.inh = false → s.mach.stopped c = false →
    (flag (y.rC 0xF0) 0 = true → ∃ t, exec (.trapEnter c x) s = .next t ∧
      (let z := (t.mach.core c).ctx x
       fld (z.rC 0xF1) 7 0 = r.code % 256 ∧ fld (z.rC 0xF1) 10 8 = r.part % 8 ∧ flag (z.rC 0xF1) 11 = r.kind ∧
       fld (z.rC 0xF1) 63 16 = fld r.info 63 16 ∧ z.rC 0xF2 = r.eaddr ∧
       z.rC 0xF3 = BitVec.ofNat 64 (fld r.bundle 17 0) ∧ z.rC 0xF4 = BitVec.ofNat 64 (fld r.next 17 0) ∧
       z.rC 0xF5 = BitVec.ofNat 64 r.mask.toNat ∧ z.rC 0xF9 = y.rC 0xF9 + 1 ∧ z.inh = true ∧
       z.pc = BitVec.ofNat 64 (8 * fld (y.rC 0xF0) 17 3) ∧ z.waiting = l ∧ z.regs = y.regs ∧ z.rC 0x48 = y.rC 0x48 ∧
       z.queues = y.queues ∧ z.st = y.st) ∧
      (∀ n, n ≠ x → (t.mach.core c).ctx n = k.ctx n) ∧ (∀ d, d ≠ c → t.mach.core d = s.mach.core d) ∧ t.mem = s.mem) ∧
    (flag (y.rC 0xF0) 0 = false → ∃ t, exec (.trapEnter c x) s = .next t ∧
      (t.mach.core c).fatal = (if k.fatal.isSome then k.fatal else some (x, 0x31, r.bundle)) ∧ t.mem = s.mem)) ∧
  (∀ (s : State) (b : Issue) (g : BitVec 4), Runs s b g →
    let y := s.here.ctx b.ctx
    let pc := if flag (b.rC 0xF1) 11 then b.rC 0xF4 else b.rC 0xF3
    (∃ t, exec (.eret g) s = .next t ∧ (t.here.ctx b.ctx).inh = false ∧ t.mem = s.mem) ∧
    (y.residue (b.rC 0xF5) = ([], []) → exec (.eret g) s = .next (s.did (fun k =>
      { k.eret b.ctx pc with issue := some { b with next := pc } })))) ∧
  (∀ (k : Core) (x : Nat) (pc : W64), let y := (k.eret x pc).ctx x
    y.inh = false ∧ y.handling = none ∧ y.pc = pc ∧ y.regs = (k.ctx x).regs ∧ y.csr = (k.ctx x).csr ∧ y.queues = (k.ctx x).queues) ∧
  (∀ (s : State) (c : Nat) (f : Nat × Nat × W64), c < 640 → (s.mach.core c).fatal = some f →
    ∃ t, exec (.fatalFault c) s = .next t ∧ t.mem = s.mem ∧ ((s.mach.core c).launch = none → (t.mach.core c).fatal = none) ∧
      ∀ id l, (s.mach.core c).launch = some id → s.mach.launch id = some l → l.status = 0 →
        ∃ l', t.mach.launch id = some l' ∧ l'.status = 1 ∧ l'.fcause = f.2.1 ∧ l'.fcore = c ∧ l'.fctx = f.1 ∧ l'.fepc = f.2.2) ∧
  ∀ (k : Core) (b : Issue) (code : Nat), k.issue = some b → b.swtrap = some code → (k.ctx b.ctx).inh = false →
    flag ((k.ctx b.ctx).rC 0xF0) 0 = true → code < 256 →
    let z := k.closeIssue.ctx b.ctx
    fld (z.rC 0xF1) 7 0 = 0x20 ∧ flag (z.rC 0xF1) 11 = false ∧ fld (z.rC 0xF1) 23 16 = code ∧
      z.rC 0xF3 = BitVec.ofNat 64 (fld b.next 17 0) ∧ z.rC 0xF4 = BitVec.ofNat 64 (fld b.next 17 0) ∧ z.rC 0xF5 = 0 ∧
      z.inh = true ∧ z.pc = BitVec.ofNat 64 (8 * fld ((k.ctx b.ctx).rC 0xF0) 17 3)

/-- NULLIFIER_SKIP moves its context past a bundle all of whose guards read false, once nothing holds it back and its appends have room, counts one skip and changes no register. FENCE_COMPLETE and IFENCE_COMPLETE clear their fence, and a blocked context whose next bundle nothing holds back goes on, else it stays blocked for what does. DBAR_RELEASE makes the arrival; the last one lets every member of the domain pass, which flips PHASE: all of them in one step is log 32, the model's own clause. HALT_DRAINED discards the records of a context that halts in its handler (R307), before the context goes IDLE, an order that is log 32's; it leaves a halting context without any IDLE. BUNDLE_UNBLOCK lets a blocked context go on once its bundle may issue. VB_SPLIT_START starts a waiting part whose lane groups are free; VECTOR_PART_COMPLETE retires a part and puts its register result in place. None of them changes memory. -/
def Obligations.WaitsEnd : Prop :=
  ∀ (s : State) (c x : Nat), c < 640 → x < 4 →
    let k := s.mach.core c
    let y := k.ctx x
    let n := nextBun s c x
    (y.st = .issuing → y.waiting = [] → k.issue = none → k.held x = false → s.mach.stopped c = false →
      n.1.interlocked n.2.parts = false → n.1.skips n.2 = true → k.standing x = none → n.1.fullQueues n.2.parts = [] →
      ∃ t, exec (.nullifierSkip c x) s = .next t ∧ t.mem = s.mem ∧ SameRegs s t c x [] ∧
        ((t.mach.core c).ctx x).pc = BitVec.ofNat 64 (y.pc.toNat + n.2.size) ∧
        (((t.mach.core c).rC 0x53 = k.rC 0x53 + 1 ∧ (t.mach.core c).rC 0x54 = k.rC 0x54) ∨
         ((t.mach.core c).rC 0x53 = k.rC 0x53 ∧ (t.mach.core c).rC 0x54 = k.rC 0x54 + 1))) ∧
    (∀ sc, y.fence = some sc → k.fenceDone x = true → exec (.fenceComplete c x) s =
      .next (((s.onCore c (fun k => k.upd x (fun y => { y with fence := none }))).settle c x).idle)) ∧
    (y.ifence = true → k.copiesOf x (fun d => d.fl.isCode) = false → k.parkedOf x (fun d => d.fl.isCode) = false →
      k.owes x (fun f => decide (partNo f.i = 6) && f.isCode) = false → exec (.ifenceComplete c x) s =
      .next (((s.onCore c (fun k => k.upd x (fun y => { y with ifence := false }))).settle c x).idle)) ∧
    (∀ (s' : State), let n' := nextBun s' c x
      let y' := (s'.mach.core c).ctx x
      let t := s'.settle c x
      t.mem = s'.mem ∧ SameRegs s' t c x [] ∧ (y'.st ≠ .blocked → t = s') ∧
      (y'.st = .blocked → s'.mach.stopped c = false →
        (n'.1.ruling n'.2 = .go ∨ n'.1.ruling n'.2 = .skip → (s'.mach.core c).selected = some x →
          ((t.mach.core c).ctx x).st = .issuing ∧ ((t.mach.core c).ctx x).blk = none) ∧
        (∀ w, n'.1.ruling n'.2 = .block w → ((t.mach.core c).ctx x).st = .blocked ∧ ((t.mach.core c).ctx x).blk = some w))) ∧
    (∀ d dom, y.dbar = some d → d.arrived = true ∨ k.dbarQuiet x = true → (s.mach.member c x).domain d.level = some dom →
      let m := s.mach.upd c (fun k => k.upd x (fun y => { y with dbar := some ⟨d.level, true⟩ }))
      let ph := y.phase d.level
      let all := decide (((m.domainOf (m.member c x) d.level).filter (fun z => z.arrived d.level ph)).length ≥ y.memberCount d.level)
      let after := fun (m : Mach) => ((released s.mach m).foldl (fun (u : State) e => u.settle e.1 e.2) { s with mach := m }).idle
      (all = true → exec (.dbarRelease c x) s = .next (after (m.passDbar d.level dom ph))) ∧
      (all = false → d.arrived = false → exec (.dbarRelease c x) s = .next (after m))) ∧
    (∀ (z : Ctx) (lv : Nat), 1 ≤ lv → lv ≤ 5 → (z.passDbar lv).phase lv = !z.phase lv ∧ (z.passDbar lv).regs = z.regs ∧
      (z.passDbar lv).dbar = none) ∧
    (haltReady k x = true → ∃ t, exec (.haltDrained c x) s = .next t ∧ t.mem = s.mem ∧ SameRegs s t c x [] ∧
      (let z := (t.mach.core c).ctx x
       (y.discards = true → z.st = .halting ∧ z.discards = false ∧ z.waiting = [] ∧ z.pc = y.pc) ∧
       (y.discards = false → z.st = .idle ∧ z.inh = false ∧ z.handling = none ∧ z.waiting = [] ∧ z.pc = y.pc))) ∧
    (y.st = .blocked → y.wait = none → s.mach.stopped c = false → n.1.ruling n.2 = .go → k.selected = some x →
      ∃ t, exec (.bundleUnblock c x) s = .next t ∧ t.mem = s.mem ∧ SameRegs s t c x [] ∧
        ((t.mach.core c).ctx x).st = .issuing ∧ ((t.mach.core c).ctx x).blk = none) ∧
    ∀ idx v, k.vparts[idx]? = some v →
      (splitReady k idx = true → exec (.vbSplitStart c idx) s = .next (s.stepOn c (fun k =>
        let k' := vecStart c s.mach.tick v.fl (vecOpOf (opcOf v.fl.i)) { k with vparts := dropNth k.vparts idx }
        if v.fl.iss.redo then k' else k'.incAc s.mach.tick 0xA4))) ∧
      (v.waiting = false → ∃ t, exec (.vectorPartComplete c idx) s = .next t ∧ t.mem = s.mem ∧
        (t.mach.core c).vparts = dropNth k.vparts idx ∧
        (k.raced = [] → (∀ r w e, v.writes = [.vreg r w e] → w ≤ 1024 →
          (∀ j, (Tab.get 0 (t.mach.core c).vpool r).getLsbD j =
            if j < w then e.testBit j else (Tab.get 0 k.vpool r).getLsbD j) ∧
          ∀ q, q ≠ r → Tab.get 0 (t.mach.core c).vpool q = Tab.get 0 k.vpool q) ∧
        (∀ r e, v.writes = [.sreg r e] → r ≠ 0 → ((t.mach.core c).ctx v.fl.iss.ctx).regs.rS r = e) ∧
        ∀ q e, v.writes = [.pred q e] → q ≠ 0 → q < 16 → ((t.mach.core c).ctx v.fl.iss.ctx).regs.rP q = e))

/-- MCALL puts a routine at the end of the routine queue with private copies of A0 to A7, A7 taking the immediate in bits 17:0 as the context's own does, the metadata word at MDPC, which steps by 8, and the positions reserved for it. The first routine that has not started becomes the running one when none runs. A fetched tile joins its stage, or fills its block with the bank's format as its tag. A routine retires after MRET once its fetches, its fills and its appends to a splice are done. MSLOAD waits, and with no routine queued, its units moved by the ports (at once is the model's choice, log 19) and an image that passes every check it writes the words and the table entry, and its result is START. -/
def Obligations.MatrixCallsAndRoutines : Prop :=
  (∀ (s : State) (b : Issue) (g : BitVec 4) (ar : Bool) (n : BitVec 8) (imm : BitVec 18), Runs s b g →
    let y := s.here.ctx b.ctx
    let e := Tab.get REntry.zero s.here.rtab n.toNat
    let mdpc := (b.rC 0x98).toNat
    let w := Tab.get 0 s.here.ispad (mdpc / 8)
    let a7 := fun (v : W64) => BitVec.ofNat 64 (v.toNat / 2 ^ 18 * 2 ^ 18 + imm.toNat)
    ∃ (t : State) (r : Routine), exec (.mcall g ar n imm) s = .next t ∧ t.here.rq = s.here.rq ++ [r] ∧
      r.fl = ⟨.mcall g ar n imm, b⟩ ∧ r.seq = b.seq ∧ r.routine = n.toNat ∧ r.upc = e.start ∧ r.metaWord = w ∧
      r.mp = fld w 17 0 ∧ r.resv = b.destsOf 5 ∧ r.started = false ∧ r.ctrl = false ∧ r.loops = [] ∧ r.kcount = 0 ∧
      (∀ j, Tab.get 0 r.regs j = if j = 7 then a7 (b.pre.rA 7) else b.pre.rA j) ∧
      (t.here.ctx b.ctx).regs.rA 7 = a7 (y.regs.rA 7) ∧ (t.here.ctx b.ctx).rC 0x98 = BitVec.ofNat 64 ((mdpc + 8) % 0x40000) ∧
      SameRegs s t s.mach.focusCore b.ctx [.a 7] ∧ t.mem = s.mem) ∧
  (∀ (s : State) (c : Nat) (r : Routine), c < 640 →
    let k := s.mach.core c
    k.running = none → k.rq.find? (fun q => !q.started) = some r → r.ctrl = true ∨ k.routineFaulted r.fl.iss.ctx r.seq = false →
    exec (.routineStart c) s = .next (s.stepOn c (fun k =>
      let k' := { k with rq := k.rq.map (fun o => if o.seq = r.seq then { r with started := true } else o) }
      if r.fl.iss.redo then k' else k'.inc 0x96 1))) ∧
  (∀ (s : State) (c idx : Nat) (f : Fetch), c < 640 →
    let k := s.mach.core c
    k.fetches[idx]? = some f → (∀ g ∈ k.fetches.take idx, g.stage ≠ f.stage) →
    ∃ t, exec (.stageFetchDone c idx) s = .next t ∧ t.mem = s.mem ∧ (t.mach.core c).fetches = dropNth k.fetches idx ∧
      (f.void = false → ∀ st, f.stage = some st →
        ((t.mach.core c).stage st).tiles = (k.stage st).tiles ++ [(f.data, f.fmt)]) ∧
      (f.void = false → f.stage = none → f.books = false →
        Tab.get 0 (t.mach.core c).blocks f.block = f.data ∧
        Tab.get 0 (t.mach.core c).wtags f.block = (f.fmt &&& 0xFFF ||| 0x10000) ∧
        ∀ j, j ≠ f.block → Tab.get 0 (t.mach.core c).blocks j = Tab.get 0 k.blocks j) ∧
      (f.void = true → (t.mach.core c).blocks = k.blocks ∧ (t.mach.core c).stages = k.stages)) ∧
  (∀ (s : State) (c idx : Nat) (r : Routine), c < 640 →
    let k := s.mach.core c
    k.rq[idx]? = some r → r.mret = true → (∀ f ∈ k.fetches, f.seq ≠ r.seq) → (∀ f ∈ k.fills, f.seq ≠ some r.seq) → k.appending r = false →
    exec (.routineRetire c idx) s = .next (s.stepOn c (fun k => Core.retire { k with rq := dropNth k.rq idx } r.fl))) ∧
  (∀ (s : State) (b : Issue) (p : Part), Runs s b p.guard → exec (.msload p) s = .next (s.waits (.msload p) b id)) ∧
  ∀ (s : State) (c x : Nat) (b : Issue) (p : Part) (hd bs : List Byte), c < 640 → x < 4 → b.ctx = x →
    let k := s.mach.core c
    let va := (scalarOp b.pre (k.ctx x).cbank p.cw p.cw.src1).toNat
    let h := msHead hd
    let ws := wordsOf bs h.nwords
    (k.ctx x).wait = some ⟨.msload p, b⟩ → k.rq = [] → readVa s (agentOf c) b.asid va 64 accRead = .ok hd →
    readVa s (agentOf c) b.asid (va + 64) (8 * h.nwords) accRead = .ok bs →
    softAt s c b.asid [(va, 64 + 8 * h.nwords)] = none →
    s.mayMove c b.asid (waitHolder c) b.seq [(.read 0, [(va, 64 + 8 * h.nwords)])] →
    msCheck k h ws = none → h.nwords ≠ 0 →
    ∃ t, exec (.bundleUnblock c x) s = .next t ∧ SameMemory s t ∧ ((t.mach.core c).ctx x).wait = none ∧
      Tab.get REntry.zero (t.mach.core c).rtab h.routine =
        ⟨true, false, h.start, h.nwords, h.outa, h.outac, h.outb, h.outbc⟩ ∧
      (∀ n, n ≠ h.routine → Tab.get REntry.zero (t.mach.core c).rtab n = Tab.get REntry.zero k.rtab n) ∧
      (∀ n, Tab.get 0 (t.mach.core c).ustore n =
        if h.start ≤ n ∧ n < h.start + h.nwords then ws.getD (n - h.start) 0 else Tab.get 0 k.ustore n) ∧
      (dstReg p.cw.dst ≠ 0 → ((t.mach.core c).ctx x).regs.rS (dstReg p.cw.dst) = BitVec.ofNat 64 h.start) ∧
      (p.cw.pdst ≠ 0 → ((t.mach.core c).ctx x).regs.rP p.cw.pdst.toNat = true) ∧
      SameRegs s t c x [.s (dstReg p.cw.dst), .p p.cw.pdst.toNat]

/-- With a routine running and its word sound: MZERO clears an accumulator, MPROMO promotes, MLDA and MWBL read a tile of a queue onto a fetch channel, MLDB selects a block, or a part of one through its codebook, takes the masks of a sparse one from the metadata, and steps its field, MMAC multiplies the stage with the block into the accumulator, MACC adds an FP32 or INT32 tile, MOUT appends the converted accumulator, MSETK sets the slice count, MLOOP opens a loop, MEND counts and goes back, MBR goes to its target if the condition on its register holds, MRET promotes, fills what is left VOID and ends. In a void routine MZERO, MPROMO and MMAC still promote the partials of earlier ones and write nothing. An accumulator outside the window faults with VRANGE. No memory changes. -/
def Obligations.MicroOps : Prop :=
  ∀ (s : State) (r : Routine) (u : Uop), s.here.running = some r → s.here.poisoned.contains (.micro, r.upc) = false →
    let k := s.here
    let tick := s.mach.tick
    let done := fun (k' : Core) (r' : Routine) => (Host.Outcome.next (s.did (fun _ => (k'.setRoutine r').incAc tick 0x90)) : Out)
    let out := fun (tr : Trap) => (Host.Outcome.next (s.did (fun k => (k.routineFault s.mach.focusCore r tr).incAc tick 0x90)) : Out)
    let va := r.reg u.pa
    let vrange : Trap := ⟨0x04, 5, true, r.upc % 4096 * 2 ^ 16, 0⟩
    let off := fun (i : Instr) => accField k r va = none → exec i s = out vrange
    (off (.mzero u) ∧ off (.mpromo u) ∧ off (.mmac u) ∧ off (.macc u) ∧ off (.mout u)) ∧
    (∀ a, accField k r va = some a → let n := k.accOf r a
      let k' := (k.promoteAcc n).incAc tick 0x91
      (r.void = false → k.badAcc n false = false → exec (.mzero u) s = done { k'.setAcc n [] with
        poisoned := k'.poisoned.filter (fun e => e != (.acc, n)) } r.next) ∧
      (k.badAcc n true = false → exec (.mpromo u) s = done k' r.next) ∧
      (r.void = true → k.badAcc n false = false → exec (.mzero u) s = done k' r.next ∧ exec (.mpromo u) s = done k' r.next)) ∧
    (∀ v d, uRead k r tick va (bitAt u.flags.toNat 0) = .ok v → v.tile = some d → let x := r.fl.iss.ctx
      let st := b2n (flag va 18)
      let g := v.k.stage st
      ((k.fetchesInto st).all (fun f => f.tag == x) = true → g.isSealed = false → g.tag = x →
        g.tiles.length + ((v.k.fetchesInto st).filter (fun f => !f.void)).length < 4 →
        exec (.mlda u) s = done ((v.k.setStage st g).startFetch tick v (some st) 64 false) v.r.next) ∧
      (let b := r.reg u.pb
       fld b 7 6 = 0 → exec (.mwbl u) s = done (v.k.startFetch tick v none (fld b 5 0) (flag b 14)) (v.r.stepField u.pb 0 6 (fld b 13 8)).next)) ∧
    (r.void = false → u.flags = 0 → fld va 7 6 = 0 → flag va 14 = false → flag (k.wtag (fld va 5 0)) 16 = true →
      (∀ f ∈ k.fetches, f.stage ≠ none) →
      exec (.mldb u) s = done k { r.stepField u.pa 0 6 (fld va 13 8) with bsel := some ⟨fld va 5 0, 0, 0, 0, []⟩ }.next) ∧
    (let blk := fld va 5 0
     let part := fld va 7 6
     let cb := u.flags.toNat / 4
     let mode := u.flags.toNat % 4
     let wide := bitAt cb 1
     let stepped := r.stepField u.pa 0 6 (fld va 13 8)
     let cls := arrayClass (fmtOf (k.wtag blk))
     mode ≠ 3 → part ≤ (if bitAt cb 0 then (if wide then 3 else 1) else 0) → flag va 14 = false → (∀ f ∈ k.fetches, f.stage ≠ none) →
      (r.void = true → exec (.mldb u) s = done k stepped.next) ∧
      (r.void = false → flag (k.wtag blk) 16 = true → (bitAt cb 0 = true → cls.map (·.1) = some (if wide then 64 else 128)) →
        (mode = 0 → exec (.mldb u) s = done k { stepped with bsel := some ⟨blk, part, 0, cb, []⟩ }.next) ∧
        (mode ≠ 0 → ∀ kt sz m, cls = some (kt, sz, m) →
          let f := sparsity mode
          let n := 4 * f * kt
          let ms := (List.range n).map (fun i => BitVec.ofNat 8 (elemAt (Tab.get 0 k.ispad ((r.mp + i) / 8)).toNat ((r.mp + i) % 8) 8))
          fld r.metaWord 2 0 = 0 → fld r.metaWord 63 18 = 0 → r.mp + n ≤ 0x40000 → masksOk ms f = true →
          exec (.mldb u) s = done k { stepped with bsel := some ⟨blk, part, mode, cb, ms⟩, mp := r.mp + n }.next))) ∧
    (∀ a b d w l isInt kt sz m, r.void = false → accField k r va = some a → intervalOk (fld (r.reg u.pb) 6 0) = true →
      let st := b2n (flag va 4)
      let n := k.accOf r a
      let g := k.stage st
      let c := if r.kcount = 0 then m else r.kcount
      k.fetchesInto st = [] → r.bsel = some b → g.tiles = (d, w) :: l → g.tag = r.fl.iss.ctx →
      g.tiles.length = sparsity b.mode → (∀ e ∈ g.tiles, fld e.2 11 0 = fld w 11 0) →
      pairPath (fmtOf w) (fmtOf (k.wtag b.blk)) = some isInt → arrayClass (fmtOf w) = some (kt, sz, m) → r.kcount ≤ m →
      k.poisoned = [] →
      exec (.mmac u) s = done ((((k.macArray n (fld (r.reg u.pb) 6 0) c g.tiles b (fmtOf w) (fmtOf (k.wtag b.blk)) isInt kt sz).setStage st
        { g with isSealed := true }).inc 0x97 (BitVec.ofNat 64 c)).incAc tick 0x91) (r.stepField u.pa 0 4 (fld va 7 5)).next) ∧
    (∀ a, r.void = true → accField k r va = some a → intervalOk (fld (r.reg u.pb) 6 0) = true →
      k.fetchesInto (b2n (flag va 4)) = [] → k.poisoned = [] →
      exec (.mmac u) s = done ((if k.partAcc ≠ k.accOf r a ∨ k.partP ≠ fld (r.reg u.pb) 6 0 then k.promote else k).incAc tick 0x91)
        (r.stepField u.pa 0 4 (fld va 7 5)).next) ∧
    (∀ a v d, accField k r va = some a → uRead k r tick (r.reg u.pb) (bitAt u.flags.toNat 0) = .ok v → v.tile = some d →
      let n := v.k.accOf r a
      let f := fmtOf (v.k.queueFmt r.fl.iss.ctx v.res.q)
      f = .fp32 ∨ f = .int32 → v.k.poisoned = [] →
      let k1 := v.k.promoteAcc n
      let add := fun (p q : Nat) => if f = .int32 then (p + q) % 2 ^ 32 else toFp32 ((ofFp32 p).add (ofFp32 q) .rne)
      exec (.macc u) s = done (((k1.setAcc n (List.zipWith add (k1.accElems n) (elemsOf d.toNat 1024 32))).doneRead
        r.fl.iss.ctx v.res.q v.res.pos).incAc tick 0x91 |>.incAc tick 0x79) v.r.next) ∧
    (∀ a q o d, r.void = false → accField k r va = some a → queueField (r.reg u.pb) true = some (q, o) →
      r.resv.find? (fun d => d.q == q) = some d → k.poisoned = [] →
      let w := r.reg u.pc
      let bank := k.queueFmt r.fl.iss.ctx q
      let n := k.accOf r a
      w.toNat < 2 ^ 18 → fld w 14 12 ≠ 7 → fld w 16 15 ≠ 3 → fld w 3 0 = 0 → outFmtOk (fmtOf bank) = true →
      exec (.mout u) s = done (((k.promoteAcc n).put s.mach.focusCore r.fl d .present
        (outTile ((k.promoteAcc n).accElems n) w (fmtOf bank) bank) (some r.seq)).incAc tick 0x91 |>.incAc tick 0x79) { r with resv := r.resv.erase d }.next) ∧
    (let n := if bitAt u.flags.toNat 0 then fld va 4 0 else u.imm.toNat % 65536
     n ≤ 16 → exec (.msetk u) s = done k { r with kcount := n }.next) ∧
    (r.loops.length < 4 → exec (.mloop u) s = done k { r with loops := u.imm.toNat % 65536 :: r.loops }.next) ∧
    (∀ n l, r.loops = n :: l →
      exec (.mend u) s = done k (if 1 < n then { r with loops := (n - 1) :: l, upc := u.imm.toNat % 4096 } else { r with loops := l }.next)) ∧
    (u.flags.toNat < 4 → exec (.mbr u) s = done k
      (if (u.flags = 0 ∧ va = 0) ∨ (u.flags = 1 ∧ va ≠ 0) ∨ (u.flags = 2 ∧ va.toInt < 0) ∨ (u.flags = 3 ∧ va.toInt > 0) then
        { r with upc := u.imm.toNat % 4096 } else r.next)) ∧
    (k.badPromote = false → exec (.mret u) s = done (r.resv.foldl (fun k d => k.put s.mach.focusCore r.fl d .void 0 (some r.seq)) k.promote)
      { r.next with resv := [], mret := true })

/-- Each copy opcode puts a copy that is not active yet at the end of its core's command queue, with its barrier, its arrival and its bytes, and counts it. A copy that may start and meets no translation fault becomes active and changes no memory. A CPCOLL becomes active too; active, it takes its number among the collectives of its context in issue order, then its contribution joins the collective of its domain, phase and number (COPY_LAND is the step that joins). An active inbound copy whose data is read lands it in the one local position it reserved, PRESENT, and its bytes count on its barrier. CPST stores a sound tile at its address, run by run, CPSTS its rows at their strides; CPPREF changes no byte, CPDISC only bytes of lines that are dirty, CPWB only those of the frames of staged pages. A CPVER that sees the expected version stores tile and version plus one; else it stores nothing, as also where its version word cannot be read as data (log 36). That all reads and writes of a copy stand at its landing is the model's choice (log 37). A translation fault sets FAULT on the barrier. A store of a core's engine within one page for which a port remains, and a store through virtual addresses, write the places they translate to, and nothing else. -/
def Obligations.CopiesStartAndLand : Prop :=
  (∀ (s : State) (b : Issue) (p : Cp), Runs s b p.guard →
    ∀ i ∈ [Instr.cplin p, .cplinCode p, .cpstr p, .cpgath p, .cpconv p, .cpver p, .cpcomp p, .cpst p, .cpsts p, .cpbank p, .cpwb p, .cpdisc p, .cppref p, .cpcoll p],
      exec i s = .next (s.did (fun k => Core.inc { k with cq := k.cq ++ [⟨⟨i, b⟩, false, b.seq, cpBarOf ⟨i, b⟩,
        if p.ar then b.abr else none, none, false, false, none, [], (cpIn ⟨i, b⟩).bytes, false, none⟩] } 0xB2 1))) ∧
  (∀ (s : State) (c idx : Nat) (cp : Copy), c < 640 →
    let k := s.mach.core c
    let i := cpIn cp.fl
    let ag := agentOf c
    let asid := cp.fl.iss.asid
    k.cq[idx]? = some cp →
    (k.copyReady (s.mach.saving c) idx = true → i.op ≠ 13 → (∀ va wr r, copyRun s c cp ≠ .fault va wr r) →
      ∃ t p, exec (.copyStart c idx) s = .next t ∧ t.mem = s.mem ∧
        (t.mach.core c).cq = setNth k.cq idx { cp with active := true, port := p } ∧
        (t.mach.core c).bars = k.bars ∧ (t.mach.core c).spad = k.spad ∧ ∀ x, SameRegs s t c x []) ∧
    (k.copyReady (s.mach.saving c) idx = true → i.op = 13 → cp.coll = none → (i.moves s c cp.fl).flatMap (fun e =>
        portNeeds s c asid c cp.seq false e.1 e.2) ≠ [] ∨ s.mach.collOn = false →
      ∃ t p, exec (.copyStart c idx) s = .next t ∧ t.mem = s.mem ∧ t.mach.colls = s.mach.colls ∧
        (t.mach.core c).cq = setNth k.cq idx { cp with active := true, port := p } ∧
        (t.mach.core c).bars = k.bars ∧ (t.mach.core c).spad = k.spad ∧ ∀ x, SameRegs s t c x []) ∧
    (∀ hd, let d := (List.range 8).map (fun j => BitVec.ofNat 64 (leNat ((hd.drop (8 * j)).take 8)))
      let x := cp.fl.iss.ctx
      let y := k.ctx x
      let lv := dLevel d
      cp.active = true → portsDone s.mach c cp.seq = true → i.op = 13 → cp.coll = none → s.mach.collOn = true →
      s.mach.joined c x cp.seq = none → k.turnWaits cp = false → readVa s ag asid i.a 64 accRead = .ok hd →
      rangesHeld s c cp.fl accRead [(i.a, 64)] = false → softAt s c asid [(i.a, 64)] = none → dLevelOk d = true →
      y.inDomain x lv = true → dBad d (y.memberCount lv) = false →
      (cp.turn = none → ∃ t, exec (.copyLand c idx) s = .next t ∧ t.mem = s.mem ∧ t.mach.colls = s.mach.colls ∧
        (t.mach.core c).cq = setNth k.cq idx { cp with turn := some (Tab.get 0 y.collSeq lv) } ∧
        Tab.get 0 ((t.mach.core c).ctx x).collSeq lv = Tab.get 0 y.collSeq lv + 1) ∧
      ∀ n bs, cp.turn = some n → readVa s ag asid (dSrc d) (dLen d) accRead = .ok bs →
        rangesHeld s c cp.fl accRead [(dSrc d, dLen d)] = false → softAt s c asid [(dSrc d, dLen d)] = none →
        s.mach.collsHeld.length < 64 → s.mach.chunksFull = false →
        ∃ t q j cp', exec (.copyLand c idx) s = .next t ∧ SameMemory s t ∧ q ∈ t.mach.colls ∧ q.asid = asid ∧ q.level = lv ∧
          q.phase = y.phase lv ∧ q.k = n ∧ q.members[j]? = some ⟨s.mach.deviceNo, c, x, k.launch, k.lindex, cp.seq, d, bs, false⟩ ∧
          (t.mach.core c).cq[idx]? = some cp' ∧ cp'.fl = cp.fl ∧ cp'.coll = some (q.id, j)) ∧
    (cp.active = true → portsDone s.mach c cp.seq = true → i.op ≠ 13 →
      (∀ bs oor g d, copyRun s c cp = .ok bs oor g → i.tileOut = false → i.range = false → i.code = false →
        cp.dests = [d] → cp.fl.iss.redo = false → cp.rerun = false →
        let q := k.queue cp.fl.iss.ctx d.q
        q.alloc = true → q.role = .loc → q.canFill d.pos = true → (∀ r ∈ k.raced, r.1 / 4096 ≠ q.slotOf d.pos) →
        ∃ t, exec (.copyLand c idx) s = .next t ∧ SameMemory s t ∧ (t.mach.core c).cq = dropNth k.cq idx ∧
          (((t.mach.core c).queue cp.fl.iss.ctx d.q).cell d.pos).st = .present ∧
          Tab.get 0 (t.mach.core c).spad (q.slotOf d.pos) = BitVec.ofNat 32768 (leNat bs) ∧
          (∀ n, cp.bar = some n → i.op ≠ 3 → i.op ≠ 4 → i.op ≠ 6 → (k.bar n).oorcnt ≤ 0xFFFF →
            (t.mach.core c).bar n = (k.bar n).land i.bytes)) ∧
      (∀ bs, copyRun s c cp = .ok bs 0 0 → i.op = 8 → i.code = false → k.canLand cp = true → badOut k cp = [] →
        let row := fun (j : Nat) => (bs.drop (j * i.rowb)).take i.rowb
        ∃ t, exec (.copyLand c idx) s = .next t ∧ (t.mach.core c).cq = dropNth k.cq idx ∧
          t.mem = ((List.range i.rows).foldl (fun u j => storeRuns u c asid (strideAddr i.a j (sext i.x 64)) (row j) i.p.policy.toNat) s).mem) ∧
      (∀ bs, copyRun s c cp = .ok bs 0 0 → i.op = 7 → i.code = false → k.canLand cp = true → badOut k cp = [] →
        ∃ t, exec (.copyLand c idx) s = .next t ∧ t.mem = (storeRuns s c asid i.a (bs.take i.n) i.p.policy.toNat).mem ∧
          (t.mach.core c).cq = dropNth k.cq idx) ∧
      (copyRun s c cp = .ok [] 0 0 → i.range = true → i.code = false → k.canLand cp = true →
        ∃ t, exec (.copyLand c idx) s = .next t ∧ (t.mach.core c).cq = dropNth k.cq idx ∧
          (∀ sp a, (i.op ≠ 11 ∨ sp ≠ 0 ∨ ∀ e ∈ s.mem.dirty ++ s.mem.mdirty, e.1 ≠ a / 64) →
            (i.op ≠ 10 ∨ sp ≠ 0 ∨ ∀ g ∈ s.mem.staged, a / 65536 ≠ g.die * 0x80000 + g.frame) → t.mem.byte sp a = s.mem.byte sp a)) ∧
      (∀ bs oor g, copyRun s c cp = .ok bs oor g → i.op = 5 → i.code = false → badOut k cp = [] →
        let hit := (softAt s c asid [(i.x, 8)]).isNone && decide (wordVa s ag asid i.x = i.n)
        let s' := s.reads c asid i.p.policy.toNat [(i.x, 8)]
        let s1 := storeRuns s' c asid i.a (bs.take 4096) i.p.policy.toNat
        ∃ t, exec (.cpverCommit c idx) s = .next t ∧ (t.mach.core c).cq = dropNth k.cq idx ∧
          (hit = true → t.mem = (storeRuns s1 c asid i.x (leBytes (i.n + 1) 8) i.p.policy.toNat).mem) ∧
          (hit = false → SameMemory s t)) ∧
      (∀ va wr r n, copyRun s c cp = .fault va wr r → cp.bar = some n →
        ∃ t, exec (.copyLand c idx) s = .next t ∧ (t.mach.core c).cq = dropNth k.cq idx ∧
          ((t.mach.core c).bar n).fault = true ∧
          ((k.bar n).fault = false → ((t.mach.core c).bar n).faddr = va % 2 ^ 56)))) ∧
  (∀ (s : State) (c asid va pol : Nat) (bs : List Byte), 0 < bs.length → va < 2 ^ 64 →
    va / 65536 = (va + bs.length - 1) / 65536 → lostAt s c asid va 1 = none →
    storeRuns s c asid va bs pol = { s with mem := storeVa s (agentOf c) asid va bs pol }) ∧
  ∀ (s : State) (die asid va pol : Nat) (bs : List Byte) (sp y : Nat),
    let at' := fun (i : Nat) => ∃ sp' sa, translate s die asid ((va + i) % 2 ^ 64) accWrite = .ok sp' y sa ∧ sameSpace sp sp' = true
    ((∀ i, i < bs.length → ¬ at' i) → (storeVa s die asid va bs pol).byte sp y = s.mem.byte sp y) ∧
    ∀ i, i < bs.length → at' i → (∀ j, i < j → j < bs.length → ¬ at' j) → (storeVa s die asid va bs pol).byte sp y = bs.getD i 0

/-- MARK writes CURMARK; with every due entry complete the context goes on; a miss takes EPHMISS, stalls the context or is counted, as EPHPOL says. EPH_STALL_PASS ends a stall. EPHBIND binds a free engine slot to a domain, unbinds it, or fails with the code of its first failing check; EPHSTAT answers its three words. ENTRY_READ reads the next entry or stops the binding in error; ENTRY_START starts it once the marker has reached START; ENTRY_COMPLETE completes it and counts the bytes it moved. PORT_GRANT moves one unit of the tenant the window favours, and none at a dropped fabric port; that a grant moves 64 bytes of one request, and that a transfer asks for all its units at once and goes on when all have moved, is the model's choice (log 19); WINDOW_BOUNDARY begins the next µs with the written slot entries. MARK, EPHBIND, EPHSTAT, ENTRY_READ and ENTRY_START change no memory. -/
def Obligations.EphemerisAndPorts : Prop :=
  (∀ (s : State) (b : Issue) (g : BitVec 4) (m : BitVec 19), Runs s b g →
    let s' := s.onCore s.mach.focusCore (fun k => k.upd b.ctx (fun x => x.wC 0x4F (BitVec.ofNat 64 m.toNat)))
    let chk := markCheck s.mach.focusCore b.ctx m.toNat s'
    let pol := fld (b.rC 0xD0) 1 0
    let mark := fun (f : Core → Core) => s.did (fun k => f (k.upd b.ctx (fun x => x.wC 0x4F (BitVec.ofNat 64 m.toNat))))
    (chk = .pass → exec (.mark g m) s = .next (mark id)) ∧
    (∀ n a, chk = .miss n a → pol = 1 →
      exec (.mark g m) s = .next (mark (fun k => k.upd b.ctx (fun c => { c with markWait := some ⟨.mark g m, b⟩ })))) ∧
    (∀ n a, chk = .miss n a → pol = 2 → exec (.mark g m) s = .next (mark (fun k => k.upd b.ctx (fun c => c.inc 0xD3 1)))) ∧
    (∀ n a, (chk = .miss n a ∧ pol ≠ 1 ∧ pol ≠ 2) ∨ chk = .err n a →
      exec (.mark g m) s = .next (mark (fun k => k.slotFault ⟨.mark g m, b⟩ none ⟨0x13, 0, true, n % 16 * 2 ^ 16, a⟩)))) ∧
  (∀ (s : State) (c x : Nat) (fl : Flight), c < 640 → x < 4 → ((s.mach.core c).ctx x).markWait = some fl →
    markCheck c x (markOf fl.i) s = .pass →
      let s1 := s.onCore c (fun k => k.upd x (fun y => { y with markWait := none }))
      exec (.ephStallPass c x) s = .next (s1.settle c x).idle ∧
      ((((s1.settle c x).mach.core c).ctx x).markWait = none) ∧ SameRegs s (s1.settle c x) c x []) ∧
  (∀ (s : State) (b : Issue) (p : Part), Runs s b p.guard →
    let n := p.cw.aux.toNat % 8
    let y := s.mach.member s.mach.focusCore b.ctx
    let a := (s.arg b p p.cw.src1).toNat
    let cnt := (s.arg b p p.cw.src2).toNat
    let die := dieOf s.mach.focusCore
    (y.domain n = none → exec (.ephbind p) s = .next (s.failed (.ephbind p) b p 1) ∧
      exec (.ephstat p) s = .next (s.failed (.ephstat p) b p 1)) ∧
    (∀ d, y.domain n = some d → s.mach.bindingOf y n = none →
      exec (.ephstat p) s = .next (s.failed (.ephstat p) b p 2) ∧
      (a = 0 → exec (.ephbind p) s = .next (s.failed (.ephbind p) b p 2)) ∧
      (a ≠ 0 → s.mach.freeBinding die = none → exec (.ephbind p) s = .next (s.failed (.ephbind p) b p 3)) ∧
      (∀ num, a ≠ 0 → s.mach.freeBinding die = some num →
        (a % 64 ≠ 0 ∨ cnt = 0 ∨ cnt > 65536 → exec (.ephbind p) s = .next (s.failed (.ephbind p) b p 4)) ∧
        (a % 64 = 0 → 1 ≤ cnt → cnt ≤ 65536 → ∃ t, exec (.ephbind p) s = .next t ∧ t.mem = s.mem ∧
          t.mach.bindings = s.mach.bindings ++ [⟨num, die, b.asid, y.launch, n, d, a, cnt, 0, none, 0, [], [], 0, 0, false⟩] ∧
          t.here = (s.answered (.ephbind p) b p id (BitVec.ofNat 64 num) true).here))) ∧
    (∀ d q, y.domain n = some d → s.mach.bindingOf y n = some q →
      (a ≠ 0 → exec (.ephbind p) s = .next (s.failed (.ephbind p) b p 2)) ∧
      (a = 0 → q.started = [] → ∃ t, exec (.ephbind p) s = .next t ∧ t.mem = s.mem ∧
        (∀ z ∈ t.mach.bindings, z.die ≠ q.die ∨ z.num ≠ q.num) ∧
        t.here = (s.answered (.ephbind p) b p id (BitVec.ofNat 64 q.num) true).here) ∧
      exec (.ephstat p) s = .next (s.answered (.ephstat p) b p id (BitVec.ofNat 64 (match p.cw.aux.toNat / 8 with
        | 0 => q.statWord
        | 1 => s.mach.markerOf n d
        | _ => (q.firstMiss s (fld ((s.here.ctx b.ctx).rC 0x4F) 18 0)).getD 65536)) true))) ∧
  (∀ (s : State) (idx : Nat) (b : Binding), s.mach.bindings[idx]? = some b → b.err = 0 → b.unbinding = false →
    (let va := b.table + 32 * b.next
     let s' := s.served b.holder b.readTag
     b.read = none → b.next < b.count → s.sleeps (engineAgent b.die) b.asid [(va, 32)] = false →
      s.portsOpen b.holder b.readTag (portNeeds s b.agent b.asid b.holder b.readTag true (.read 0) [(va, 32)]) →
      (∀ e, entryBytes s b b.next = .error e → lostAt s b.agent b.asid va 1 = none → exec (.entryRead idx) s =
        .next (s'.mechs (s'.mach.onBinding idx (fun b => { b with err := e, erridx := b.next, read := none })))) ∧
      ∀ w, entryBytes s b b.next = .ok w →
        exec (.entryRead idx) s = .next (s'.mechs (s'.mach.onBinding idx (fun b =>
          if entryBad s b w (entryOf b.next w) then { b with err := 1, erridx := b.next, read := none }
          else { b with read := some (entryOf b.next w) })))) ∧
    (∀ e, b.read = some e → b.started.length < 16 → e.start ≤ s.mach.markerOf b.level b.dom →
      ∃ t pt, exec (.entryStart idx) s = .next t ∧ t.mem = s.mem ∧ t.mach.bindings = setNth s.mach.bindings idx
        { b with started := b.started ++ [{ e with port := pt }], read := none, next := b.next + 1, prevStart := e.start })) ∧
  (∀ (s t' : State) (idx n : Nat) (b : Binding) (e : EphEntry), s.mach.bindings[idx]? = some b → b.unbinding = false →
    b.started.find? (fun z => z.idx == e.idx) = some e → portsDone s.mach b.holder e.idx = true → entryRun s b e = .done n t' →
    t'.mach.bindings = s.mach.bindings → t'.mach.dieRegs = s.mach.dieRegs →
    ∃ t b', exec (.entryComplete idx e.idx) s = .next t ∧ t.mem = t'.mem ∧ t.mach.bindings[idx]? = some b' ∧
      b'.dones = b.dones ++ [e.idx] ∧ b'.started = b.started.filter (fun z => z.idx ≠ e.idx) ∧
      t.mach.dieReg b.die 0x1B0 = s.mach.dieReg b.die 0x1B0 + 1 ∧
      t.mach.dieReg b.die 0x1B8 = s.mach.dieReg b.die 0x1B8 + BitVec.ofNat 64 (64 * n)) ∧
  (∀ (s : State) (d p : Nat) (r : PortReq), d < 4 → p < 17 → s.mach.grantee d p = some r →
    exec (.portGrant d p) s = .next (s.mechs (Mach.retried { s.mach with
      portReqs := takeUnit r s.mach.portReqs, portLast := Tab.set 0 s.mach.portLast (d * 17 + p) r.asid } d p))) ∧
  (∀ (m : Mach) (d p : Nat), p < 13 → m.retried d p = m) ∧
  (∀ (s : State) (d p : Nat), d < 4 → 13 ≤ p → p < 17 → s.mach.uliUp (4 * d + (p - 13)) = false → exec (.portGrant d p) s = .next s) ∧
  (∀ (s : State) (holder tag : Nat) (reqs : List PortReq) (go : State → Option State), s.mach.asked.contains (holder, tag) = false →
    (reqs = [] → s.viaPorts holder tag reqs go = go s) ∧
    (reqs ≠ [] → ∃ t, s.viaPorts holder tag reqs go = some t ∧ t.mem = s.mem ∧ t.mach.cores = s.mach.cores ∧
      t.mach.portReqs = s.mach.portReqs ++ reqs ∧ t.mach.asked = (holder, tag) :: s.mach.asked)) ∧
  (∀ (m : Mach) (d p : Nat) (r : PortReq), (13 ≤ p → m.uliUp (4 * d + (p - 13)) = true) → flag (m.slot d (m.usec % 64)) 16 = true →
    (m.portReqs.filter (fun r => r.die == d && r.port == p)).find? (fun r => r.asid == fld (m.slot d (m.usec % 64)) 15 0) = some r →
    m.grantee d p = some r) ∧
  ∀ (s : State), ∃ t, exec .windowBoundary s = .next t ∧ t.mem = s.mem ∧ t.mach.usec = s.mach.usec + 1 ∧
    (∀ d w, d < 4 → w < 64 → t.mach.slot d w = (s.mach.dieReg d (0x800 + 8 * w) &&& 0x3FFFF)) ∧ t.mach.cores = s.mach.cores

/-- RLCGO waits; with a free controller in a cluster of one tenant, a sound block, free slots and two accumulators it starts the run and its result is 0. An operation of a context that does not own the controller fails with code 5. RLCSTAT answers the result word; RLCWAIT answers it and frees the controller once EXITED, else it waits; RLCABORT collects an exited run at once, else it asks for the abort and waits. At a step boundary an abort stops the run with exit 6. Else, with the owner's earlier accesses done and no save that holds the run at a boundary, a running controller goes on: once the ports would grant what a unit of work moves it plans the unit's steps, each a routine 0x40 to 0x4F put into the core's routine queue or a run on one to six lane groups; when they have ended it reads the unit's data, takes the run on and leaves it in WORK, or takes an exit, 7 on an unreadable operand; it always answers a next state. How a unit divides into steps is the model's choice (log 10). -/
def Obligations.RefinementRuns : Prop :=
  (∀ (s : State) (b : Issue) (p : Part), Runs s b p.guard →
    let c := s.mach.focusCore
    let cl := clusterOf c
    let r := s.mach.rlc cl
    let mine := decide (r.st ≠ 0 ∧ r.core = c ∧ r.ctx = b.ctx)
    exec (.rlcgo p) s = .next (s.waits (.rlcgo p) b id) ∧
    (mine = false → ∀ i ∈ [Instr.rlcwait p, .rlcstat p, .rlcabort p], exec i s = .next (s.failed i b p 5)) ∧
    (mine = true → r.trappend = true → ∀ i ∈ [Instr.rlcwait p, .rlcstat p], ∃ t, exec i s = .next t ∧ t.mem = s.mem ∧
      t.here = s.here.faultPart c ⟨i, b⟩ ⟨0x12, 1, true, r.exit % 8 * 2 ^ 16, if r.exit = 7 then r.faddr else r.blk⟩ ∧
      (t.mach.rlc cl).trappend = false) ∧
    (mine = true → r.trappend = false →
      (∃ t, exec (.rlcstat p) s = .next t ∧ t.mem = s.mem ∧ t.mach.rlc cl = r ∧
        t.here = (s.answered (.rlcstat p) b p id r.word (decide (r.st = 2))).here) ∧
      (r.st = 2 → ∃ t, exec (.rlcwait p) s = .next t ∧ t.mem = s.mem ∧ t.mach.rlc cl = Rlc.zero ∧
        t.here = (s.answered (.rlcwait p) b p id r.word (decide (r.exit = 1))).here) ∧
      (r.st = 1 → ∃ t, exec (.rlcwait p) s = .next t ∧ t.mem = s.mem ∧ t.mach.rlc cl = r ∧
        t.here = (s.waits (.rlcwait p) b id).here)) ∧
    (mine = true → r.st = 2 → ∃ t, exec (.rlcabort p) s = .next t ∧ t.mem = s.mem ∧ t.mach.rlc cl = Rlc.zero ∧
      t.here = (s.answered (.rlcabort p) b p id r.word true).here) ∧
    (mine = true → r.st = 1 → ∃ t, exec (.rlcabort p) s = .next t ∧ t.mem = s.mem ∧ (t.mach.rlc cl).abort = true ∧
      t.here = (s.waits (.rlcabort p) b id).here)) ∧
  (∀ (s : State) (c x : Nat) (b : Issue) (p : Part) (bs : List Byte), c < 640 → x < 4 → b.ctx = x →
    let k := s.mach.core c
    let va := (scalarOp b.pre (k.ctx x).cbank p.cw p.cw.src1).toNat
    let ws := wordsOf bs 32
    let sp := fld (ws.getD 0 0) 49 42
    (k.ctx x).wait = some ⟨.rlcgo p, b⟩ → rangesHeld s c ⟨.rlcgo p, b⟩ accRead [(va, 256)] = false →
    readVa s (agentOf c) b.asid va 256 accRead = .ok bs → softAt s c b.asid [(va, 256)] = none →
    s.mayMove c b.asid (waitHolder c) b.seq [(.read 0, [(va, 256)])] →
    (s.mach.rlc (clusterOf c)).st = 0 → s.mach.clusterOwned (clusterOf c) b.asid = true → blockBad ws = none →
    k.runFree sp 32 = true → 2 ≤ (k.ctx x).acount →
    ∃ t, exec (.bundleUnblock c x) s = .next t ∧ SameMemory s t ∧ ((t.mach.core c).ctx x).wait = none ∧
      (t.mach.core c).rlcSlots = some sp ∧ (t.mach.rlc (clusterOf c)).st = 1 ∧ (t.mach.rlc (clusterOf c)).core = c ∧
      (t.mach.rlc (clusterOf c)).ctx = x ∧ (t.mach.rlc (clusterOf c)).words = ws ∧
      (dstReg p.cw.dst ≠ 0 → ((t.mach.core c).ctx x).regs.rS (dstReg p.cw.dst) = 0)) ∧
  ∀ (s : State) (cl : Nat), cl < 40 →
    let r := s.mach.rlc cl
    let k := s.mach.core r.core
    r.st = 1 →
    (r.abort = true → r.atBoundary k = true → ∃ t, exec (.rlcStep cl) s = .next t ∧ (t.mach.rlc cl).st = 2 ∧
      (t.mach.rlc cl).exit = 6 ∧ (t.mach.rlc cl).trappend = r.trappend ∧ (t.mach.core r.core).rlcSlots = none ∧
      (t.mach.core r.core).rC 0xE0 = k.rC 0xE0 + acOf s.mach.tick 0xE0 ∧
      ∀ o ∈ (t.mach.core r.core).rq, o.ctrl = false) ∧
    (r.atBoundary k = false ∨ (r.abort = false ∧ s.mach.saving r.core = false) → k.beforeDone r.ctx r.seq = true →
      let goes := fun (r' : Rlc) (f : Core → Prop) =>
        ∃ t, exec (.rlcStep cl) s = .next t ∧ t.mach.rlc cl = r' ∧ t.mem = s.mem ∧ f (t.mach.core r.core)
      (r.prog = 0 → s.mayMove r.core r.asid (rlcHolder cl) 0 r.moves →
        goes { r with prog := 1, steps := if r.runs = [] then [] else Config.rlcPlan s.mach.tick } (fun _ => True)) ∧
      (∀ st l, r.prog = 1 → r.steps = st :: l → goes { r with prog := 2 } (fun k' =>
        k'.rlcVec = if st.1 then some (false, rlcLanes st.2) else k.rlcVec)) ∧
      (∀ n l, r.prog = 2 → r.steps = (false, n) :: l → k.routinesHeld < 2 → k.msloading = false → k.issue = none →
        goes { r with prog := 3 } (fun k' => ∃ o, k'.rq = k.rq ++ [o] ∧ o.ctrl = true ∧ 0x40 ≤ o.routine ∧ o.routine ≤ 0x4F ∧
          o.started = false ∧ o.seq = k.seq)) ∧
      (∀ n l, r.prog = 2 → r.steps = (true, n) :: l → k.groupsHeld + rlcLanes n ≤ 6 → k.vparts.any k.waitsLanes = false →
        goes { r with prog := 3 } (fun k' => k'.rlcVec = some (true, rlcLanes n) ∧ 1 ≤ rlcLanes n ∧ rlcLanes n ≤ 6)) ∧
      (∀ st l, r.prog = 3 → r.steps = st :: l → (∀ o ∈ k.rq, o.ctrl = false) → goes { r with prog := 1, steps := l } (fun k' => k'.rlcVec = none)) ∧
      (r.prog = 1 → r.steps = [] →
        (∀ d r', rlcData s r = .ok d → rlcAdvance r d = .go r' →
          let r'' := { r' with prog := 0, steps := [] }
          ∃ t s0, exec (.rlcStep cl) s = .next t ∧ t.mach.rlc cl = r'' ∧ SameMemory s s0 ∧ t.mem = (rlcKeep r'' s0).mem) ∧
        (∀ va, rlcData s r = .error va → ∃ t, exec (.rlcStep cl) s = .next t ∧
          (t.mach.rlc cl).st = 2 ∧ (t.mach.rlc cl).exit = 7 ∧ (t.mach.rlc cl).trappend = true ∧ (t.mach.rlc cl).faddr = va) ∧
        (∀ d e r', rlcData s r = .ok d → rlcAdvance r d = .exit e r' → r'.action e ≠ 2 → r'.hasX = false →
          ∃ t, exec (.rlcStep cl) s = .next t ∧ (t.mach.rlc cl).st = 2 ∧ (t.mach.rlc cl).exit = e)) ∧
      ∃ t, exec (.rlcStep cl) s = .next t)

/-- With a validated packet at the head of its command queue, its queue's entry in order, its tenant the host's, the ports it needs granted and nothing it waits for outstanding: NOP, BEGIN and COMMIT complete; WRITE stores its values, SIGNAL adds or stores its word and raises its interrupt, and both complete; WAITMEM completes if its test holds, else its wait begins, and after TIMEOUT µs the rest of its batch is dropped with FEQERR set; LOOP is replaced by TRIPS copies of its body, INDIRECT by its buffer; LAUNCH and GRAPH create a launch with the plan validation read and hold the queue until it is bound; FETCHFENCE drops later batches. A completing packet leaves the queue, moves the read index and counts. A polled slot whose entry is disabled sets FEQERR; a slot that is not polled does nothing. A packet that may not begin changes nothing (the model's choice, log 14), the read index goes to the least packet not completed (log 33), a store or signal without a translation or past the last port is not performed (log 23), and a packet goes on once its units have all moved (log 19). -/
def Obligations.PacketsRun : Prop :=
  (∀ (s : State) (h : PktHdr) (p : RunPkt) (rest : List RunPkt) (i : Instr),
    let f := s.mach.feq h.host h.queue
    let asid := p.asid
    let s' := s.served (queueHolder (feKey h.host h.queue)) 1
    f.run = p :: rest → p.i = i → f.mayBegin i = true → pktOk h.host h.queue p s = true →
    s.mayMove 0 asid (queueHolder (feKey h.host h.queue)) 1 (pktMoves s h.host h.queue p) →
    let done := fun (s1 : State) (run : List RunPkt) => ∃ t, exec i s = .next t ∧
      (let g := t.mach.feq h.host h.queue
       g.run = run ∧ g.since = none ∧ g.live = f.live ∧ g.tail = f.tail ∧ g.ridx = ({ f with run := run, since := none } : FeQueue).least) ∧
      t.mach.portReg h.host.toNat 0x418 = s1.mach.portReg h.host.toNat 0x418 + 1 ∧ t.mach.cores = s1.mach.cores ∧
      SameBut s1 t (2 + h.host.toNat) (wordAt (qEntry s1 h.host h.queue) 2).toNat 8
    let early := fun (l : Launch) => { l with late := false }
    s'.mem = s.mem ∧ (i = .pktNop h ∨ i = .beginBatch h ∨ i = .commitBatch h → done s' rest) ∧
    (∀ dst n v0 v1 v2 v3, i = .writePkt h dst n v0 v1 v2 v3 →
      done (storeRuns s' 0 asid dst.toNat (([v0, v1, v2, v3].take n.toNat).flatMap (fun v => leBytes v.toNat 8)) 0) rest) ∧
    (∀ a v store irq vec, i = .signalPkt h a v store irq vec →
      done (State.noteLostAt (State.mk (if irq then { s'.mach with msix := s'.mach.msix ++ [(h.host.toNat, vec.toNat)] } else s'.mach)
        (signalMem s' asid a.toNat v store)) 0 asid a.toNat) rest) ∧
    (∀ a m v op tmo, i = .waitmemPkt h a m v op tmo →
      (waitHolds s' asid a m v op = true → done s' rest) ∧
      (waitHolds s' asid a m v op = false → exec i s = .next (s'.mechs (s'.mach.setFeq h.host h.queue
        { f with since := some (f.since.getD s.mach.usec) }))) ∧
      (∀ u, f.since = some u → tmo ≠ 0 → u + tmo.toNat ≤ s.mach.usec →
        ∃ t, exec (.waitmemTimeout h.host h.queue) s = .next t ∧
          (t.mach.feq h.host h.queue).run = f.run.dropWhile (fun q => q.batch == p.batch) ∧
          (t.mach.portReg h.host.toNat 0x410).getLsbD h.queue.toNat = true)) ∧
    (∀ body trips, i = .pktLoop h body trips →
      done s' ((List.replicate trips.toNat ((rest.take body.toNat).map (fun r => { r with looped := true }))).flatten ++ rest.drop body.toNat)) ∧
    (∀ a n is, i = .indirectPkt h a n → (p.batch, a.toNat, n.toNat, is) ∈ f.bufs →
      (∀ e ∈ f.bufs, e.1 = p.batch → e.2.1 = a.toNat → e.2.2.1 = n.toNat → e.2.2.2 = is) →
      ∃ t, exec i s = .next t ∧ ((t.mach.feq h.host h.queue).run.map (fun q => q.i)) = is ++ rest.map (fun q => q.i)) ∧
    (∀ d sig v pl, i = .launchPkt h d sig v → f.plans.find? (fun e => decide (e.1 = p.batch ∧ e.2.1 = d.toNat)) = some pl →
      ∃ t, exec i s = .next t ∧ t.mach.launches.map early = (s.mach.launches ++
          [newLaunch s.mach.nextId asid h.host.toNat h.queue.toNat p.idx none pl.2.2 sig v]).map early ∧
        (t.mach.feq h.host h.queue).run = rest ∧ (t.mach.feq h.host h.queue).live = p.idx :: f.live ∧
        (t.mach.feq h.host h.queue).holds = some s.mach.nextId ∧ t.mach.cores = s.mach.cores) ∧
    (∀ d sig v gp n, i = .graphPkt h d sig v → f.graphs.find? (fun e => decide (e.1 = p.batch ∧ e.2.1 = d.toNat)) = some gp →
      gp.2.2.nodes[gp.2.2.entry]? = some n →
      ∃ t, exec i s = .next t ∧ t.mach.graphs = s.mach.graphs ++
          [⟨s.mach.nextId, asid, h.host.toNat, h.queue.toNat, p.idx, gp.2.2, gp.2.2.entry, 1, sig, v⟩] ∧
        t.mach.launches.map early = (s.mach.launches ++
          [newLaunch (s.mach.nextId + 1) asid h.host.toNat h.queue.toNat p.idx (some s.mach.nextId) n.plan 0 0]).map early ∧
        (t.mach.feq h.host h.queue).run = rest ∧ (t.mach.feq h.host h.queue).holds = some (s.mach.nextId + 1)) ∧
    (i = .fetchFence h → ∃ t, exec i s = .next t ∧ (t.mach.feq h.host h.queue).raw = [] ∧
      ∀ q ∈ (t.mach.feq h.host h.queue).run, ∃ q' ∈ rest, q'.idx = q.idx ∧ q'.batch = q.batch ∧ q.batch = p.batch)) ∧
  (∀ (s : State) (i : Instr) (h : PktHdr), (i = .pktNop h ∨ i = .beginBatch h ∨ i = .commitBatch h ∨ i = .fetchFence h) →
    headOf h.host h.queue s = none → exec i s = .next s) ∧
  ∀ (s : State) (h : BitVec 1) (q : BitVec 6),
    (polled s h q = false → exec (.pollSlot h q) s = .next s) ∧
    (polled s h q = true → entryDisabled s h q (qEntry s h q) = true → ∃ t, exec (.pollSlot h q) s = .next t ∧ t.mem = s.mem ∧
      (t.mach.portReg h.toNat 0x410).getLsbD q.toNat = true ∧ t.mach.feq h q = s.mach.feq h q) ∧
    (polled s h q = true → entryDisabled s h q (qEntry s h q) = false → ∃ t, exec (.pollSlot h q) s = .next t ∧
      (s.mach.feq h q).tail ≤ (t.mach.feq h q).tail)

/-- LAUNCH_BIND gives each core of the launch its launch, its place, its code and its bound contexts, with their arguments in S8 to S15, their windows and their start address; the others are UNBOUND. LAUNCH_END_CORE frees a core whose contexts are idle and quiet and whose controller rests. LAUNCH_COMPLETE writes its frames back, then writes the 64-byte record, whose word 0 is the status, and adds its signal; a launch of no graph is gone and counted. LAUNCH_ABORT stops the launch on all its cores with status 2. GRAPH_NODE_END starts the chosen successor with one more run, or ends the graph with its status word and signal. Each goes on once the ports have moved what it moves (the model's choice, log 19); a binding waits for its place among the launches (log 24). -/
def Obligations.LaunchesAndGraphs : Prop :=
  (∀ (s : State) (id : Nat) (l : Launch),
    let s1 : State := { s with mach := s.mach.demand l }
    s.mach.launch id = some l → s1.canBind l = true → s1.mayMove 0 l.asid launchHolder (4 * id) [(.read 0, l.binds s1)] →
    (l.plan.cores.map (fun c => c.core)).Nodup →
    ∃ t, exec (.launchBind id) s = .next t ∧ t.mem = s.mem ∧ (∃ l', t.mach.launch id = some l' ∧ l'.stat = .bound ∧ l'.plan = l.plan) ∧
      ∀ i lc, l.plan.cores[i]? = some lc →
        let k := t.mach.core lc.core
        k.launch = some id ∧ k.lindex = i ∧ k.lastUser = some l.asid ∧ k.owner = (s.mach.core lc.core).owner ∧
        ∀ x, x < 4 →
          let r := lc.ctxs.getD x (ctxRecOf [])
          let y := k.ctx x
          (r.bind = false → y.st = .unbound) ∧
          (r.bind = true → (r.entry = false → y.st = .idle) ∧ (r.entry = true → y.st = .ready ∨ y.st = .issuing) ∧
            y.pc = r.pc ∧ y.vcount = r.vcount ∧ y.acount = r.acount ∧ y.dommask = r.mask ∧
            ∀ n, y.regs.rS n = if 8 ≤ n ∧ n < 16 then r.args.getD (n - 8) 0 else 0)) ∧
  (∀ (s : State) (c id : Nat) (l : Launch), c < 640 → (s.mach.core c).launch = some id → (s.mach.core c).mayEnd = true →
    s.mach.rlcRests c = true → s.mach.launch id = some l →
    ∃ t l', exec (.launchEndCore c) s = .next t ∧ (t.mach.core c).ctxs = [] ∧ (t.mach.core c).launch = none ∧
      (t.mach.core c).owner = (s.mach.core c).owner ∧ t.mach.launch id = some l' ∧
      l'.ended = (s.mach.core c).lindex :: l.ended ∧ l'.status = l.status) ∧
  (∀ (s : State) (id : Nat) (l : Launch), s.mach.launch id = some l → l.allEnded = true →
    (s.mem.framesOf id).any (fun g => s.mach.asleep 0 (g.page * 65536)) = false →
    s.mayMove 0 l.asid launchHolder (4 * id + 1) (endMoves l.plan.comp 64 l.sig) (s.mem.frameReqs id launchHolder (4 * id + 1)) →
    let s1 := storeRuns (releaseTiers id (s.served launchHolder (4 * id + 1))) 0 l.asid l.plan.comp l.record 0
    let signalled := if l.sig = 0 then s1.mem else signalMem s1 l.asid l.sig.toNat l.val false
    let h := BitVec.ofNat 1 l.host
    let q := BitVec.ofNat 6 l.queue
    ∃ t, exec (.launchComplete id) s = .next t ∧
      (∀ g, l.graph = some g → t.mem = signalled ∧ ∃ l', t.mach.launch id = some l' ∧ l'.stat = .done) ∧
      (l.graph = none → t.mach.launch id = none ∧
        SameBut { s1 with mem := signalled } t (2 + h.toNat) (wordAt (qEntry { s1 with mem := signalled } h q) 2).toNat 8 ∧
        t.mach.portReg l.host 0x418 = s.mach.portReg l.host 0x418 + 1)) ∧
  (∀ (s : State) (asid a sp ad : Nat) (sa : Bool) (v : W64), translate s feAgent asid a accAtomic = .ok sp ad sa → s.mem.poisoned sp ad = false →
    uliLost s.mach 0 sp = false →
    (signalMem s asid a v false).read sp ad 8 = (s.mem.read sp ad 8 + v.toNat) % 2 ^ 64 ∧
    ∀ sp' x, (sameSpace sp sp' = false ∨ x < ad ∨ ad + 8 ≤ x) → (signalMem s asid a v false).byte sp' x = s.mem.byte sp' x) ∧
  (∀ l : Launch, l.record.length = 64 ∧
    (l.status ≠ 1 → l.status < 2 ^ 64 → leNat (l.record.take 8) = l.status) ∧
    (l.status = 1 → leNat (l.record.take 8) = 1 + l.fcause % 256 * 2 ^ 8 + l.fcore % 1024 * 2 ^ 16 + l.fctx % 4 * 2 ^ 26)) ∧
  (∀ (s : State) (id : Nat) (l : Launch), s.mach.launch id = some l → l.stat ≠ .done →
    ∃ t l', exec (.launchAbort id) s = .next t ∧ t.mem = s.mem ∧ t.mach.launch id = some l' ∧
      l'.status = (if l.status = 0 then 2 else l.status) ∧
      (∀ v ∈ t.mach.saved, v.launch ≠ id) ∧
      ∀ c, (s.mach.core c).launch = some id → (t.mach.core c).cq = [] ∧ (t.mach.core c).stores = (s.mach.core c).stores ∧
        ∀ x, x < 4 → ((t.mach.core c).ctx x).st = .unbound ∨ ((t.mach.core c).ctx x).st = .idle) ∧
  ∀ (s : State) (id : Nat) (g : Graph) (l : Launch), s.mach.graphs.find? (fun g => g.id == id) = some g →
    s.mach.launches.find? (fun l => decide (l.graph = some id ∧ l.stat = .done)) = some l →
    let branch := ((g.plan.nodes[g.node]?).map (fun n => n.branch)).getD 0
    s.mayMove 0 g.asid launchHolder (4 * id + 2)
      ((.read 0, if branch = 0 then [] else [(branch, 8)]) :: if (graphNext s g l).isRight then endMoves g.plan.status 8 g.sig else []) →
    let ls := s.mach.launches.filter (fun x => x.id ≠ l.id)
    let early := fun (l : Launch) => { l with late := false }
    (∀ st, graphNext s g l = .inr st →
      let w := leBytes (st + g.node % 256 * 2 ^ 8 + g.runs % 65536 * 2 ^ 16) 8
      let s1 := storeRuns (s.served launchHolder (4 * id + 2)) 0 g.asid g.plan.status w 0
      let signalled := if g.sig = 0 then s1.mem else signalMem s1 g.asid g.sig.toNat g.val false
      let h := BitVec.ofNat 1 g.host
      let q := BitVec.ofNat 6 g.queue
      ∃ t, exec (.graphNodeEnd id) s = .next t ∧ (∀ x ∈ t.mach.graphs, x.id ≠ g.id) ∧ t.mach.launches = ls ∧
        SameBut { s1 with mem := signalled } t (2 + h.toNat) (wordAt (qEntry { s1 with mem := signalled } h q) 2).toNat 8) ∧
    ∀ k n, graphNext s g l = .inl k → g.plan.nodes[k]? = some n →
      ∃ t, exec (.graphNodeEnd id) s = .next t ∧ t.mem = s.mem ∧
        t.mach.launches.map early = (ls ++ [newLaunch s.mach.nextId g.asid g.host g.queue g.pidx (some id) n.plan 0 0]).map early ∧
        t.mach.graphs.find? (fun g => g.id == id) = some { g with node := k, runs := g.runs + 1 }

/-- PREEMPT_SAVE stops a core whose save area is translated, and once the core has drained, its controller rests and the ports let the area through, it frees it, keeps its contexts and promoted accumulators among the saved cores and counts the save; SAVE_AREA_CHECK tries again. RESTORE of an area that can be loaded puts a saved core on the core the area names, with its launch, place, registers, accumulators, scratchpad but for the slots of queue records, and the area's barrier pool. SOFTERR counts at the home die and poisons a memory line, whose bytes and every other line stand, or names a structure of the core; SCRUB changes only its counter. That the restore takes registers, accumulators, vector registers and scratchpad from what the save kept, not from the area's bytes, is the model's choice (log 11), and that both go on once the area has moved (log 19). -/
def Obligations.PreemptionAndErrors : Prop :=
  (∀ (s : State) (c : Nat) (r : SaveReq) (l : Launch), c < 640 → s.mach.saveReq c = some r → s.mach.launchOn c = some l →
    (r.stopped = false → saveHole s c l = none → ∀ i ∈ [Instr.preemptSave c, .saveAreaCheck c],
      (i = .preemptSave c → r.noted = false) →
      ∃ t, exec i s = .next t ∧ t.mem = s.mem ∧ t.mach.saveReq c = some { r with stopped := true } ∧ t.mach.stopped c = true) ∧
    (r.stopped = true → (s.mach.core c).saveReady = true → s.mach.rlcRests c = true →
      s.mayMove 0 l.asid (saveHolder c) 0 [(.write, [(l.area (s.mach.core c).lindex, 0x200000)])] → saveHole s c l = none →
      ∃ t v, exec (.preemptSave c) s = .next t ∧ t.mach.saved = s.mach.saved ++ [v] ∧ v.num = c ∧ v.launch = l.id ∧
        v.lindex = (s.mach.core c).lindex ∧ v.held = r.byHost ∧ v.core.ctxs = (s.mach.core c).ctxs ∧
        v.core.vpool = (s.mach.core c).vpool ∧ v.core.acc = (s.mach.core c).promote.acc ∧ v.core.spad = (s.mach.core c).spad ∧
        (t.mach.core c).launch = none ∧ (t.mach.core c).ctxs = [] ∧ (t.mach.core c).owner = (s.mach.core c).owner ∧
        t.mach.saveReq c = none ∧ t.mach.portReg l.host 0x428 = s.mach.portReg l.host 0x428 + 1)) ∧
  (∀ (s : State) (idx : Nat) (v : Saved) (l : Launch), s.mach.saved[idx]? = some v → s.mach.launch v.launch = some l →
    v.held = false → v.noted = false → restoreHole s l v = none →
    let w := areaWord s l v 0
    let c := fld w 25 16
    fld w 7 0 = 2 → fld w 15 8 = s.mach.stepping.toNat → c < 640 → (s.mach.core c).owner = some l.asid →
    (s.mach.core c).launch = none → s.mach.dieRuns (dieOf c) = true → s.restoreYields v c = false →
    fld (areaWord s l v 0x200) 1 0 = 0 ∨ s.mach.clusterOwned (clusterOf c) l.asid = true →
    areaUnsound s l v = false → s.mayMove 0 l.asid restoreHolder v.order [(.read 0, [(l.area v.lindex, 0x200000)])] →
    (restored s l v c).isSome = true →
    ∃ t, exec (.restore idx) s = .next t ∧ t.mem = s.mem ∧ t.mach.saved = dropNth s.mach.saved idx ∧
      (t.mach.core c).launch = some l.id ∧ (t.mach.core c).lindex = v.lindex ∧ (t.mach.core c).owner = some l.asid ∧
      (t.mach.core c).vpool = v.core.vpool ∧ (t.mach.core c).acc = v.core.acc ∧
      ((∀ e ∈ queueNos, recordAt s l v e.1 e.2 = 0) → (t.mach.core c).spad = v.core.spad) ∧
      (∀ n, n < 64 → savedBar s l v n = some ((t.mach.core c).bar n)) ∧
      ∀ x, ((t.mach.core c).ctx x).regs = (v.core.ctx x).regs ∧ ((t.mach.core c).ctx x).pc = (v.core.ctx x).pc ∧
        ∀ n, n ≠ 0x5C → ((t.mach.core c).ctx x).rC n = (v.core.ctx x).rC n) ∧
  (∀ (s : State) (c n : Nat), c < 640 →
    (localMapped n = true → ∃ t, exec (.softerr .memLine c n) s = .next t ∧ t.mem.poisoned 0 n = true ∧
      (∀ sp a, t.mem.byte sp a = s.mem.byte sp a) ∧
      (∀ a, a / 64 ≠ n / 64 → t.mem.poisoned 0 a = s.mem.poisoned 0 a) ∧
      t.mach.dieReg (homeDie n) 0x328 = s.mach.dieReg (homeDie n) 0x328 + 1) ∧
    ∀ p ∈ [ErrPlace.vreg, .acc, .aStage, .wblock, .micro], errHas p n = true → ∃ t, exec (.softerr p c n) s = .next t ∧
      t.mem = s.mem ∧ (t.mach.core c).poisoned = (p, n) :: (s.mach.core c).poisoned ∧
      t.mach.dieReg (dieOf c) 0x328 = s.mach.dieReg (dieOf c) 0x328 + 1) ∧
  ∀ (s : State) (d : Nat), d < 4 → ∃ t, exec (.scrubDie d) s = .next t ∧ t.mem = s.mem ∧ t.mach.cores = s.mach.cores ∧
    (∀ e off, e < 4 → off < 0x1000 → (e ≠ d ∨ off ≠ 0x320) → t.mach.dieReg e off = s.mach.dieReg e off)

/-- CREATE of a free ASID enters the tenant and its table, DESTROY of a tenant without cores and queues removes it, GIVECORE and TAKECORE move an idle core to and from a tenant, QUOTA sets the staging quota of a die, PREEMPT orders a save, RELEASE lets a saved core run again; each leaves RESULT 0. A command on an ASID that is not the host's leaves RESULT 2, an operation that does not exist RESULT 5, and CREATE of 0 or of a tenant RESULT 1; a failure changes nothing but TNCMD. REPLAY puts a parked copy of a core of the host's tenant back into the command queue, DECLINE gives it up. That CREATE writes the entry in all four dies' tables and needs TXCTB.ENABLE on all is the model's choice (log 27), and the codes where the rule names none (log 28). -/
def Obligations.TenantsAndReplays : Prop :=
  (∀ (s : State) (p : BitVec 1) (asid : BitVec 16),
    let a := asid.toNat
    let arg := s.mach.portReg p.toNat 0x048
    let c := arg.toNat
    let cmd := fun (op : Nat) => [Instr.createTenant p asid, .destroyTenant p asid, .givecore p asid, .takecore p asid,
      .setQuota p asid, .preemptCore p asid, .releaseCore p asid, .badop p asid].getD op (.badop p asid)
    let word := fun (op r : Nat) => BitVec.ofNat 64 (a + op * 2 ^ 16 + r * 2 ^ 21)
    let fails := fun (op r : Nat) => exec (cmd op) s = .next (s.mechs (s.mach.setPortReg p.toNat 0x040 (word op r)))
    let mine := s.mach.tenants.get none a = some p.toNat
    fails 7 5 ∧
    (∀ op, 1 ≤ op → op ≤ 6 → ¬ mine → fails op 2) ∧
    (a = 0 ∨ s.mach.tenants.get none a ≠ none → fails 0 1) ∧
    (a ≠ 0 → s.mach.tenants.get none a = none → s.mach.isMgmt p = true → (∀ d, d < 4 → flag (s.mach.dieReg d 0x300) 0 = true) →
      ∃ t, exec (cmd 0) s = .next t ∧ t.mach.tenants.get none a = some p.toNat ∧ t.mach.portReg p.toNat 0x040 = word 0 0 ∧
        (∀ d, d < 4 → t.mem.read 0 (s.mach.ctxEntry d a) 16 = 1 + bitsOf c 41 16 * 65536)) ∧
    (mine → (∀ e ∈ s.mach.cores, e.2.owner ≠ some a) → hasQueue p a s = false →
      ∃ t, exec (cmd 1) s = .next t ∧ t.mach.tenants.get none a = none ∧ t.mach.portReg p.toNat 0x040 = word 1 0 ∧
        (∀ e ∈ t.mach.tlb, e.asid ≠ a)) ∧
    (mine → c < 640 → s.mach.holds c = false →
      ((s.mach.core c).owner = none → ∃ t, exec (cmd 2) s = .next t ∧ (t.mach.core c).owner = some a ∧ t.mem = s.mem ∧
        t.mach.portReg p.toNat 0x040 = word 2 0 ∧ ∀ d, d ≠ c → t.mach.core d = s.mach.core d) ∧
      ((s.mach.core c).owner = some a → ∃ t, exec (cmd 3) s = .next t ∧ (t.mach.core c).owner = none ∧ t.mem = s.mem ∧
        t.mach.portReg p.toNat 0x040 = word 3 0 ∧ ∀ d, d ≠ c → t.mach.core d = s.mach.core d)) ∧
    (mine → ∃ t, exec (cmd 4) s = .next t ∧ t.mem = s.mem ∧ t.mach.quotas.get 0 (fld arg 1 0 * 65536 + a) = fld arg 31 16 ∧
      t.mach.portReg p.toNat 0x040 = word 4 0) ∧
    (mine → c < 640 → (s.mach.core c).owner = some a →
      ((s.mach.core c).launch ≠ none → s.mach.saveReq c = none → ∃ t, exec (cmd 5) s = .next t ∧ t.mem = s.mem ∧
        t.mach.saves = s.mach.saves ++ [⟨c, true, false, false⟩] ∧ t.mach.portReg p.toNat 0x040 = word 5 0) ∧
      ∃ t, exec (cmd 6) s = .next t ∧ t.mem = s.mem ∧ (∀ v ∈ t.mach.saved, v.num = c → v.held = false) ∧
        t.mach.saved.length = s.mach.saved.length ∧ t.mach.portReg p.toNat 0x040 = word 6 0)) ∧
  ∀ (s : State) (p : BitVec 1) (core : BitVec 10) (slot : BitVec 3) (a : Nat) (cp : Copy),
    let c := core.toNat
    let k := s.mach.core c
    c < 640 → k.owner = some a → s.mach.tenants.get none a = some p.toNat → Tab.get none k.parked slot.toNat = some cp →
    (∃ t, exec (.replayCopy p core slot) s = .next t ∧ t.mem = s.mem ∧ Tab.get none (t.mach.core c).parked slot.toNat = none ∧
      (t.mach.core c).cq = k.cq ++ [{ cp with active := false, rerun := true }]) ∧
    ∃ t, exec (.declineCopy p core slot) s = .next t ∧ t.mem = s.mem ∧ Tab.get none (t.mach.core c).parked slot.toNat = none ∧
      (t.mach.core c).cq = k.cq ∧ ∀ n, cp.bar = some n → (t.mach.core c).bar n = (k.bar n).land cp.total

/-- TXINV with GO sets BUSY, and its end drops every matching translation and clears BUSY. A commit or a power write by a host without the management plane is refused and counted; a commit sets ERR, or BUSY with the shadow values it will install, and its end installs these and changes no byte but of staging frames. A write of FEATMASK, IOPWR, PHYWIN or a die register by the other port is refused and counted. FEATMASK takes its three bits when nothing runs. REDWIN takes its fields, VALID only where they are in order. PWRCTL takes a target and its change follows; IOPWR is taken; a thermal trip stops a die's issue and tells the host, a resume lets it go on. ATTEST writes the report over its nonce. A register write acts as the operation of its register, or takes the bits that can be written. A host reads bytes, writes bytes and makes atomics through an open aperture, and an unreachable request is refused and reads all ones. The model's choices here: the offset that URADDR takes, CONTRIB above 1,024 clearing VALID, and the answer in hostData (log 28); the fault of a register that does not exist (log 14); that a commit installs the values it took at its start and clears ERR (log 40); that a request goes on once its unit has moved (log 19). -/
def Obligations.HostRegistersAndApertures : Prop :=
  (∀ (s : State) (p : BitVec 1) (d : BitVec 2) (v : W64),
    (flag v 18 = true → fld v 17 16 ≠ 3 → ∃ t, exec (.txinv p d v) s = .next t ∧ t.mem = s.mem ∧
      flag (t.mach.dieReg d.toNat 0x308) 19 = true ∧ fld (t.mach.dieReg d.toNat 0x308) 17 0 = fld v 17 0) ∧
    (flag (s.mach.dieReg d.toNat 0x308) 19 = true → s.mach.invQuiet d.toNat = true → ∃ t, exec (.txinvDone d) s = .next t ∧
      t.mem = s.mem ∧ flag (t.mach.dieReg d.toNat 0x308) 19 = false ∧
      ∀ e ∈ t.mach.tlb, e.agent / 4 = d.toNat → s.mach.invReaches d.toNat e.asid (e.page * e.size) e.size = false) ∧
    (s.mach.isMgmt p = false → ∀ i ∈ [Instr.l2Commit p d v, .pwrctlWrite p d v], ∃ t, exec i s = .next t ∧ t.mem = s.mem ∧
      t.mach.dieRegs = s.mach.dieRegs ∧ t.mach.portReg p.toNat 0x008 = s.mach.portReg p.toNat 0x008 + 1) ∧
    (s.mach.isMgmt p = true → flag v 0 = true → flag (s.mach.dieReg d.toNat 0x198) 1 = false →
      ∃ t, exec (.l2Commit p d v) s = .next t ∧ t.mem = s.mem ∧
        flag (t.mach.dieReg d.toNat 0x198) (if l2Bad (s.mach.dieReg d.toNat) then 2 else 1) = true ∧
        (l2Bad (s.mach.dieReg d.toNat) = false → flag (t.mach.dieReg d.toNat 0x198) 2 = false ∧
          ∀ o ∈ l2Regs, Tab.get 0 t.mach.l2next (d.toNat * 0x1000 + o) = s.mach.dieReg d.toNat o)) ∧
    (flag (s.mach.dieReg d.toNat 0x198) 1 = true → ∃ t, exec (.l2CommitDone d) s = .next t ∧
      flag (t.mach.dieReg d.toNat 0x198) 1 = false ∧
      (∀ o ∈ l2Regs, t.mem.l2reg d.toNat o = Tab.get 0 s.mach.l2next (d.toNat * 0x1000 + o)) ∧
      ∀ sp a, (sp ≠ 0 ∨ ∀ g ∈ s.mem.staged, a / 65536 ≠ g.die * 0x80000 + g.frame) → t.mem.byte sp a = s.mem.byte sp a) ∧
    (s.mach.isMgmt p = true → s.mach.dieBusy d.toNat = false → fld v 1 0 ≠ fld (s.mach.dieReg d.toNat 0x080) 3 2 →
      ∃ t, exec (.pwrctlWrite p d v) s = .next t ∧ t.mem = s.mem ∧ fld (t.mach.dieReg d.toNat 0x080) 1 0 = fld v 1 0 ∧
        flag (t.mach.dieReg d.toNat 0x080) 4 = true) ∧
    (flag (s.mach.dieReg d.toNat 0x080) 4 = true → ∃ t, exec (.powerChangeDone d) s = .next t ∧
      fld (t.mach.dieReg d.toNat 0x080) 3 2 = fld (s.mach.dieReg d.toNat 0x080) 1 0 ∧
      (fld (s.mach.dieReg d.toNat 0x080) 3 2 ≠ 3 → t.mem = s.mem ∧ t.mach.cores = s.mach.cores)) ∧
    (∃ t, exec (.thermalTrip d) s = .next t ∧ t.mem = s.mem ∧ flag (t.mach.dieReg d.toNat 0x080) 6 = true ∧
      t.mach.msix = s.mach.msix ++ [(s.mach.mgmtPort, 0)] ∧ ∀ c, dieOf c = d.toNat → t.mach.stopped c = true) ∧
    (∃ t, exec (.thermalResume d) s = .next t ∧ t.mem = s.mem ∧
      ∀ c, dieOf c = d.toNat → (∀ r ∈ s.mach.saves, r.core ≠ c) → t.mach.stopped c = false)) ∧
  (∀ (s : State) (p : BitVec 1) (v : W64),
    (s.mach.isMgmt p = false → ∀ e ∈ [(Instr.featmaskWrite p v, 0x060), (.iopwrWrite p v, 0x068), (.registerWrite p 0 0x020 v, 0x020),
        (.registerWrite p 0 0x028 v, 0x028), (.registerWrite p 1 0x300 v, 0x10300)],
      exec e.1 s = .next (s.mechs (s.mach.refuse p e.2))) ∧
    (s.mach.isMgmt p = true →
      (s.mach.launches = [] → s.mach.saved = [] → exec (.featmaskWrite p v) s = .next (s.mechs (s.mach.setPortReg p.toNat 0x060 (v &&& 7)))) ∧
      ∃ t, exec (.iopwrWrite p v) s = .next t ∧ t.mem = s.mem ∧ t.mach.portReg p.toNat 0x068 = (v &&& 0x3FF)) ∧
    (∀ w : BitVec 4, bitAt s.mach.featMask 2 = false → ∃ t, exec (.redwinWrite p w 1 v) s = .next t ∧ t.mem = s.mem ∧
      t.mach.redwin (16 * p.toNat + w.toNat) 1 = (v &&& BitVec.ofNat 64 (0x3FF + (2 ^ 56 - 2 ^ 21)))) ∧
    (∀ w : BitVec 4, bitAt s.mach.featMask 2 = false →
      let r := mergeMask (0xF + 0xFFFF0000 + 0x7FF * 2 ^ 32) (s.mach.redwin (16 * p.toNat + w.toNat) 0) v
      let ok := winType r ≠ 3 ∧ 1 ≤ winCount r ∧ winCount r ≤ 1024 ∧ s.mach.tenants.get none (fld r 31 16) = some p.toNat
      ∃ t, exec (.redwinWrite p w 0 v) s = .next t ∧ t.mem = s.mem ∧
        (ok → t.mach.redwin (16 * p.toNat + w.toNat) 0 = r) ∧ (¬ ok → t.mach.redwin (16 * p.toNat + w.toNat) 0 = r &&& ~~~1)) ∧
    (bitAt s.mach.featMask 2 = true → ∀ (w : BitVec 4) (x : BitVec 1), exec (.redwinWrite p w x v) s = .next (s.mechs s.mach)) ∧
    (let a := v.toNat / 4096 * 4096
     (flag v 0 = false → exec (.attestGo p v) s = .next (s.mechs (s.mach.setPortReg p.toNat 0x070 (BitVec.ofNat 64 a)))) ∧
     (flag v 0 = true → let hd := reportHead s (s.mem.bytes (2 + p.toNat) a 64)
       ∃ t, exec (.attestGo p v) s = .next t ∧ t.mach.portReg p.toNat 0x070 = BitVec.ofNat 64 a ∧
         t.mem.bytes (2 + p.toNat) a 8192 = hd ++ leBytes (Config.sign hd).toNat 4627 ++ List.replicate 3245 0 ∧ SameBut s t (2 + p.toNat) a 8192)) ∧
    (∀ (blk : BitVec 3) (off : BitVec 12), (blk.toNat > 4 ∨ off.toNat % 8 ≠ 0 → exec (.registerWrite p blk off v) s = .fault .noSuchUnit) ∧
      (blk.toNat ≤ 4 → off.toNat % 8 = 0 → ∃ t, exec (.registerWrite p blk off v) s = .next t)) ∧
    (let runs := fun (blk : BitVec 3) (off : BitVec 12) (i : Instr) => exec (.registerWrite p blk off v) s = exec i s
     let asid := BitVec.ofNat 16 (fld v 15 0)
     runs 0 0x060 (.featmaskWrite p v) ∧ runs 0 0x068 (.iopwrWrite p v) ∧ runs 0 0x070 (.attestGo p v) ∧
     (∀ (w : BitVec 4) (x : BitVec 1), runs 0 (BitVec.ofNat 12 (0x300 + 16 * w.toNat + 8 * x.toNat)) (.redwinWrite p w x v)) ∧
     (flag v 19 = true → runs 0 0x040 ([Instr.createTenant p asid, .destroyTenant p asid, .givecore p asid, .takecore p asid,
       .setQuota p asid, .preemptCore p asid, .releaseCore p asid, .badop p asid].getD (fld v 18 16) (.badop p asid))) ∧
     runs 0 0x458 (if flag v 13 then .replayCopy p (BitVec.ofNat 10 (fld v 9 0)) (BitVec.ofNat 3 (fld v 12 10))
       else .declineCopy p (BitVec.ofNat 10 (fld v 9 0)) (BitVec.ofNat 3 (fld v 12 10))) ∧
     ∀ d : BitVec 2, let blk := BitVec.ofNat 3 (1 + d.toNat)
       runs blk 0x308 (.txinv p d v) ∧ runs blk 0x080 (.pwrctlWrite p d v) ∧ runs blk 0x198 (.l2Commit p d v)) ∧
    (exec (.registerWrite p 0 0x410 v) s = .next (s.mechs (s.mach.setPortReg p.toNat 0x410 (s.mach.portReg p.toNat 0x410 &&& ~~~v)))) ∧
    (∃ t, exec (.registerWrite p 0 0x048 v) s = .next t ∧ t.mach.portReg p.toNat 0x048 = v ∧ t.mem = s.mem) ∧
    (s.mach.isMgmt p = true → ∃ t, exec (.registerWrite p 1 0x300 v) s = .next t ∧
      t.mach.dieReg 0 0x300 = (v &&& BitVec.ofNat 64 (1 + (2 ^ 42 - 2 ^ 16)) |||
        s.mach.dieReg 0 0x300 &&& ~~~BitVec.ofNat 64 (1 + (2 ^ 42 - 2 ^ 16))) ∧ t.mem = s.mem)) ∧
  ∀ (s : State) (p : BitVec 1) (ap : BitVec 4) (off : BitVec 32) (n : Nat) (bs : List Byte), off.toNat + n ≤ 2 ^ 32 →
    off.toNat + bs.length ≤ 2 ^ 32 →
    let refused := fun (t : State) (m : Nat) => t.mem = s.mem ∧ t.mach.hostData = List.replicate m 0xFF ∧
      t.mach.portReg p.toNat 0x008 = s.mach.portReg p.toNat 0x008 + 1
    (apReached s p ap off n accRead = false → ∃ t, exec (.hostApertureRead p ap off n) s = .next t ∧ refused t n) ∧
    let r := s.mach.apctl p ap
    let tag := ap.toNat * 2 ^ 32 + off.toNat
    let goes := fun (w : Move) (n : Nat) => s.mayMove 0 (fld r 31 16) (hostHolder p.toNat) tag [(w, [(apAddr r off, n)])]
    let m' := (s.served (hostHolder p.toNat) tag).mach
    (apReached s p ap off n accRead = true → apWaits s p ap off n accRead = false → goes (.read 0) n →
      exec (.hostApertureRead p ap off n) s = .next (s.mechs { m' with hostData := apRead s p ap off n })) ∧
    (apReached s p ap off bs.length accWrite = false → ∃ t, exec (.hostApertureWrite p ap off bs) s = .next t ∧ refused t 0) ∧
    (apReached s p ap off bs.length accWrite = true → apWaits s p ap off bs.length accWrite = false → goes .write bs.length →
      exec (.hostApertureWrite p ap off bs) s = .next
        { mach := (if apLost s p ap off bs.length accWrite then m'.incDie 0 0x328 1 else m').ticked
          mem := apStore p r (apAddr r off) bs s }) ∧
    ∀ (op : Sys2Proof.HostOp) (len : BitVec 5) (x y : BitVec 128) (sp ad : Nat),
      let va := apAddr r off
      let acc : Acc := ⟨true, true, true, false⟩
      apPlace s p r va acc = .ok sp ad true → apReached s p ap off len.toNat acc = true → va % len.toNat = 0 →
      hostSizeOk op len.toNat = true → apWaits s p ap off len.toNat acc = false → goes (.read 0) len.toNat →
      ∃ t, exec (.hostAtomic p ap off op len x y) s = .next t ∧ t.mach.hostData = leBytes (s.mem.read sp ad len.toNat) len.toNat ∧
        SameBut s t sp ad len.toNat ∧ t.mem.read sp ad len.toNat =
          (match op with
           | .fetchAdd => (s.mem.read sp ad len.toNat + x.toNat) % 2 ^ (8 * len.toNat)
           | .swap => x.toNat % 2 ^ (8 * len.toNat)
           | .cas => if s.mem.read sp ad len.toNat = x.toNat % 2 ^ (8 * len.toNat) then y.toNat % 2 ^ (8 * len.toNat)
             else s.mem.read sp ad len.toNat)

/-- ULI_TRAIN brings a port of a powered die up at its generation, ULI_DOWN drops it. A request from another device reads, writes, or changes atomically the bytes it names at their home, and no other; a contribution joins those on their way; one that is not at home here faults, one whose home die does not serve waits, and no poisoned line is returned or combined. POWER_GOOD takes bring-up by one step, from STAGE 0 to 4, and reports each in BOOTSTAT, or FATAL with its code. Device reset leaves every register at its reset value, the domain registers in effect among them, and every byte of memory as it stands. A collective whose members have all joined is over and counted, and with no member's copy to take its result memory stands. A contribution whose rank has none before it, with a serving home and room, joins its round, and ends its atomic; a full round is combined with the home value, in one write. The model's choices here: an address that is not at home faults (log 14, 28), a poisoned line is left as it stands (log 36), an accepted contribution ends its atomic (log 38), a sleeping die's request waits (log 40), a request waits for its tenant's units (log 19), and bring-up takes four steps (log 20). -/
def Obligations.FabricBringUpCollectives : Prop :=
  (∀ (s : State) (p : BitVec 4) (g : Bool),
    (uliOff (s.mach.portReg s.mach.mgmtPort 0x068) (p.toNat / 4) = false → ∃ t, exec (.uliTrain p g) s = .next t ∧ t.mem = s.mem ∧
      t.mach.uliUp p.toNat = true ∧ fld (t.mach.portReg 0 (0x200 + 8 * p.toNat)) 2 1 = (if g then 2 else 1) ∧
      ((∀ q, q < 16 → s.mach.uliUp q = false) → t.mach.deviceNo < 1024)) ∧
    (uliOff (s.mach.portReg s.mach.mgmtPort 0x068) (p.toNat / 4) = true → exec (.uliTrain p g) s = .next s) ∧
    ∃ t, exec (.uliDown p) s = .next t ∧ t.mem = s.mem ∧ t.mach.uliUp p.toNat = false) ∧
  (∀ (s : State) (dev : BitVec 10) (asid : BitVec 16) (addr : BitVec 42),
    let a := addr.toNat
    let h := remoteHolder dev.toNat
    let s' := s.served h a
    let ready := fun (r : RemReq) => s.portsOpen h a (remotePorts s dev.toNat asid.toNat a r)
    (∀ r, localMapped a = false ∨ reqOk a r = false → exec (.remoteRequest dev asid addr r) s = .fault .noSuchUnit) ∧
    (localMapped a = true → s.mach.asleep 0 a = true → ∀ r, reqOk a r = true → exec (.remoteRequest dev asid addr r) s = .next s) ∧
    (localMapped a = true → s.mach.asleep 0 a = false →
    (s.mem.poisoned 0 a = true → ∀ r, reqOk a r = true → (∀ bs, r ≠ .write bs) → (∀ w o v core ctx, r ≠ .contribution w o v core ctx) →
      ready r → exec (.remoteRequest dev asid addr r) s = .next (s.mechs { s'.mach with hostData := [] })) ∧
    (∀ n, 1 ≤ n → a % 64 + n ≤ 64 → s.mem.poisoned 0 a = false → ready (.read n) →
      exec (.remoteRequest dev asid addr (.read n)) s = .next (s.mechs { s'.mach with hostData := s.mem.bytes 0 a n })) ∧
    (∀ bs, 1 ≤ bs.length → a % 64 + bs.length ≤ 64 → ready (.write bs) → ∃ t, exec (.remoteRequest dev asid addr (.write bs)) s = .next t ∧
      t.mem.bytes 0 a bs.length = bs ∧ SameBut s t 0 a bs.length) ∧
    (∀ (o : BitVec 4) n x y, o.toNat ≤ 11 → (n = 4 ∨ n = 8 ∨ (n = 16 ∧ 8 ≤ o.toNat)) → a % n = 0 → s.mem.poisoned 0 a = false → ready (.amo o n x y) →
      ∃ t, exec (.remoteRequest dev asid addr (.amo o n x y)) s = .next t ∧
        t.mach.hostData = leBytes (s.mem.read 0 a n) n ∧ SameBut s t 0 a n ∧
        t.mem.read 0 a n = amoValue o.toNat (8 * n) (s.mem.read 0 a n) x.toNat y.toNat % 2 ^ (8 * n)) ∧
    (∀ (o : BitVec 4) n m, o.toNat ≤ 7 → (n = 4 ∨ n = 8) → a % n = 0 → s.mem.poisoned 0 a = false → ready (.merged o false n m) →
      ∃ t, exec (.remoteRequest dev asid addr (.merged o false n m)) s = .next t ∧ SameBut s t 0 a n ∧
        t.mem.read 0 a n = amoValue o.toNat (8 * n) (s.mem.read 0 a n) (m.toNat % 2 ^ (8 * n)) 0 % 2 ^ (8 * n)) ∧
    (∀ (w o : BitVec 4) v core ctx, o.toNat ≤ 7 → a % 4 = 0 → ready (.contribution w o v core ctx) →
      ∃ t c, exec (.remoteRequest dev asid addr (.contribution w o v core ctx)) s = .next t ∧ t.mem = s.mem ∧
        t.mach.contribs = s.mach.contribs ++ [c] ∧ c.dev = dev.toNat ∧ c.addr = a ∧ c.val = v ∧ c.opc = o.toNat ∧
        c.win = 16 * (s.mach.tenants.get none asid.toNat).getD 0 + w.toNat))) ∧
  (∀ (s : State) (fail : BitVec 2) (far : BitVec 48), s.mach.unbooted = true →
    let st := fld (s.mach.portReg 0 0x018) 3 0
    let out := fld (s.mach.portReg 0 0x018) 60 13
    ∃ t, exec (.powerGood fail far) s = .next t ∧
      (let reports := fun (stage code far : Nat) => ∀ p, p < 2 → let b := t.mach.portReg p 0x018
         fld b 3 0 = stage ∧ flag b 4 = decide (code ≠ 0) ∧ fld b 12 5 = code ∧ fld b 60 13 = far
       (st = 0 → t.mem = s.mem ∧ (fail = 1 ∨ fail = 2 → reports 0 fail.toNat far.toNat) ∧ (fail = 0 ∨ fail = 3 → reports 1 0 far.toNat)) ∧
       (st = 1 → t.mem.loc = [] ∧ t.mem.poison = [] ∧ t.mem.h0 = s.mem.h0 ∧ t.mem.h1 = s.mem.h1 ∧ t.mach.cores = [] ∧ reports 2 0 out) ∧
       (st = 2 → t.mem = s.mem ∧ (fail = 3 → reports 2 3 out) ∧ (fail ≠ 3 → reports 3 0 out)) ∧
       (st = 3 → t.mem = s.mem ∧ reports 4 0 out ∧ (∀ p, p < 2 → flag (t.mach.portReg p 0x000) 2 = true ∧ flag (t.mach.portReg p 0x408) 16 = true) ∧
         ∀ c, c < 640 → (t.mach.core c).rtab = stdTable ∧ (t.mach.core c).ustore = stdStore))) ∧
  (∀ s : State, ∃ t, exec .deviceReset s = .next t ∧ t.mem = { s.mem with l2act := State.reset.mem.l2act } ∧
    t.mach = { State.reset.mach with minor := s.mach.minor, stepping := s.mach.stepping, agenda := s.mach.agenda, tick := s.mach.tick + 1 }) ∧
  (∀ (s : State) (idx : Nat) (q : Coll), s.mach.colls[idx]? = some q → q.isOver = false → q.count ≤ q.members.length →
    s.mach.collOn = true →
    ∃ t, exec (.collectiveComplete idx) s = .next t ∧ (∀ x ∈ t.mach.colls, x.id = q.id → x.isOver = true) ∧
      (s.mach.membersOf q.id = [] → t.mem = s.mem) ∧
      ∀ p, p < 2 → let off := if q.mismatched then 0x4D8 else 0x4C0
        t.mach.portReg p off = s.mach.portReg p off + 1) ∧
  ∀ (s : State) (idx : Nat) (c : Contrib), s.mach.contribs[idx]? = some c →
    (∀ r ∈ s.mach.rounds ++ s.mach.contribs.take idx, r.meets c = true → r.rank ≠ c.rank) →
    s.mach.asleep c.space c.addr = false → (s.mach.homeMerged c = true → s.mach.collOn = true ∧ s.mach.buffersFull c = false) →
    let round := (s.mach.rounds ++ [c]).filter (fun r => r.meets c)
    let m := if c.waited then s.mach.incBoth 0x4C8 (acOf s.mach.tick 0x4C8) else s.mach
    let on := fun (s : State) => (if c.seq.isSome then s.settle c.core c.ctx else s).idle
    (round.length < c.count → exec (.contribArrive idx) s = .next (on { s with mach :=
      { m.accepted c with contribs := dropNth s.mach.contribs idx, rounds := s.mach.rounds ++ [c] } })) ∧
    (c.count ≤ round.length → s.mem.poisoned c.space c.addr = true → ∃ t, exec (.contribArrive idx) s = .next t ∧ t.mem = s.mem ∧
      ∀ r ∈ t.mach.rounds, r.meets c = false) ∧
    (c.count ≤ round.length → s.mem.poisoned c.space c.addr = false → ∃ t, exec (.contribArrive idx) s = .next t ∧
      t.mach.contribs = dropNth s.mach.contribs idx ∧ (∀ r ∈ t.mach.rounds, r.meets c = false) ∧
      SameBut s t c.space c.addr c.len ∧
      ∀ v, mergedValue round = some v → t.mem.read c.space c.addr c.len = c.merge (s.mem.read c.space c.addr c.len) v % 2 ^ (8 * c.len))
end

