-- ==== Sys2Proof/Laws/Encoding.lean ====
section
/-! SUPPORT. Fields put together and cut apart again: what decoding makes of encoded words, form by form. -/
namespace Sys2Proof
open Machine

/-! ### Fields -/

theorem pack_cons (w x : Nat) (t : List (Nat × Nat)) : pack ((w, x) :: t) = x % 2 ^ w + 2 ^ w * pack t := rfl
theorem pack_nil : pack [] = 0 := rfl
/-- Fields cut out of the word they were put into are the fields, each modulo its width. -/
theorem unpack_pack (fs : List (Nat × Nat)) :
    unpack (fs.map (·.1)) (pack fs) = fs.map (fun f => f.2 % 2 ^ f.1) := by
  induction fs with
  | nil => rfl
  | cons f t ih =>
    have hp : 0 < 2 ^ f.1 := Nat.two_pow_pos _
    have h1 : pack (f :: t) % 2 ^ f.1 = f.2 % 2 ^ f.1 := by
      show (f.2 % 2 ^ f.1 + 2 ^ f.1 * pack t) % 2 ^ f.1 = _
      rw [Nat.add_mul_mod_self_left, Nat.mod_mod]
    have h2 : pack (f :: t) / 2 ^ f.1 = pack t := by
      show (f.2 % 2 ^ f.1 + 2 ^ f.1 * pack t) / 2 ^ f.1 = _
      rw [Nat.add_mul_div_left _ _ hp, Nat.div_eq_of_lt (Nat.mod_lt _ hp), Nat.zero_add]
    simp only [List.map_cons, unpack, h1, h2, ih]
/-- A word of fields is as wide as they are together. -/
theorem pack_lt (fs : List (Nat × Nat)) : pack fs < 2 ^ (fs.map (·.1)).sum := by
  induction fs with
  | nil => exact Nat.one_pos
  | cons f t ih =>
    have hp : 0 < 2 ^ f.1 := Nat.two_pow_pos _
    have hm : f.2 % 2 ^ f.1 < 2 ^ f.1 := Nat.mod_lt _ hp
    have he : 2 ^ f.1 * pack t + 2 ^ f.1 ≤ 2 ^ f.1 * 2 ^ (t.map (·.1)).sum := by
      rw [← Nat.mul_succ]; exact Nat.mul_le_mul_left _ ih
    simp only [List.map_cons, List.sum_cons, Nat.pow_add]
    show f.2 % 2 ^ f.1 + 2 ^ f.1 * pack t < _
    omega
/-- Cutting up a bit vector that holds exactly those fields. -/
theorem unpack_ofNat (n : Nat) (fs : List (Nat × Nat)) (hn : (fs.map (·.1)).sum ≤ n) :
    unpack (fs.map (·.1)) (BitVec.ofNat n (pack fs)).toNat = fs.map (fun f => f.2 % 2 ^ f.1) := by
  have h : pack fs < 2 ^ n := Nat.lt_of_lt_of_le (pack_lt fs) (Nat.pow_le_pow_right (by decide) hn)
  rw [BitVec.toNat_ofNat, Nat.mod_eq_of_lt h, unpack_pack]

theorem ofNat_mod (n x : Nat) : BitVec.ofNat n (x % 2 ^ n) = BitVec.ofNat n x := by
  apply BitVec.eq_of_toNat_eq; simp
theorem ofNat_toNat_mod {n : Nat} (b : BitVec n) : BitVec.ofNat n (b.toNat % 2 ^ n) = b := by
  apply BitVec.eq_of_toNat_eq; simp
theorem toNat_mod {n : Nat} (b : BitVec n) : b.toNat % 2 ^ n = b.toNat := Nat.mod_eq_of_lt b.isLt
theorem b2n_mod (b : Bool) : b2n b % 2 ^ 1 = b2n b := by cases b <;> rfl
theorem b2n_beq (b : Bool) : (b2n b == 1) = b := by cases b <;> rfl
theorem ofNat_toNat' {n : Nat} (b : BitVec n) : BitVec.ofNat n b.toNat = b := by simp

/-! ### Descriptors and control words -/

theorem encodeDesc_lt (d : Desc) : encodeDesc d < 2 ^ 18 := by
  cases d <;> exact pack_lt _
/-- A descriptor survives its encoding (R30). -/
theorem decodeDesc_encodeDesc (d : Desc) : decodeDesc (encodeDesc d) = some d := by
  cases d with
  | queue q k l =>
    have hq := q.isLt; have hk := k.isLt
    have hl : b2n l < 2 := by cases l <;> decide
    have e : encodeDesc (.queue q k l) = pack [(16, pack [(8, 0), (1, b2n l), (4, k.toNat), (3, q.toNat)]), (2, 0)] := by
      simp only [encodeDesc, pack]; omega
    have h1 := unpack_pack [(16, pack [(8, 0), (1, b2n l), (4, k.toNat), (3, q.toNat)]), (2, 0)]
    have h2 := unpack_pack [(8, 0), (1, b2n l), (4, k.toNat), (3, q.toNat)]
    have hlt : pack [(8, 0), (1, b2n l), (4, k.toNat), (3, q.toNat)] < 2 ^ 16 := pack_lt _
    simp only [List.map_cons, List.map_nil, Nat.mod_eq_of_lt hlt] at h1 h2
    rw [e]
    simp only [decodeDesc, h1, h2, Nat.zero_mod]
    simp [b2n_beq, Nat.mod_eq_of_lt hq, Nat.mod_eq_of_lt hk, Nat.mod_eq_of_lt hl]
  | vreg r =>
    have hr := r.isLt
    have h1 := unpack_pack [(16, r.toNat), (2, 1)]
    simp only [List.map_cons, List.map_nil] at h1
    have : r.toNat % 65536 = r.toNat := Nat.mod_eq_of_lt (by omega)
    simp [encodeDesc, decodeDesc, h1, this, hr]
  | sreg r =>
    have hr := r.isLt
    have h1 := unpack_pack [(16, r.toNat), (2, 2)]
    simp only [List.map_cons, List.map_nil] at h1
    have : r.toNat % 65536 = r.toNat := Nat.mod_eq_of_lt (by omega)
    simp [encodeDesc, decodeDesc, h1, this, hr]
  | cbank b =>
    have hr := b.isLt
    have h1 := unpack_pack [(16, b.toNat), (2, 3)]
    simp only [List.map_cons, List.map_nil] at h1
    have : b.toNat % 65536 = b.toNat := Nat.mod_eq_of_lt (by omega)
    simp [encodeDesc, decodeDesc, h1, this, hr]
  | lit s => cases s <;> rfl
/-- A control word survives its encoding (R25). -/
theorem decodeCw_encodeCw (o : Nat) (c : Cw) (ho : o < 1024) : decodeCw (encodeCw o c).toNat = some (o, c) := by
  have h := unpack_ofNat 256 [(64, c.lit1.toNat), (64, c.lit0.toNat), (22, 0), (8, c.aux.toNat), (3, c.mksel.toNat),
    (4, c.pdst.toNat), (18, encodeDesc c.dst), (18, encodeDesc c.src3), (18, encodeDesc c.src2),
    (18, encodeDesc c.src1), (2, c.sat.toNat), (3, c.rnd.toNat), (4, c.etype.toNat), (10, o)] (by simp only [List.map_cons, List.map_nil, List.sum_cons, List.sum_nil]; omega)
  simp only [List.map_cons, List.map_nil, Nat.mod_eq_of_lt (encodeDesc_lt _), toNat_mod,
    Nat.mod_eq_of_lt (show o < 2 ^ 10 from ho)] at h
  simp only [encodeCw, decodeCw, cwLayout, h, Nat.zero_mod, decodeDesc_encodeDesc, ofNat_toNat']

/-! ### One form after another -/

/-- A control operation. -/
theorem decode_ctl (i : Instr) (cop x : Nat) (g : BitVec 4) (hv : view i = .ctl cop g x) (hc : cop < 32) (hx : x < 2 ^ 19)
    (ho : ofCtl cop g x = some i) (hw : wellFormed i = true) : decodeWords (encode i) = some i := by
  have he : (encErr i).isNone = true := by
    simp only [wellFormed, Bool.and_eq_true] at hw; exact hw.1
  have hk : ctlOk cop x = true := by
    simp only [encErr, hv] at he
    by_cases h : ctlOk cop x = true
    · exact h
    · simp [h] at he
  have hn : encErr i = none := by simpa using he
  have h := unpack_ofNat 64 [(16, 0x0600), (16, 0x0600), (19, x), (5, cop), (4, g.toNat), (4, 0)] (by simp only [List.map_cons, List.map_nil, List.sum_cons, List.sum_nil]; omega)
  simp only [List.map_cons, List.map_nil, toNat_mod, Nat.mod_eq_of_lt hx, Nat.mod_eq_of_lt (show cop < 2 ^ 5 from hc)] at h
  simp only [encode, hv, decodeWords, decodeCtl, headerLayout, h, hk, ofNat_toNat', if_true, ho, checked, hn]
/-- An operation of a 16-bit slot. -/
theorem decode_op (i : Instr) (o : Nat) (p : Part) (hv : view i = .op o p) (ho : o < 1024) (hi : ofOp o p = some i)
    (hw : wellFormed i = true) : decodeWords (encode i) = some i := by
  have he : (encErr i).isNone = true := by
    simp only [wellFormed, Bool.and_eq_true] at hw; exact hw.1
  have hn : encErr i = none := by simpa using he
  have hk : cwOk o p = true := by
    simp only [encErr, hv] at he
    by_cases h : cwOk o p = true
    · exact h
    · simp [h] at he
  have h3 : p.width ≠ 3 := by
    simp only [cwOk, Bool.and_eq_true, decide_eq_true_eq] at hk
    simp_all
  have hw3 : p.width.toNat ≠ 3 := fun e => h3 (BitVec.eq_of_toNat_eq e)
  have h := unpack_ofNat 16 [(9, p.index.toNat), (2, p.width.toNat), (1, b2n p.ar), (4, p.guard.toNat)] (by simp only [List.map_cons, List.map_nil, List.sum_cons, List.sum_nil]; omega)
  simp only [List.map_cons, List.map_nil, toNat_mod, b2n_mod] at h
  have hc : p.width.toNat = 0 ∨ p.width.toNat = 1 ∨ p.width.toNat = 2 := by
    have := p.width.isLt; omega
  have e2 : BitVec.ofNat 2 p.width.toNat = p.width := ofNat_toNat' _
  rcases hc with e | e | e <;> rw [e] at h e2 <;>
    simp only [encode, hv, decodeWords, decodeSlot, slotLayout, e, h, decodeCw_encodeCw o p.cw ho, b2n_beq, ofNat_toNat',
      e2, hi, checked, hn]
/-- A copy. -/
theorem decode_cp (i : Instr) (cop : Nat) (code : Bool) (p : Cp) (hv : view i = .cp cop code p) (hc : cop < 64)
    (hi : cpOk cop code p = true → ofCp cop p = some i) (hw : wellFormed i = true) : decodeWords (encode i) = some i := by
  have he : (encErr i).isNone = true := by
    simp only [wellFormed, Bool.and_eq_true] at hw; exact hw.1
  have hn : encErr i = none := by simpa using he
  have hk : cpOk cop code p = true := by
    simp only [encErr, hv] at he
    by_cases h : cpOk cop code p = true
    · exact h
    · simp [h] at he
  have h := unpack_ofNat 64 [(5, p.spec.toNat), (3, p.policy.toNat), (2, p.seq.toNat),
      (6, p.barReg.toNat), (18, encodeDesc p.dest), (6, p.auxReg.toNat), (6, p.lenReg.toNat), (6, p.addrReg.toNat),
      (6, cop), (1, 1), (1, b2n p.ar), (4, p.guard.toNat)] (by simp only [List.map_cons, List.map_nil, List.sum_cons, List.sum_nil]; omega)
  simp only [List.map_cons, List.map_nil, toNat_mod, b2n_mod, Nat.mod_eq_of_lt (encodeDesc_lt _),
    Nat.mod_eq_of_lt (show cop < 2 ^ 6 from hc), show 1 % 2 ^ 1 = 1 from rfl] at h
  simp only [encode, hv, decodeWords, decodeCp, cpLayout, h, decodeDesc_encodeDesc, b2n_beq, ofNat_toNat', hi hk, checked, hn]
/-- A micro-op. -/
theorem decode_uop (i : Instr) (mop : Nat) (u : Uop) (hv : view i = .uop mop u) (hc : mop < 64)
    (hi : ofUop mop u = some i) (hw : wellFormed i = true) : decodeWords (encode i) = some i := by
  have he : (encErr i).isNone = true := by
    simp only [wellFormed, Bool.and_eq_true] at hw; exact hw.1
  have hn : encErr i = none := by simpa using he
  have h := unpack_ofNat 64 [(32, u.imm.toNat), (13, 0), (4, u.flags.toNat), (3, u.pc.toNat), (3, u.pb.toNat),
      (3, u.pa.toNat), (6, mop)] (by simp only [List.map_cons, List.map_nil, List.sum_cons, List.sum_nil]; omega)
  simp only [List.map_cons, List.map_nil, toNat_mod, Nat.zero_mod, Nat.mod_eq_of_lt (show mop < 2 ^ 6 from hc)] at h
  simp only [encode, hv, decodeWords, decodeUop, uopLayout, h, ofNat_toNat', hi, checked, hn]

end Sys2Proof
end

