-- ==== Sys2Proof/Laws/Tab.lean ====
section
/-! SUPPORT. Finite tables: reading after a write, and the canonical form that a write keeps. -/
namespace Sys2Proof
variable {α : Type}

@[simp] theorem Tab.get_nil (d : α) (k : Nat) : Tab.get d [] k = d := rfl
theorem Tab.get_cons (d : α) (c : Nat × α) (t : Tab α) (k : Nat) :
    Tab.get d (c :: t) k = if c.1 = k then c.2 else Tab.get d t k := rfl

theorem Tab.erase_cons (c : Nat × α) (t : Tab α) (k : Nat) :
    Tab.erase (c :: t) k = if c.1 = k then Tab.erase t k else c :: Tab.erase t k := by
  by_cases h : c.1 = k <;> simp [Tab.erase, h]
theorem Tab.get_erase_self (d : α) (m : Tab α) (k : Nat) : Tab.get d (m.erase k) k = d := by
  induction m with
  | nil => rfl
  | cons c t ih =>
    rw [Tab.erase_cons]
    split
    · exact ih
    · rename_i h; rw [Tab.get_cons, if_neg h, ih]
theorem Tab.get_erase_other (d : α) (m : Tab α) (k j : Nat) (h : j ≠ k) : Tab.get d (m.erase k) j = Tab.get d m j := by
  induction m with
  | nil => rfl
  | cons c t ih =>
    rw [Tab.erase_cons, Tab.get_cons]
    split
    · rename_i hc; rw [ih, if_neg (fun e => h (e.symm.trans hc))]
    · rw [Tab.get_cons, ih]
theorem Tab.get_insert_self (d : α) (m : Tab α) (k : Nat) (v : α) (h : ∀ c ∈ m, c.1 ≠ k) :
    Tab.get d (m.insert k v) k = v := by
  induction m with
  | nil => simp [Tab.insert, Tab.get_cons]
  | cons c t ih =>
    unfold Tab.insert
    split
    · simp [Tab.get_cons]
    · rw [Tab.get_cons, if_neg (h c (List.mem_cons_self ..)), ih (fun c hc => h c (List.mem_cons_of_mem _ hc))]
theorem Tab.get_insert_other (d : α) (m : Tab α) (k j : Nat) (v : α) (h : j ≠ k) :
    Tab.get d (m.insert k v) j = Tab.get d m j := by
  induction m with
  | nil => simp [Tab.insert, Tab.get_cons, Ne.symm h]
  | cons c t ih =>
    unfold Tab.insert
    split
    · simp [Tab.get_cons, Ne.symm h]
    · rw [Tab.get_cons, Tab.get_cons, ih]
theorem Tab.not_mem_erase (m : Tab α) (k : Nat) : ∀ c ∈ m.erase k, c.1 ≠ k := by
  intro c hc
  simp only [Tab.erase, List.mem_filter, decide_eq_true_eq] at hc
  exact hc.2

/-- Reading a key after writing it. -/
@[simp] theorem Tab.get_set_self [DecidableEq α] (d : α) (m : Tab α) (k : Nat) (v : α) : Tab.get d (Tab.set d m k v) k = v := by
  unfold Tab.set
  split
  · rename_i h; rw [Tab.get_erase_self, h]
  · exact Tab.get_insert_self d _ k v (Tab.not_mem_erase m k)
/-- A write leaves every other key alone. -/
theorem Tab.get_set_other [DecidableEq α] (d : α) (m : Tab α) (k j : Nat) (v : α) (h : j ≠ k) :
    Tab.get d (Tab.set d m k v) j = Tab.get d m j := by
  unfold Tab.set
  split
  · exact Tab.get_erase_other d m k j h
  · rw [Tab.get_insert_other d _ k j v h, Tab.get_erase_other d m k j h]
theorem Tab.get_set [DecidableEq α] (d : α) (m : Tab α) (k j : Nat) (v : α) :
    Tab.get d (Tab.set d m k v) j = if j = k then v else Tab.get d m j := by
  by_cases h : j = k
  · rw [if_pos h, h, Tab.get_set_self]
  · rw [if_neg h, Tab.get_set_other d m k j v h]

/-! ### The canonical form -/

theorem Tab.canon_iff [DecidableEq α] (d : α) (m : Tab α) :
    Tab.canon d m = true ↔ m.Pairwise (fun a b => a.1 < b.1) ∧ ∀ c ∈ m, c.2 ≠ d := by
  induction m with
  | nil => simp [Tab.canon]
  | cons c t ih =>
    cases t with
    | nil => simp [Tab.canon]
    | cons e t =>
      simp only [Tab.canon, Bool.and_eq_true, decide_eq_true_eq, ih]
      constructor
      · rintro ⟨⟨h1, h2⟩, h3, h4⟩
        refine ⟨List.pairwise_cons.mpr ⟨?_, h3⟩, ?_⟩
        · intro x hx
          rcases List.mem_cons.mp hx with rfl | hx
          · exact h2
          · exact Nat.lt_trans h2 ((List.pairwise_cons.mp h3).1 x hx)
        · intro x hx
          rcases List.mem_cons.mp hx with rfl | hx
          · exact h1
          · exact h4 x hx
      · rintro ⟨h1, h2⟩
        have hp := List.pairwise_cons.mp h1
        exact ⟨⟨h2 c (List.mem_cons_self ..), hp.1 e (List.mem_cons_self ..)⟩, hp.2,
          fun x hx => h2 x (List.mem_cons_of_mem _ hx)⟩
theorem Tab.canon_erase [DecidableEq α] (d : α) (m : Tab α) (k : Nat) (h : Tab.canon d m = true) :
    Tab.canon d (m.erase k) = true := by
  rw [Tab.canon_iff] at *
  exact ⟨h.1.filter _, fun c hc => h.2 c (List.mem_filter.mp hc).1⟩
theorem Tab.mem_insert (m : Tab α) (k : Nat) (v : α) (c : Nat × α) (h : c ∈ m.insert k v) : c = (k, v) ∨ c ∈ m := by
  induction m with
  | nil => simp [Tab.insert] at h; exact .inl h
  | cons e t ih =>
    unfold Tab.insert at h
    split at h
    · rcases List.mem_cons.mp h with h | h
      · exact .inl h
      · exact .inr h
    · rcases List.mem_cons.mp h with h | h
      · exact .inr (h ▸ List.mem_cons_self ..)
      · exact (ih h).imp id (List.mem_cons_of_mem _)
theorem Tab.pairwise_insert (m : Tab α) (k : Nat) (v : α) (h : m.Pairwise (fun a b => a.1 < b.1))
    (hk : ∀ c ∈ m, c.1 ≠ k) : (m.insert k v).Pairwise (fun a b => a.1 < b.1) := by
  induction m with
  | nil => simp [Tab.insert]
  | cons e t ih =>
    have hp := List.pairwise_cons.mp h
    unfold Tab.insert
    split
    · rename_i hlt
      refine List.pairwise_cons.mpr ⟨?_, h⟩
      intro x hx
      rcases List.mem_cons.mp hx with rfl | hx
      · exact hlt
      · exact Nat.lt_trans hlt (hp.1 x hx)
    · rename_i hge
      refine List.pairwise_cons.mpr ⟨?_, ih hp.2 (fun c hc => hk c (List.mem_cons_of_mem _ hc))⟩
      intro x hx
      rcases Tab.mem_insert t k v x hx with rfl | hx
      · have := hk e (List.mem_cons_self ..); simp only; omega
      · exact hp.1 x hx
/-- A write keeps the canonical form. -/
theorem Tab.canon_set [DecidableEq α] (d : α) (m : Tab α) (k : Nat) (v : α) (h : Tab.canon d m = true) :
    Tab.canon d (Tab.set d m k v) = true := by
  unfold Tab.set
  split
  · exact Tab.canon_erase d m k h
  · rename_i hv
    have he := Tab.canon_erase d m k h
    rw [Tab.canon_iff] at *
    refine ⟨Tab.pairwise_insert _ k v he.1 (Tab.not_mem_erase m k), ?_⟩
    intro c hc
    rcases Tab.mem_insert _ k v c hc with rfl | hc
    · exact hv
    · exact he.2 c hc
/-- A table in canonical form lists a key once. -/
theorem Tab.get_of_mem [DecidableEq α] (d : α) (m : Tab α) (h : Tab.canon d m = true) (k : Nat) (v : α) (hm : (k, v) ∈ m) :
    Tab.get d m k = v := by
  rw [Tab.canon_iff] at h
  induction m with
  | nil => cases hm
  | cons c t ih =>
    rw [Tab.get_cons]
    have hp := List.pairwise_cons.mp h.1
    rcases List.mem_cons.mp hm with rfl | hm
    · simp
    · have : c.1 ≠ k := Nat.ne_of_lt (hp.1 _ hm)
      rw [if_neg this]
      exact ih ⟨hp.2, fun x hx => h.2 x (List.mem_cons_of_mem _ hx)⟩ hm

end Sys2Proof
end

