-- ==== Sys2Proof/Laws/Mem.lean ====
section
/-! SUPPORT. Memory: every operation keeps the canonical form; a read after a store; what a store leaves alone. -/
namespace Sys2Proof.Machine
open Sys2Proof

/-! ### The form -/

theorem Mem.wf_iff (m : Mem) : m.wf = true ↔
    (Tab.canon 0 m.loc = true ∧ Tab.canon 0 m.h0 = true ∧ Tab.canon 0 m.h1 = true ∧ Tab.canon 0 m.rem = true) ∧
      Tab.canon false m.poison = true := by
  simp [Mem.wf, and_assoc]
/-- The form depends on no dirty line and no frame. -/
theorem Mem.wf_congr {m m' : Mem} (h1 : m'.loc = m.loc) (h2 : m'.h0 = m.h0) (h3 : m'.h1 = m.h1) (h4 : m'.rem = m.rem)
    (h5 : m'.poison = m.poison) : m'.wf = m.wf := by
  simp [Mem.wf, h1, h2, h3, h4, h5]
theorem Mem.canon_tab {m : Mem} (h : m.wf = true) (sp : Nat) : Tab.canon 0 (m.tab sp) = true := by
  rw [Mem.wf_iff] at h
  unfold Mem.tab
  split
  · exact h.1.1
  · exact h.1.2.2.2
  · exact h.1.2.1
  · exact h.1.2.2.1
theorem canon_writeTab (t : Tab Byte) (a : Nat) (bs : List Byte) (h : Tab.canon 0 t = true) :
    Tab.canon 0 (writeTab t a bs) = true := by
  induction bs generalizing t a with
  | nil => exact h
  | cons b bs ih => exact ih _ _ (Tab.canon_set 0 t a b h)
theorem Mem.wf_setTab {m : Mem} (h : m.wf = true) (sp : Nat) (t : Tab Byte) (ht : Tab.canon 0 t = true) :
    (m.setTab sp t).wf = true := by
  rw [Mem.wf_iff] at h
  unfold Mem.setTab
  split <;> rw [Mem.wf_iff]
  · exact ⟨⟨ht, h.1.2⟩, h.2⟩
  · exact ⟨⟨h.1.1, h.1.2.1, h.1.2.2.1, ht⟩, h.2⟩
  · exact ⟨⟨h.1.1, ht, h.1.2.2⟩, h.2⟩
  · exact ⟨⟨h.1.1, h.1.2.1, ht, h.1.2.2.2⟩, h.2⟩
theorem Mem.wf_setPoison {m : Mem} (h : m.wf = true) (sp a : Nat) (b : Bool) : (m.setPoison sp a b).wf = true := by
  rw [Mem.wf_iff] at *
  exact ⟨h.1, Tab.canon_set _ _ _ _ h.2⟩
/-- A fold of operations each of which keeps the form keeps it. -/
theorem Mem.wf_foldl {β : Type} (f : Mem → β → Mem) (hf : ∀ m b, m.wf = true → (f m b).wf = true) (l : List β) {m : Mem}
    (h : m.wf = true) : (l.foldl f m).wf = true := by
  induction l generalizing m with
  | nil => exact h
  | cons b t ih => exact ih (hf m b h)

/-! ### What the tiers change (R373): no byte and no poison bit -/

/-- The bytes and the poison bits of two memories are the same. -/
def Mem.Same (m m' : Mem) : Prop := m'.loc = m.loc ∧ m'.h0 = m.h0 ∧ m'.h1 = m.h1 ∧ m'.rem = m.rem ∧ m'.poison = m.poison
theorem Mem.Same.refl (m : Mem) : m.Same m := ⟨rfl, rfl, rfl, rfl, rfl⟩
theorem Mem.Same.trans {m m' m'' : Mem} (h : m.Same m') (h' : m'.Same m'') : m.Same m'' :=
  ⟨h'.1.trans h.1, h'.2.1.trans h.2.1, h'.2.2.1.trans h.2.2.1, h'.2.2.2.1.trans h.2.2.2.1, h'.2.2.2.2.trans h.2.2.2.2⟩
theorem Mem.Same.foldl {β : Type} (f : Mem → β → Mem) (hf : ∀ (m : Mem) b, m.Same (f m b)) (l : List β) (m : Mem) :
    m.Same (l.foldl f m) := by
  induction l generalizing m with
  | nil => exact .refl m
  | cons b t ih => exact (hf m b).trans (ih _)
theorem Mem.Same.wf {m m' : Mem} (h : m.Same m') (hw : m.wf = true) : m'.wf = true := by
  rw [Mem.wf_congr h.1 h.2.1 h.2.2.1 h.2.2.2.1 h.2.2.2.2]; exact hw
theorem Mem.Same.tab {m m' : Mem} (h : m.Same m') : m'.tab = m.tab := by
  funext sp
  unfold Mem.tab
  rw [h.1, h.2.1, h.2.2.1, h.2.2.2.1]
theorem Mem.Same.byte {m m' : Mem} (h : m.Same m') (sp a : Nat) : m'.byte sp a = m.byte sp a := by
  unfold Mem.byte; rw [h.tab]
theorem Mem.l2Down_same (m : Mem) (l : Nat) : m.Same (m.l2Down l) := by
  unfold Mem.l2Down; split <;> exact .refl m
theorem Mem.l2Fill_same (m : Mem) (l : Nat) : m.Same (m.l2Fill l) := by
  unfold Mem.l2Fill
  split
  · exact .refl m
  · dsimp only
    split
    · exact m.l2Down_same _
    · exact .refl m
theorem Mem.mscFill_same (m : Mem) (l : Nat) (ret : Bool) : m.Same (m.mscFill l ret) := by
  unfold Mem.mscFill
  split
  · exact .refl m
  · dsimp only
    split <;> exact .refl m
theorem Mem.touch_same (m : Mem) (pol l : Nat) : m.Same (m.touch pol l) := by
  have h : m.Same (if pol = 1 ∧ m.l2.contains l = false then m else m.l2Fill l) := by
    split
    · exact .refl m
    · exact m.l2Fill_same l
  unfold Mem.touch
  dsimp only
  split
  · exact h.trans (Mem.mscFill_same _ _ _)
  · split
    · exact h
    · exact h.trans (Mem.mscFill_same _ _ _)
theorem Mem.soil_same (m : Mem) (pol l : Nat) : m.Same (m.soil pol l) := by
  have h := m.touch_same pol l
  unfold Mem.soil
  dsimp only
  split <;> exact h
theorem Mem.soilRange_same (m : Mem) (pol a n : Nat) : m.Same (m.soilRange pol a n) :=
  .foldl _ (fun m _ => m.soil_same pol _) _ m
theorem Mem.touchRange_same (m : Mem) (pol a n : Nat) : m.Same (m.touchRange pol a n) :=
  .foldl _ (fun m _ => m.touch_same pol _) _ m
theorem Mem.readAt_same (m : Mem) (sp pol a n : Nat) : m.Same (m.readAt sp pol a n) := by
  unfold Mem.readAt
  split
  · exact m.touchRange_same _ _ _
  · exact .refl m
theorem Mem.fillRuns_same (m : Mem) (msc ret : Bool) (rs : List (Nat × Nat)) : m.Same (m.fillRuns msc ret rs) :=
  .foldl _ (fun m _ => .foldl _ (fun m _ => by
    split
    · exact m.mscFill_same _ _
    · exact m.l2Fill_same _) _ m) _ m
theorem Mem.writeBack_same (m : Mem) (inv : Bool) (rs : List (Nat × Nat)) : m.Same (m.writeBack inv rs) :=
  .foldl _ (fun m _ => by split <;> exact .refl m) _ m
theorem Mem.frameBack_same (m : Mem) (rs : List (Nat × Nat)) : m.Same (m.frameBack rs) := .refl m
theorem Mem.unstage_same (m : Mem) (rs : List (Nat × Nat)) : m.Same (m.unstage rs) := .refl m

/-! ### Every operation keeps the form -/

theorem Mem.wf_setLine {m : Mem} (h : m.wf = true) (l : Nat) (v : Line) : (m.setLine l v).wf = true := by
  rw [Mem.wf_iff] at *
  exact ⟨⟨canon_writeTab _ _ _ h.1.1, h.1.2⟩, Tab.canon_set _ _ _ _ h.2⟩
theorem Mem.wf_dropL2 {m : Mem} (h : m.wf = true) (l : Nat) : (m.dropL2 l).wf = true := h
theorem Mem.wf_dropMsc {m : Mem} (h : m.wf = true) (l : Nat) : (m.dropMsc l).wf = true := h
theorem Mem.wf_cleanRange {m : Mem} (h : m.wf = true) (sp a n : Nat) : (m.cleanRange sp a n).wf = true := by
  refine Mem.wf_foldl _ (fun _ _ h => ?_) _ h
  dsimp only
  split
  · exact Mem.wf_setPoison h _ _ _
  · exact h
/-- A store keeps the form. -/
theorem Mem.wf_store {m : Mem} (h : m.wf = true) (sp a : Nat) (bs : List Byte) (pol : Nat) :
    (m.store sp a bs pol).wf = true := by
  unfold Mem.store
  have h1 : (if sp = 0 then m.soilRange pol a bs.length else m).wf = true := by
    split
    · exact (m.soilRange_same _ _ _).wf h
    · exact h
  exact Mem.wf_cleanRange (Mem.wf_setTab h1 sp _ (canon_writeTab _ _ _ (Mem.canon_tab h1 sp))) _ _ _
theorem Mem.wf_write {m : Mem} (h : m.wf = true) (sp a n v : Nat) : (m.write sp a n v).wf = true := Mem.wf_store h _ _ _ _
theorem Mem.wf_revert {m : Mem} (h : m.wf = true) (e : Nat × Line) : (m.revert e).wf = true := by
  unfold Mem.revert
  split
  · exact h
  · split
    · exact h
    · exact Mem.wf_setLine h _ _
theorem Mem.wf_l2Discard {m : Mem} (h : m.wf = true) (t l : Nat) : (m.l2Discard t l).wf = true := by
  unfold Mem.l2Discard
  split
  · exact h
  · split
    · exact Mem.wf_dropL2 ((m.l2Down_same l).wf h) l
    · exact Mem.wf_dropL2 (Mem.wf_setLine (m := { m with dirty := without m.dirty l }) h _ _) l
theorem Mem.wf_mscDiscard {m : Mem} (h : m.wf = true) (t l : Nat) : (m.mscDiscard t l).wf = true := by
  unfold Mem.mscDiscard
  split
  · exact h
  · split
    · exact h
    · dsimp only
      split
      · exact h
      · exact Mem.wf_setLine (Mem.wf_dropMsc (m := { m with mdirty := without m.mdirty l }) h l) _ _
theorem Mem.wf_discard {m : Mem} (h : m.wf = true) (t : Nat) (rs : List (Nat × Nat)) : (m.discard t rs).wf = true :=
  Mem.wf_foldl _ (fun _ _ h => Mem.wf_mscDiscard h t _) _ (Mem.wf_foldl _ (fun _ _ h => Mem.wf_l2Discard h t _) _ h)
theorem Mem.wf_frameDrop {m : Mem} (h : m.wf = true) (t : Nat) (rs : List (Nat × Nat)) : (m.frameDrop t rs).wf = true := by
  refine Mem.wf_foldl _ (fun m e h => ?_) _ h
  split
  · exact h
  · exact Mem.wf_revert h _
theorem Mem.wf_mirror {m : Mem} (h : m.wf = true) (rs : List (Nat × Nat)) : (m.mirror rs).wf = true := by
  refine Mem.wf_foldl _ (fun m g h => Mem.wf_foldl _ (fun m i h => ?_) _ h) _ h
  dsimp only
  split
  · exact Mem.wf_setLine h _ _
  · exact h
theorem Mem.wf_cleared {m : Mem} (h : m.wf = true) : m.cleared.wf = true := by
  rw [Mem.wf_iff] at *
  exact ⟨⟨rfl, h.1.2⟩, rfl⟩
theorem Mem.wf_zero : Mem.zero.wf = true := rfl

/-! ### Stores through the tables of a tenant -/

theorem wf_storeVa_go (s : State) (die asid va pol : Nat) (bs : List Byte) (i : Nat) {m : Mem} (h : m.wf = true) :
    (storeVa.go s die asid va pol bs i m).wf = true := by
  induction bs generalizing i m with
  | nil => exact h
  | cons b t ih =>
    unfold storeVa.go
    dsimp only
    split
    · exact ih _ h
    · apply ih
      split
      · exact Mem.wf_setPoison (Mem.wf_store h _ _ _ _) _ _ _
      · exact Mem.wf_store h _ _ _ _
theorem wf_storeVa {s : State} (h : s.mem.wf = true) (die asid va : Nat) (bs : List Byte) (pol : Nat) :
    (storeVa s die asid va bs pol).wf = true := wf_storeVa_go s die asid va pol bs 0 h
theorem wf_signalMem {s : State} (h : s.mem.wf = true) (asid a : Nat) (v : W64) (st : Bool) :
    (signalMem s asid a v st).wf = true := by
  unfold signalMem
  split
  · split
    · exact h
    · exact Mem.wf_write h _ _ _ _
  · exact h
theorem wf_apStore {s : State} (h : s.mem.wf = true) (p : BitVec 1) (r : W64) (a : Nat) (bs : List Byte) :
    (apStore p r a bs s).wf = true := by
  refine Mem.wf_foldl _ (fun m j h => ?_) _ h
  dsimp only
  split
  · split
    · exact h
    · exact Mem.wf_store h _ _ _ _
  · exact h

/-! ### Reading after a store -/

theorem get_writeTab (t : Tab Byte) (a : Nat) (bs : List Byte) (x : Nat) :
    Tab.get 0 (writeTab t a bs) x = if a ≤ x ∧ x < a + bs.length then bs.getD (x - a) 0 else Tab.get 0 t x := by
  induction bs generalizing t a with
  | nil => simp only [writeTab, List.length_nil]; rw [if_neg (by omega)]
  | cons b bs ih =>
    rw [show writeTab t a (b :: bs) = writeTab (Tab.set 0 t a b) (a + 1) bs from rfl, ih]
    by_cases h : x = a
    · subst h
      rw [if_neg (by omega), Tab.get_set_self, if_pos ⟨Nat.le_refl _, by simp⟩]
      simp
    · rw [Tab.get_set_other 0 t a x b h]
      by_cases h2 : a + 1 ≤ x ∧ x < a + 1 + bs.length
      · rw [if_pos h2, if_pos ⟨by omega, by simp; omega⟩]
        rw [show x - a = (x - (a + 1)) + 1 by omega]
        simp
      · rw [if_neg h2, if_neg (by simp; omega)]
@[simp] theorem Mem.tab_setPoison (m : Mem) (sp a : Nat) (b : Bool) (sp' : Nat) : (m.setPoison sp a b).tab sp' = m.tab sp' := rfl
theorem Mem.tab_foldl {β : Type} (f : Mem → β → Mem) (sp : Nat) (hf : ∀ m b, (f m b).tab sp = m.tab sp) (l : List β) (m : Mem) :
    (l.foldl f m).tab sp = m.tab sp := by
  induction l generalizing m with
  | nil => rfl
  | cons b t ih => rw [List.foldl_cons, ih, hf]
theorem Mem.tab_cleanRange (m : Mem) (sp a n sp' : Nat) : (m.cleanRange sp a n).tab sp' = m.tab sp' := by
  refine Mem.tab_foldl _ sp' (fun m i => ?_) _ m
  dsimp only
  split <;> rfl
theorem Mem.tab_setTab (m : Mem) (sp sp' : Nat) (t : Tab Byte) :
    (m.setTab sp t).tab sp' = if sameSpace sp sp' then t else m.tab sp' := by
  match sp, sp' with
  | 0, 0 => rfl
  | 0, 1 => rfl
  | 0, 2 => rfl
  | 0, n + 3 => simp [sameSpace, Mem.setTab, Mem.tab]
  | 1, 0 => rfl
  | 1, 1 => rfl
  | 1, 2 => rfl
  | 1, n + 3 => simp [sameSpace, Mem.setTab, Mem.tab]
  | 2, 0 => rfl
  | 2, 1 => rfl
  | 2, 2 => rfl
  | 2, n + 3 => simp [sameSpace, Mem.setTab, Mem.tab]
  | k + 3, 0 => simp [sameSpace, Mem.setTab, Mem.tab]
  | k + 3, 1 => simp [sameSpace, Mem.setTab, Mem.tab]
  | k + 3, 2 => simp [sameSpace, Mem.setTab, Mem.tab]
  | k + 3, n + 3 => simp [sameSpace, Mem.setTab, Mem.tab]
/-- One byte after a store: the byte stored there, or what was there before. -/
theorem Mem.byte_store (m : Mem) (sp a : Nat) (bs : List Byte) (pol sp' x : Nat) :
    (m.store sp a bs pol).byte sp' x =
      if sameSpace sp sp' = true ∧ a ≤ x ∧ x < a + bs.length then bs.getD (x - a) 0 else m.byte sp' x := by
  unfold Mem.store Mem.byte
  simp only [Mem.tab_cleanRange, Mem.tab_setTab]
  have e : (if sp = 0 then m.soilRange pol a bs.length else m).tab = m.tab := by
    split
    · exact (m.soilRange_same _ _ _).tab
    · rfl
  rw [e]
  by_cases h : sameSpace sp sp' = true
  · have ht : m.tab sp = m.tab sp' := by
      unfold sameSpace at h
      simp only [beq_iff_eq] at h
      match sp, sp' with
      | 0, 0 => rfl
      | 0, n + 1 => simp [Nat.min_def] at h; split at h <;> omega
      | 1, 1 => rfl
      | 2, 2 => rfl
      | 1, 0 => simp at h
      | 1, n + 2 => simp [Nat.min_def] at h; split at h <;> omega
      | 2, 0 => simp at h
      | 2, 1 => simp at h
      | 2, n + 3 => simp at h
      | k + 3, 0 => simp at h
      | k + 3, 1 => simp at h
      | k + 3, 2 => simp at h
      | k + 3, n + 3 => rfl
    rw [if_pos h, get_writeTab, ht]
    simp [h]
  · rw [if_neg h]; simp [h]
/-- A store leaves every byte outside it alone. -/
theorem Mem.byte_store_other (m : Mem) (sp a : Nat) (bs : List Byte) (pol sp' x : Nat)
    (h : sameSpace sp sp' = false ∨ x < a ∨ a + bs.length ≤ x) : (m.store sp a bs pol).byte sp' x = m.byte sp' x := by
  rw [Mem.byte_store, if_neg]
  rintro ⟨h1, h2, h3⟩
  rcases h with h | h | h
  · rw [h1] at h; cases h
  · omega
  · omega
theorem length_leBytes (v n : Nat) : (leBytes v n).length = n := by
  induction n generalizing v with
  | zero => rfl
  | succ n ih => simp [leBytes, ih]
theorem getD_leBytes (v n i : Nat) (h : i < n) : (leBytes v n).getD i 0 = BitVec.ofNat 8 (v / 256 ^ i) := by
  induction n generalizing v i with
  | zero => omega
  | succ n ih =>
    cases i with
    | zero => simp [leBytes]
    | succ i =>
      have := ih (v / 256) i (by omega)
      simp only [leBytes, List.getD_cons_succ, this, Nat.div_div_eq_div_mul]
      rw [Nat.pow_succ, Nat.mul_comm]
/-- One byte after a number is written: little-endian (R9). -/
theorem Mem.byte_write (m : Mem) (sp a n v sp' x : Nat) :
    (m.write sp a n v).byte sp' x =
      if sameSpace sp sp' = true ∧ a ≤ x ∧ x < a + n then BitVec.ofNat 8 (v / 256 ^ (x - a)) else m.byte sp' x := by
  unfold Mem.write
  rw [Mem.byte_store, length_leBytes]
  by_cases h : sameSpace sp sp' = true ∧ a ≤ x ∧ x < a + n
  · rw [if_pos h, if_pos h, getD_leBytes _ _ _ (by omega)]
  · rw [if_neg h, if_neg h]

end Sys2Proof.Machine
end

