-- ==== Sys2Proof/Laws/PerInstr.lean ====
section
/-! SUPPORT. The round trip of every instruction, one lemma for each constructor: decoding the words its encoding gives
returns the instruction, unless it is a step of the device that has no words. -/
namespace Sys2Proof
open Machine

/-- What is stated of each instruction: well-formed, it has no words at all or they decode to it. -/
def Laws.RoundTrip.Statement (i : Instr) : Prop :=
  wellFormed i = true → encode i = .none ∨ decodeWords (encode i) = some i

/-! ### Control fields, the matrix slot, linear copies -/

theorem loop_back (g : BitVec 4) (off : BitVec 13) (n : BitVec 6) :
    ofCtl 0x5 g (off.toNat * 64 + n.toNat) = some (.loop g off n) := by
  have h1 : (off.toNat * 64 + n.toNat) / 64 = off.toNat := by have := n.isLt; omega
  have h2 : BitVec.ofNat 6 (off.toNat * 64 + n.toNat) = n := by
    apply BitVec.eq_of_toNat_eq; simp; have := n.isLt; omega
  simp only [ofCtl, h1, h2, ofNat_toNat']
theorem spawn_back (g : BitVec 4) (off : BitVec 17) (t : BitVec 2) :
    ofCtl 0x8 g (off.toNat * 4 + t.toNat) = some (.spawn g off t) := by
  have h1 : (off.toNat * 4 + t.toNat) / 4 = off.toNat := by have := t.isLt; omega
  have h2 : BitVec.ofNat 2 (off.toNat * 4 + t.toNat) = t := by
    apply BitVec.eq_of_toNat_eq; simp; have := t.isLt; omega
  simp only [ofCtl, h1, h2, ofNat_toNat']
theorem decode_mcall (g : BitVec 4) (ar : Bool) (r : BitVec 8) (imm : BitVec 18) :
    decodeWords (encode (.mcall g ar r imm)) = some (.mcall g ar r imm) := by
  have h := unpack_ofNat 32 [(18, imm.toNat), (8, r.toNat), (1, 1), (1, b2n ar), (4, g.toNat)]
    (by simp only [List.map_cons, List.map_nil, List.sum_cons, List.sum_nil]; omega)
  simp only [List.map_cons, List.map_nil, toNat_mod, b2n_mod, show 1 % 2 ^ 1 = 1 from rfl] at h
  simp only [encode, view, decodeWords, decodeMx, mxLayout, h, b2n_beq, ofNat_toNat', checked, encErr]
theorem cplin_back (p : Cp) (h : cpOk 0x1 false p = true) : ofCp 0x1 p = some (.cplin p) := by
  have hs : p.spec = 0 := by simp [cpOk] at h; exact h.2.2.1
  simp [ofCp, hs]
theorem cplin_back_code (p : Cp) (h : cpOk 0x1 true p = true) : ofCp 0x1 p = some (.cplinCode p) := by
  have hs : p.spec = 1 := by simp [cpOk] at h; exact h.2.2.1
  simp [ofCp, hs]

/-! ### Packets -/

theorem unpack_head (h : PktHdr) (ty : Nat) (ht : ty < 256) :
    unpack pktLayout (BitVec.ofNat 64 (pack [(8, ty), (1, b2n h.bar), (7, 0), (16, h.tag.toNat), (32, 0)])).toNat =
      [ty, b2n h.bar, 0, h.tag.toNat, 0] := by
  have u := unpack_ofNat 64 [(8, ty), (1, b2n h.bar), (7, 0), (16, h.tag.toNat), (32, 0)]
    (by simp only [List.map_cons, List.map_nil, List.sum_cons, List.sum_nil]; omega)
  simp only [List.map_cons, List.map_nil, toNat_mod, b2n_mod, Nat.zero_mod, Nat.mod_eq_of_lt (show ty < 2 ^ 8 from ht)] at u
  exact u
theorem stepOk_of {i : Instr} (h : wellFormed i = true) : stepOk i = true := by
  simp only [wellFormed, Bool.and_eq_true] at h; exact h.2
theorem hdr_eta (h : PktHdr) : (⟨h.host, h.queue, b2n h.bar == 1, BitVec.ofNat 16 h.tag.toNat⟩ : PktHdr) = h := by
  rw [b2n_beq, ofNat_toNat']
theorem decode_pktNop (h : PktHdr) (hw : wellFormed (.pktNop h) = true) :
    decodeWords (encode (.pktNop h)) = some (.pktNop h) := by
  simp only [encode, view, encodePkt, decodeWords, decodePkt, unpack_head h 0 (by decide), hdr_eta]
  simp [stepOk_of hw]
theorem decode_beginBatch (h : PktHdr) (hw : wellFormed (.beginBatch h) = true) :
    decodeWords (encode (.beginBatch h)) = some (.beginBatch h) := by
  simp only [encode, view, encodePkt, decodeWords, decodePkt, unpack_head h 1 (by decide), hdr_eta]
  simp [stepOk_of hw]
theorem decode_commitBatch (h : PktHdr) (hw : wellFormed (.commitBatch h) = true) :
    decodeWords (encode (.commitBatch h)) = some (.commitBatch h) := by
  simp only [encode, view, encodePkt, decodeWords, decodePkt, unpack_head h 2 (by decide), hdr_eta]
  simp [stepOk_of hw]
theorem decode_launchPkt (h : PktHdr) (d s v : W64) (hw : wellFormed (.launchPkt h d s v) = true) :
    decodeWords (encode (.launchPkt h d s v)) = some (.launchPkt h d s v) := by
  simp only [encode, view, encodePkt, decodeWords, decodePkt, unpack_head h 3 (by decide), hdr_eta]
  simp [stepOk_of hw]
theorem decode_graphPkt (h : PktHdr) (d s v : W64) (hw : wellFormed (.graphPkt h d s v) = true) :
    decodeWords (encode (.graphPkt h d s v)) = some (.graphPkt h d s v) := by
  simp only [encode, view, encodePkt, decodeWords, decodePkt, unpack_head h 4 (by decide), hdr_eta]
  simp [stepOk_of hw]
theorem decode_writePkt (h : PktHdr) (d : W64) (n : BitVec 3) (v0 v1 v2 v3 : W64)
    (hw : wellFormed (.writePkt h d n v0 v1 v2 v3) = true) :
    decodeWords (encode (.writePkt h d n v0 v1 v2 v3)) = some (.writePkt h d n v0 v1 v2 v3) := by
  have hn : n.toNat % 18446744073709551616 = n.toNat := Nat.mod_eq_of_lt (by have := n.isLt; omega)
  have hl := n.isLt
  simp only [encode, view, encodePkt, decodeWords, decodePkt, unpack_head h 5 (by decide), hdr_eta]
  simp [stepOk_of hw, hn, hl]
theorem decode_waitmemPkt (h : PktHdr) (a m v : W64) (op : BitVec 2) (t : BitVec 32)
    (hw : wellFormed (.waitmemPkt h a m v op t) = true) :
    decodeWords (encode (.waitmemPkt h a m v op t)) = some (.waitmemPkt h a m v op t) := by
  have u := unpack_ofNat 64 [(2, op.toNat), (30, 0), (32, t.toNat)]
    (by simp only [List.map_cons, List.map_nil, List.sum_cons, List.sum_nil]; omega)
  simp only [List.map_cons, List.map_nil, toNat_mod, Nat.zero_mod] at u
  simp only [encode, view, encodePkt, decodeWords, decodePkt, unpack_head h 6 (by decide), u, ofNat_toNat', b2n_beq]
  simp [stepOk_of hw]
theorem decode_pktLoop (h : PktHdr) (b : BitVec 6) (t : BitVec 16) (hw : wellFormed (.pktLoop h b t) = true) :
    decodeWords (encode (.pktLoop h b t)) = some (.pktLoop h b t) := by
  have hb : b.toNat % 18446744073709551616 = b.toNat := Nat.mod_eq_of_lt (by have := b.isLt; omega)
  have ht : t.toNat % 18446744073709551616 = t.toNat := Nat.mod_eq_of_lt (by have := t.isLt; omega)
  have h1 := b.isLt
  have h2 := t.isLt
  simp only [encode, view, encodePkt, decodeWords, decodePkt, unpack_head h 7 (by decide), hdr_eta]
  simp [stepOk_of hw, hb, ht, h1, h2]
theorem decode_indirectPkt (h : PktHdr) (b : W64) (n : BitVec 13) (hw : wellFormed (.indirectPkt h b n) = true) :
    decodeWords (encode (.indirectPkt h b n)) = some (.indirectPkt h b n) := by
  have hn : n.toNat % 18446744073709551616 = n.toNat := Nat.mod_eq_of_lt (by have := n.isLt; omega)
  have hl := n.isLt
  simp only [encode, view, encodePkt, decodeWords, decodePkt, unpack_head h 8 (by decide), hdr_eta]
  simp [stepOk_of hw, hn, hl]
theorem decode_signalPkt (h : PktHdr) (a v : W64) (st irq : Bool) (vec : BitVec 8)
    (hw : wellFormed (.signalPkt h a v st irq vec) = true) :
    decodeWords (encode (.signalPkt h a v st irq vec)) = some (.signalPkt h a v st irq vec) := by
  have u := unpack_ofNat 64 [(1, b2n st), (1, b2n irq), (6, 0), (8, vec.toNat), (48, 0)]
    (by simp only [List.map_cons, List.map_nil, List.sum_cons, List.sum_nil]; omega)
  simp only [List.map_cons, List.map_nil, toNat_mod, b2n_mod, Nat.zero_mod] at u
  simp only [encode, view, encodePkt, decodeWords, decodePkt, unpack_head h 9 (by decide), u, ofNat_toNat', b2n_beq]
  simp [stepOk_of hw]
theorem decode_fetchFence (h : PktHdr) (hw : wellFormed (.fetchFence h) = true) :
    decodeWords (encode (.fetchFence h)) = some (.fetchFence h) := by
  simp only [encode, view, encodePkt, decodeWords, decodePkt, unpack_head h 10 (by decide), hdr_eta]
  simp [stepOk_of hw]

/-! ### Every constructor -/

theorem Laws.RoundTrip.nop (g : BitVec 4) : Laws.RoundTrip.Statement (.nop g) :=
  fun h => Or.inr (decode_ctl _ 0x0 0 g rfl (by decide) (by decide) rfl h)
theorem Laws.RoundTrip.br (g : BitVec 4) (off : BitVec 19) : Laws.RoundTrip.Statement (.br g off) :=
  fun h => Or.inr (decode_ctl _ 0x1 off.toNat g rfl (by decide) (by have := off.isLt; omega) (by simp [ofCtl]) h)
theorem Laws.RoundTrip.brx (g : BitVec 4) (n : BitVec 6) : Laws.RoundTrip.Statement (.brx g n) :=
  fun h => Or.inr (decode_ctl _ 0x2 n.toNat g rfl (by decide) (by have := n.isLt; omega) (by simp [ofCtl]) h)
theorem Laws.RoundTrip.call (g : BitVec 4) (off : BitVec 19) : Laws.RoundTrip.Statement (.call g off) :=
  fun h => Or.inr (decode_ctl _ 0x3 off.toNat g rfl (by decide) (by have := off.isLt; omega) (by simp [ofCtl]) h)
theorem Laws.RoundTrip.ret (g : BitVec 4) : Laws.RoundTrip.Statement (.ret g) :=
  fun h => Or.inr (decode_ctl _ 0x4 0 g rfl (by decide) (by decide) rfl h)
theorem Laws.RoundTrip.loop (g : BitVec 4) (off : BitVec 13) (n : BitVec 6) : Laws.RoundTrip.Statement (.loop g off n) :=
  fun h => Or.inr (decode_ctl _ 0x5 (off.toNat * 64 + n.toNat) g rfl (by decide) (by have := off.isLt; have := n.isLt; omega) (loop_back g off n) h)
theorem Laws.RoundTrip.lend (g : BitVec 4) : Laws.RoundTrip.Statement (.lend g) :=
  fun h => Or.inr (decode_ctl _ 0x6 0 g rfl (by decide) (by decide) rfl h)
theorem Laws.RoundTrip.mark (g : BitVec 4) (m : BitVec 19) : Laws.RoundTrip.Statement (.mark g m) :=
  fun h => Or.inr (decode_ctl _ 0x7 m.toNat g rfl (by decide) (by have := m.isLt; omega) (by simp [ofCtl]) h)
theorem Laws.RoundTrip.spawn (g : BitVec 4) (off : BitVec 17) (t : BitVec 2) : Laws.RoundTrip.Statement (.spawn g off t) :=
  fun h => Or.inr (decode_ctl _ 0x8 (off.toNat * 4 + t.toNat) g rfl (by decide) (by have := off.isLt; have := t.isLt; omega) (spawn_back g off t) h)
theorem Laws.RoundTrip.halt (g : BitVec 4) : Laws.RoundTrip.Statement (.halt g) :=
  fun h => Or.inr (decode_ctl _ 0x9 0 g rfl (by decide) (by decide) rfl h)
theorem Laws.RoundTrip.yield (g : BitVec 4) : Laws.RoundTrip.Statement (.yield g) :=
  fun h => Or.inr (decode_ctl _ 0xa 0 g rfl (by decide) (by decide) rfl h)
theorem Laws.RoundTrip.dbar (g : BitVec 4) (lvl : BitVec 3) : Laws.RoundTrip.Statement (.dbar g lvl) :=
  fun h => Or.inr (decode_ctl _ 0xb lvl.toNat g rfl (by decide) (by have := lvl.isLt; omega) (by simp [ofCtl]) h)
theorem Laws.RoundTrip.waitb (g : BitVec 4) (n : BitVec 6) : Laws.RoundTrip.Statement (.waitb g n) :=
  fun h => Or.inr (decode_ctl _ 0xc n.toNat g rfl (by decide) (by have := n.isLt; omega) (by simp [ofCtl]) h)
theorem Laws.RoundTrip.fence (g : BitVec 4) (sc : BitVec 3) : Laws.RoundTrip.Statement (.fence g sc) :=
  fun h => Or.inr (decode_ctl _ 0xd sc.toNat g rfl (by decide) (by have := sc.isLt; omega) (by simp [ofCtl]) h)
theorem Laws.RoundTrip.ifence (g : BitVec 4) : Laws.RoundTrip.Statement (.ifence g) :=
  fun h => Or.inr (decode_ctl _ 0xe 0 g rfl (by decide) (by decide) rfl h)
theorem Laws.RoundTrip.trap (g : BitVec 4) (code : BitVec 8) : Laws.RoundTrip.Statement (.trap g code) :=
  fun h => Or.inr (decode_ctl _ 0xf code.toNat g rfl (by decide) (by have := code.isLt; omega) (by simp [ofCtl]) h)
theorem Laws.RoundTrip.eret (g : BitVec 4) : Laws.RoundTrip.Statement (.eret g) :=
  fun h => Or.inr (decode_ctl _ 0x10 0 g rfl (by decide) (by decide) rfl h)
theorem Laws.RoundTrip.swapi (g : BitVec 4) (off : BitVec 14) : Laws.RoundTrip.Statement (.swapi g off) :=
  fun h => Or.inr (decode_ctl _ 0x11 off.toNat g rfl (by decide) (by have := off.isLt; omega) (by simp [ofCtl]) h)
theorem Laws.RoundTrip.add (p : Part) : Laws.RoundTrip.Statement (.add p) :=
  fun h => Or.inr (decode_op _ 0x1 p rfl (by decide) rfl h)
theorem Laws.RoundTrip.sub (p : Part) : Laws.RoundTrip.Statement (.sub p) :=
  fun h => Or.inr (decode_op _ 0x2 p rfl (by decide) rfl h)
theorem Laws.RoundTrip.mul (p : Part) : Laws.RoundTrip.Statement (.mul p) :=
  fun h => Or.inr (decode_op _ 0x3 p rfl (by decide) rfl h)
theorem Laws.RoundTrip.mulhs (p : Part) : Laws.RoundTrip.Statement (.mulhs p) :=
  fun h => Or.inr (decode_op _ 0x4 p rfl (by decide) rfl h)
theorem Laws.RoundTrip.mulhu (p : Part) : Laws.RoundTrip.Statement (.mulhu p) :=
  fun h => Or.inr (decode_op _ 0x5 p rfl (by decide) rfl h)
theorem Laws.RoundTrip.divs (p : Part) : Laws.RoundTrip.Statement (.divs p) :=
  fun h => Or.inr (decode_op _ 0x6 p rfl (by decide) rfl h)
theorem Laws.RoundTrip.divu (p : Part) : Laws.RoundTrip.Statement (.divu p) :=
  fun h => Or.inr (decode_op _ 0x7 p rfl (by decide) rfl h)
theorem Laws.RoundTrip.rems (p : Part) : Laws.RoundTrip.Statement (.rems p) :=
  fun h => Or.inr (decode_op _ 0x8 p rfl (by decide) rfl h)
theorem Laws.RoundTrip.remu (p : Part) : Laws.RoundTrip.Statement (.remu p) :=
  fun h => Or.inr (decode_op _ 0x9 p rfl (by decide) rfl h)
theorem Laws.RoundTrip.and (p : Part) : Laws.RoundTrip.Statement (.and p) :=
  fun h => Or.inr (decode_op _ 0xa p rfl (by decide) rfl h)
theorem Laws.RoundTrip.or (p : Part) : Laws.RoundTrip.Statement (.or p) :=
  fun h => Or.inr (decode_op _ 0xb p rfl (by decide) rfl h)
theorem Laws.RoundTrip.xor (p : Part) : Laws.RoundTrip.Statement (.xor p) :=
  fun h => Or.inr (decode_op _ 0xc p rfl (by decide) rfl h)
theorem Laws.RoundTrip.andn (p : Part) : Laws.RoundTrip.Statement (.andn p) :=
  fun h => Or.inr (decode_op _ 0xd p rfl (by decide) rfl h)
theorem Laws.RoundTrip.shl (p : Part) : Laws.RoundTrip.Statement (.shl p) :=
  fun h => Or.inr (decode_op _ 0xe p rfl (by decide) rfl h)
theorem Laws.RoundTrip.shrl (p : Part) : Laws.RoundTrip.Statement (.shrl p) :=
  fun h => Or.inr (decode_op _ 0xf p rfl (by decide) rfl h)
theorem Laws.RoundTrip.shra (p : Part) : Laws.RoundTrip.Statement (.shra p) :=
  fun h => Or.inr (decode_op _ 0x10 p rfl (by decide) rfl h)
theorem Laws.RoundTrip.min (p : Part) : Laws.RoundTrip.Statement (.min p) :=
  fun h => Or.inr (decode_op _ 0x11 p rfl (by decide) rfl h)
theorem Laws.RoundTrip.max (p : Part) : Laws.RoundTrip.Statement (.max p) :=
  fun h => Or.inr (decode_op _ 0x12 p rfl (by decide) rfl h)
theorem Laws.RoundTrip.minu (p : Part) : Laws.RoundTrip.Statement (.minu p) :=
  fun h => Or.inr (decode_op _ 0x13 p rfl (by decide) rfl h)
theorem Laws.RoundTrip.maxu (p : Part) : Laws.RoundTrip.Statement (.maxu p) :=
  fun h => Or.inr (decode_op _ 0x14 p rfl (by decide) rfl h)
theorem Laws.RoundTrip.mov (p : Part) : Laws.RoundTrip.Statement (.mov p) :=
  fun h => Or.inr (decode_op _ 0x15 p rfl (by decide) rfl h)
theorem Laws.RoundTrip.sel (p : Part) : Laws.RoundTrip.Statement (.sel p) :=
  fun h => Or.inr (decode_op _ 0x16 p rfl (by decide) rfl h)
theorem Laws.RoundTrip.clz (p : Part) : Laws.RoundTrip.Statement (.clz p) :=
  fun h => Or.inr (decode_op _ 0x17 p rfl (by decide) rfl h)
theorem Laws.RoundTrip.popc (p : Part) : Laws.RoundTrip.Statement (.popc p) :=
  fun h => Or.inr (decode_op _ 0x18 p rfl (by decide) rfl h)
theorem Laws.RoundTrip.bfx (p : Part) : Laws.RoundTrip.Statement (.bfx p) :=
  fun h => Or.inr (decode_op _ 0x19 p rfl (by decide) rfl h)
theorem Laws.RoundTrip.bfi (p : Part) : Laws.RoundTrip.Statement (.bfi p) :=
  fun h => Or.inr (decode_op _ 0x1a p rfl (by decide) rfl h)
theorem Laws.RoundTrip.cmpeq (p : Part) : Laws.RoundTrip.Statement (.cmpeq p) :=
  fun h => Or.inr (decode_op _ 0x20 p rfl (by decide) rfl h)
theorem Laws.RoundTrip.cmpne (p : Part) : Laws.RoundTrip.Statement (.cmpne p) :=
  fun h => Or.inr (decode_op _ 0x21 p rfl (by decide) rfl h)
theorem Laws.RoundTrip.cmplt (p : Part) : Laws.RoundTrip.Statement (.cmplt p) :=
  fun h => Or.inr (decode_op _ 0x22 p rfl (by decide) rfl h)
theorem Laws.RoundTrip.cmpltu (p : Part) : Laws.RoundTrip.Statement (.cmpltu p) :=
  fun h => Or.inr (decode_op _ 0x23 p rfl (by decide) rfl h)
theorem Laws.RoundTrip.cmple (p : Part) : Laws.RoundTrip.Statement (.cmple p) :=
  fun h => Or.inr (decode_op _ 0x24 p rfl (by decide) rfl h)
theorem Laws.RoundTrip.cmpleu (p : Part) : Laws.RoundTrip.Statement (.cmpleu p) :=
  fun h => Or.inr (decode_op _ 0x25 p rfl (by decide) rfl h)
theorem Laws.RoundTrip.pand (p : Part) : Laws.RoundTrip.Statement (.pand p) :=
  fun h => Or.inr (decode_op _ 0x28 p rfl (by decide) rfl h)
theorem Laws.RoundTrip.por (p : Part) : Laws.RoundTrip.Statement (.por p) :=
  fun h => Or.inr (decode_op _ 0x29 p rfl (by decide) rfl h)
theorem Laws.RoundTrip.pxor (p : Part) : Laws.RoundTrip.Statement (.pxor p) :=
  fun h => Or.inr (decode_op _ 0x2a p rfl (by decide) rfl h)
theorem Laws.RoundTrip.pandn (p : Part) : Laws.RoundTrip.Statement (.pandn p) :=
  fun h => Or.inr (decode_op _ 0x2b p rfl (by decide) rfl h)
theorem Laws.RoundTrip.pmov (p : Part) : Laws.RoundTrip.Statement (.pmov p) :=
  fun h => Or.inr (decode_op _ 0x2c p rfl (by decide) rfl h)
theorem Laws.RoundTrip.lea (p : Part) : Laws.RoundTrip.Statement (.lea p) :=
  fun h => Or.inr (decode_op _ 0x30 p rfl (by decide) rfl h)
theorem Laws.RoundTrip.aset (p : Part) : Laws.RoundTrip.Statement (.aset p) :=
  fun h => Or.inr (decode_op _ 0x31 p rfl (by decide) rfl h)
theorem Laws.RoundTrip.aget (p : Part) : Laws.RoundTrip.Statement (.aget p) :=
  fun h => Or.inr (decode_op _ 0x32 p rfl (by decide) rfl h)
theorem Laws.RoundTrip.ld (p : Part) : Laws.RoundTrip.Statement (.ld p) :=
  fun h => Or.inr (decode_op _ 0x40 p rfl (by decide) rfl h)
theorem Laws.RoundTrip.st (p : Part) : Laws.RoundTrip.Statement (.st p) :=
  fun h => Or.inr (decode_op _ 0x41 p rfl (by decide) rfl h)
theorem Laws.RoundTrip.ldsp (p : Part) : Laws.RoundTrip.Statement (.ldsp p) :=
  fun h => Or.inr (decode_op _ 0x42 p rfl (by decide) rfl h)
theorem Laws.RoundTrip.stsp (p : Part) : Laws.RoundTrip.Statement (.stsp p) :=
  fun h => Or.inr (decode_op _ 0x43 p rfl (by decide) rfl h)
theorem Laws.RoundTrip.csrr (p : Part) : Laws.RoundTrip.Statement (.csrr p) :=
  fun h => Or.inr (decode_op _ 0x50 p rfl (by decide) rfl h)
theorem Laws.RoundTrip.csrw (p : Part) : Laws.RoundTrip.Statement (.csrw p) :=
  fun h => Or.inr (decode_op _ 0x51 p rfl (by decide) rfl h)
theorem Laws.RoundTrip.csrset (p : Part) : Laws.RoundTrip.Statement (.csrset p) :=
  fun h => Or.inr (decode_op _ 0x52 p rfl (by decide) rfl h)
theorem Laws.RoundTrip.csrclr (p : Part) : Laws.RoundTrip.Statement (.csrclr p) :=
  fun h => Or.inr (decode_op _ 0x53 p rfl (by decide) rfl h)
theorem Laws.RoundTrip.amoadd (p : Part) : Laws.RoundTrip.Statement (.amoadd p) :=
  fun h => Or.inr (decode_op _ 0x60 p rfl (by decide) rfl h)
theorem Laws.RoundTrip.amoand (p : Part) : Laws.RoundTrip.Statement (.amoand p) :=
  fun h => Or.inr (decode_op _ 0x61 p rfl (by decide) rfl h)
theorem Laws.RoundTrip.amoor (p : Part) : Laws.RoundTrip.Statement (.amoor p) :=
  fun h => Or.inr (decode_op _ 0x62 p rfl (by decide) rfl h)
theorem Laws.RoundTrip.amoxor (p : Part) : Laws.RoundTrip.Statement (.amoxor p) :=
  fun h => Or.inr (decode_op _ 0x63 p rfl (by decide) rfl h)
theorem Laws.RoundTrip.amomin (p : Part) : Laws.RoundTrip.Statement (.amomin p) :=
  fun h => Or.inr (decode_op _ 0x64 p rfl (by decide) rfl h)
theorem Laws.RoundTrip.amomax (p : Part) : Laws.RoundTrip.Statement (.amomax p) :=
  fun h => Or.inr (decode_op _ 0x65 p rfl (by decide) rfl h)
theorem Laws.RoundTrip.amominu (p : Part) : Laws.RoundTrip.Statement (.amominu p) :=
  fun h => Or.inr (decode_op _ 0x66 p rfl (by decide) rfl h)
theorem Laws.RoundTrip.amomaxu (p : Part) : Laws.RoundTrip.Statement (.amomaxu p) :=
  fun h => Or.inr (decode_op _ 0x67 p rfl (by decide) rfl h)
theorem Laws.RoundTrip.amoswap (p : Part) : Laws.RoundTrip.Statement (.amoswap p) :=
  fun h => Or.inr (decode_op _ 0x68 p rfl (by decide) rfl h)
theorem Laws.RoundTrip.amocas (p : Part) : Laws.RoundTrip.Statement (.amocas p) :=
  fun h => Or.inr (decode_op _ 0x69 p rfl (by decide) rfl h)
theorem Laws.RoundTrip.amold (p : Part) : Laws.RoundTrip.Statement (.amold p) :=
  fun h => Or.inr (decode_op _ 0x6a p rfl (by decide) rfl h)
theorem Laws.RoundTrip.amost (p : Part) : Laws.RoundTrip.Statement (.amost p) :=
  fun h => Or.inr (decode_op _ 0x6b p rfl (by decide) rfl h)
theorem Laws.RoundTrip.qalloc (p : Part) : Laws.RoundTrip.Statement (.qalloc p) :=
  fun h => Or.inr (decode_op _ 0x360 p rfl (by decide) rfl h)
theorem Laws.RoundTrip.qfree (p : Part) : Laws.RoundTrip.Statement (.qfree p) :=
  fun h => Or.inr (decode_op _ 0x361 p rfl (by decide) rfl h)
theorem Laws.RoundTrip.qdeq (p : Part) : Laws.RoundTrip.Statement (.qdeq p) :=
  fun h => Or.inr (decode_op _ 0x362 p rfl (by decide) rfl h)
theorem Laws.RoundTrip.qsplice (p : Part) : Laws.RoundTrip.Statement (.qsplice p) :=
  fun h => Or.inr (decode_op _ 0x363 p rfl (by decide) rfl h)
theorem Laws.RoundTrip.qunsplice (p : Part) : Laws.RoundTrip.Statement (.qunsplice p) :=
  fun h => Or.inr (decode_op _ 0x364 p rfl (by decide) rfl h)
theorem Laws.RoundTrip.qresplice (p : Part) : Laws.RoundTrip.Statement (.qresplice p) :=
  fun h => Or.inr (decode_op _ 0x365 p rfl (by decide) rfl h)
theorem Laws.RoundTrip.qfreeze (p : Part) : Laws.RoundTrip.Statement (.qfreeze p) :=
  fun h => Or.inr (decode_op _ 0x366 p rfl (by decide) rfl h)
theorem Laws.RoundTrip.qthaw (p : Part) : Laws.RoundTrip.Statement (.qthaw p) :=
  fun h => Or.inr (decode_op _ 0x367 p rfl (by decide) rfl h)
theorem Laws.RoundTrip.qsave (p : Part) : Laws.RoundTrip.Statement (.qsave p) :=
  fun h => Or.inr (decode_op _ 0x368 p rfl (by decide) rfl h)
theorem Laws.RoundTrip.qrestore (p : Part) : Laws.RoundTrip.Statement (.qrestore p) :=
  fun h => Or.inr (decode_op _ 0x369 p rfl (by decide) rfl h)
theorem Laws.RoundTrip.qstat (p : Part) : Laws.RoundTrip.Statement (.qstat p) :=
  fun h => Or.inr (decode_op _ 0x36a p rfl (by decide) rfl h)
theorem Laws.RoundTrip.baralloc (p : Part) : Laws.RoundTrip.Statement (.baralloc p) :=
  fun h => Or.inr (decode_op _ 0x380 p rfl (by decide) rfl h)
theorem Laws.RoundTrip.barref (p : Part) : Laws.RoundTrip.Statement (.barref p) :=
  fun h => Or.inr (decode_op _ 0x381 p rfl (by decide) rfl h)
theorem Laws.RoundTrip.bardrop (p : Part) : Laws.RoundTrip.Statement (.bardrop p) :=
  fun h => Or.inr (decode_op _ 0x382 p rfl (by decide) rfl h)
theorem Laws.RoundTrip.barinit (p : Part) : Laws.RoundTrip.Statement (.barinit p) :=
  fun h => Or.inr (decode_op _ 0x383 p rfl (by decide) rfl h)
theorem Laws.RoundTrip.bartest (p : Part) : Laws.RoundTrip.Statement (.bartest p) :=
  fun h => Or.inr (decode_op _ 0x384 p rfl (by decide) rfl h)
theorem Laws.RoundTrip.bararr (p : Part) : Laws.RoundTrip.Statement (.bararr p) :=
  fun h => Or.inr (decode_op _ 0x385 p rfl (by decide) rfl h)
theorem Laws.RoundTrip.msload (p : Part) : Laws.RoundTrip.Statement (.msload p) :=
  fun h => Or.inr (decode_op _ 0x390 p rfl (by decide) rfl h)
theorem Laws.RoundTrip.ephbind (p : Part) : Laws.RoundTrip.Statement (.ephbind p) :=
  fun h => Or.inr (decode_op _ 0x3a0 p rfl (by decide) rfl h)
theorem Laws.RoundTrip.ephstat (p : Part) : Laws.RoundTrip.Statement (.ephstat p) :=
  fun h => Or.inr (decode_op _ 0x3a1 p rfl (by decide) rfl h)
theorem Laws.RoundTrip.rlcgo (p : Part) : Laws.RoundTrip.Statement (.rlcgo p) :=
  fun h => Or.inr (decode_op _ 0x3b0 p rfl (by decide) rfl h)
theorem Laws.RoundTrip.rlcwait (p : Part) : Laws.RoundTrip.Statement (.rlcwait p) :=
  fun h => Or.inr (decode_op _ 0x3b1 p rfl (by decide) rfl h)
theorem Laws.RoundTrip.rlcstat (p : Part) : Laws.RoundTrip.Statement (.rlcstat p) :=
  fun h => Or.inr (decode_op _ 0x3b2 p rfl (by decide) rfl h)
theorem Laws.RoundTrip.rlcabort (p : Part) : Laws.RoundTrip.Statement (.rlcabort p) :=
  fun h => Or.inr (decode_op _ 0x3b3 p rfl (by decide) rfl h)
theorem Laws.RoundTrip.vadd (p : Part) : Laws.RoundTrip.Statement (.vadd p) :=
  fun h => Or.inr (decode_op _ 0x101 p rfl (by decide) rfl h)
theorem Laws.RoundTrip.vsub (p : Part) : Laws.RoundTrip.Statement (.vsub p) :=
  fun h => Or.inr (decode_op _ 0x102 p rfl (by decide) rfl h)
theorem Laws.RoundTrip.vmul (p : Part) : Laws.RoundTrip.Statement (.vmul p) :=
  fun h => Or.inr (decode_op _ 0x103 p rfl (by decide) rfl h)
theorem Laws.RoundTrip.vmulhs (p : Part) : Laws.RoundTrip.Statement (.vmulhs p) :=
  fun h => Or.inr (decode_op _ 0x104 p rfl (by decide) rfl h)
theorem Laws.RoundTrip.vmulhu (p : Part) : Laws.RoundTrip.Statement (.vmulhu p) :=
  fun h => Or.inr (decode_op _ 0x105 p rfl (by decide) rfl h)
theorem Laws.RoundTrip.vmin (p : Part) : Laws.RoundTrip.Statement (.vmin p) :=
  fun h => Or.inr (decode_op _ 0x106 p rfl (by decide) rfl h)
theorem Laws.RoundTrip.vmax (p : Part) : Laws.RoundTrip.Statement (.vmax p) :=
  fun h => Or.inr (decode_op _ 0x107 p rfl (by decide) rfl h)
theorem Laws.RoundTrip.vminu (p : Part) : Laws.RoundTrip.Statement (.vminu p) :=
  fun h => Or.inr (decode_op _ 0x108 p rfl (by decide) rfl h)
theorem Laws.RoundTrip.vmaxu (p : Part) : Laws.RoundTrip.Statement (.vmaxu p) :=
  fun h => Or.inr (decode_op _ 0x109 p rfl (by decide) rfl h)
theorem Laws.RoundTrip.vand (p : Part) : Laws.RoundTrip.Statement (.vand p) :=
  fun h => Or.inr (decode_op _ 0x10a p rfl (by decide) rfl h)
theorem Laws.RoundTrip.vor (p : Part) : Laws.RoundTrip.Statement (.vor p) :=
  fun h => Or.inr (decode_op _ 0x10b p rfl (by decide) rfl h)
theorem Laws.RoundTrip.vxor (p : Part) : Laws.RoundTrip.Statement (.vxor p) :=
  fun h => Or.inr (decode_op _ 0x10c p rfl (by decide) rfl h)
theorem Laws.RoundTrip.vshl (p : Part) : Laws.RoundTrip.Statement (.vshl p) :=
  fun h => Or.inr (decode_op _ 0x10d p rfl (by decide) rfl h)
theorem Laws.RoundTrip.vshrl (p : Part) : Laws.RoundTrip.Statement (.vshrl p) :=
  fun h => Or.inr (decode_op _ 0x10e p rfl (by decide) rfl h)
theorem Laws.RoundTrip.vshra (p : Part) : Laws.RoundTrip.Statement (.vshra p) :=
  fun h => Or.inr (decode_op _ 0x10f p rfl (by decide) rfl h)
theorem Laws.RoundTrip.vabs (p : Part) : Laws.RoundTrip.Statement (.vabs p) :=
  fun h => Or.inr (decode_op _ 0x110 p rfl (by decide) rfl h)
theorem Laws.RoundTrip.vneg (p : Part) : Laws.RoundTrip.Statement (.vneg p) :=
  fun h => Or.inr (decode_op _ 0x111 p rfl (by decide) rfl h)
theorem Laws.RoundTrip.vmov (p : Part) : Laws.RoundTrip.Statement (.vmov p) :=
  fun h => Or.inr (decode_op _ 0x112 p rfl (by decide) rfl h)
theorem Laws.RoundTrip.vsel (p : Part) : Laws.RoundTrip.Statement (.vsel p) :=
  fun h => Or.inr (decode_op _ 0x113 p rfl (by decide) rfl h)
theorem Laws.RoundTrip.vmad (p : Part) : Laws.RoundTrip.Statement (.vmad p) :=
  fun h => Or.inr (decode_op _ 0x114 p rfl (by decide) rfl h)
theorem Laws.RoundTrip.vcmpeq (p : Part) : Laws.RoundTrip.Statement (.vcmpeq p) :=
  fun h => Or.inr (decode_op _ 0x120 p rfl (by decide) rfl h)
theorem Laws.RoundTrip.vcmpne (p : Part) : Laws.RoundTrip.Statement (.vcmpne p) :=
  fun h => Or.inr (decode_op _ 0x121 p rfl (by decide) rfl h)
theorem Laws.RoundTrip.vcmplt (p : Part) : Laws.RoundTrip.Statement (.vcmplt p) :=
  fun h => Or.inr (decode_op _ 0x122 p rfl (by decide) rfl h)
theorem Laws.RoundTrip.vcmpltu (p : Part) : Laws.RoundTrip.Statement (.vcmpltu p) :=
  fun h => Or.inr (decode_op _ 0x123 p rfl (by decide) rfl h)
theorem Laws.RoundTrip.vcmple (p : Part) : Laws.RoundTrip.Statement (.vcmple p) :=
  fun h => Or.inr (decode_op _ 0x124 p rfl (by decide) rfl h)
theorem Laws.RoundTrip.vcmpleu (p : Part) : Laws.RoundTrip.Statement (.vcmpleu p) :=
  fun h => Or.inr (decode_op _ 0x125 p rfl (by decide) rfl h)
theorem Laws.RoundTrip.vredadd (p : Part) : Laws.RoundTrip.Statement (.vredadd p) :=
  fun h => Or.inr (decode_op _ 0x130 p rfl (by decide) rfl h)
theorem Laws.RoundTrip.vredmin (p : Part) : Laws.RoundTrip.Statement (.vredmin p) :=
  fun h => Or.inr (decode_op _ 0x131 p rfl (by decide) rfl h)
theorem Laws.RoundTrip.vredmax (p : Part) : Laws.RoundTrip.Statement (.vredmax p) :=
  fun h => Or.inr (decode_op _ 0x132 p rfl (by decide) rfl h)
theorem Laws.RoundTrip.vredminu (p : Part) : Laws.RoundTrip.Statement (.vredminu p) :=
  fun h => Or.inr (decode_op _ 0x133 p rfl (by decide) rfl h)
theorem Laws.RoundTrip.vredmaxu (p : Part) : Laws.RoundTrip.Statement (.vredmaxu p) :=
  fun h => Or.inr (decode_op _ 0x134 p rfl (by decide) rfl h)
theorem Laws.RoundTrip.vcompact (p : Part) : Laws.RoundTrip.Statement (.vcompact p) :=
  fun h => Or.inr (decode_op _ 0x140 p rfl (by decide) rfl h)
theorem Laws.RoundTrip.vexpand (p : Part) : Laws.RoundTrip.Statement (.vexpand p) :=
  fun h => Or.inr (decode_op _ 0x141 p rfl (by decide) rfl h)
theorem Laws.RoundTrip.vmaskcnt (p : Part) : Laws.RoundTrip.Statement (.vmaskcnt p) :=
  fun h => Or.inr (decode_op _ 0x142 p rfl (by decide) rfl h)
theorem Laws.RoundTrip.viota (p : Part) : Laws.RoundTrip.Statement (.viota p) :=
  fun h => Or.inr (decode_op _ 0x143 p rfl (by decide) rfl h)
theorem Laws.RoundTrip.vreq (p : Part) : Laws.RoundTrip.Statement (.vreq p) :=
  fun h => Or.inr (decode_op _ 0x150 p rfl (by decide) rfl h)
theorem Laws.RoundTrip.vreq8 (p : Part) : Laws.RoundTrip.Statement (.vreq8 p) :=
  fun h => Or.inr (decode_op _ 0x151 p rfl (by decide) rfl h)
theorem Laws.RoundTrip.vfadd (p : Part) : Laws.RoundTrip.Statement (.vfadd p) :=
  fun h => Or.inr (decode_op _ 0x201 p rfl (by decide) rfl h)
theorem Laws.RoundTrip.vfsub (p : Part) : Laws.RoundTrip.Statement (.vfsub p) :=
  fun h => Or.inr (decode_op _ 0x202 p rfl (by decide) rfl h)
theorem Laws.RoundTrip.vfmul (p : Part) : Laws.RoundTrip.Statement (.vfmul p) :=
  fun h => Or.inr (decode_op _ 0x203 p rfl (by decide) rfl h)
theorem Laws.RoundTrip.vfma (p : Part) : Laws.RoundTrip.Statement (.vfma p) :=
  fun h => Or.inr (decode_op _ 0x204 p rfl (by decide) rfl h)
theorem Laws.RoundTrip.vfms (p : Part) : Laws.RoundTrip.Statement (.vfms p) :=
  fun h => Or.inr (decode_op _ 0x205 p rfl (by decide) rfl h)
theorem Laws.RoundTrip.vfnma (p : Part) : Laws.RoundTrip.Statement (.vfnma p) :=
  fun h => Or.inr (decode_op _ 0x206 p rfl (by decide) rfl h)
theorem Laws.RoundTrip.vfmin (p : Part) : Laws.RoundTrip.Statement (.vfmin p) :=
  fun h => Or.inr (decode_op _ 0x207 p rfl (by decide) rfl h)
theorem Laws.RoundTrip.vfmax (p : Part) : Laws.RoundTrip.Statement (.vfmax p) :=
  fun h => Or.inr (decode_op _ 0x208 p rfl (by decide) rfl h)
theorem Laws.RoundTrip.vfabs (p : Part) : Laws.RoundTrip.Statement (.vfabs p) :=
  fun h => Or.inr (decode_op _ 0x209 p rfl (by decide) rfl h)
theorem Laws.RoundTrip.vfneg (p : Part) : Laws.RoundTrip.Statement (.vfneg p) :=
  fun h => Or.inr (decode_op _ 0x20a p rfl (by decide) rfl h)
theorem Laws.RoundTrip.vfcmpeq (p : Part) : Laws.RoundTrip.Statement (.vfcmpeq p) :=
  fun h => Or.inr (decode_op _ 0x220 p rfl (by decide) rfl h)
theorem Laws.RoundTrip.vfcmplt (p : Part) : Laws.RoundTrip.Statement (.vfcmplt p) :=
  fun h => Or.inr (decode_op _ 0x221 p rfl (by decide) rfl h)
theorem Laws.RoundTrip.vfcmple (p : Part) : Laws.RoundTrip.Statement (.vfcmple p) :=
  fun h => Or.inr (decode_op _ 0x222 p rfl (by decide) rfl h)
theorem Laws.RoundTrip.vfcmpun (p : Part) : Laws.RoundTrip.Statement (.vfcmpun p) :=
  fun h => Or.inr (decode_op _ 0x223 p rfl (by decide) rfl h)
theorem Laws.RoundTrip.vfredadd (p : Part) : Laws.RoundTrip.Statement (.vfredadd p) :=
  fun h => Or.inr (decode_op _ 0x230 p rfl (by decide) rfl h)
theorem Laws.RoundTrip.vfredmin (p : Part) : Laws.RoundTrip.Statement (.vfredmin p) :=
  fun h => Or.inr (decode_op _ 0x231 p rfl (by decide) rfl h)
theorem Laws.RoundTrip.vfredmax (p : Part) : Laws.RoundTrip.Statement (.vfredmax p) :=
  fun h => Or.inr (decode_op _ 0x232 p rfl (by decide) rfl h)
theorem Laws.RoundTrip.vcvt (p : Part) : Laws.RoundTrip.Statement (.vcvt p) :=
  fun h => Or.inr (decode_op _ 0x240 p rfl (by decide) rfl h)
theorem Laws.RoundTrip.vfround (p : Part) : Laws.RoundTrip.Statement (.vfround p) :=
  fun h => Or.inr (decode_op _ 0x241 p rfl (by decide) rfl h)
theorem Laws.RoundTrip.vfreq (p : Part) : Laws.RoundTrip.Statement (.vfreq p) :=
  fun h => Or.inr (decode_op _ 0x242 p rfl (by decide) rfl h)
theorem Laws.RoundTrip.vrcp (p : Part) : Laws.RoundTrip.Statement (.vrcp p) :=
  fun h => Or.inr (decode_op _ 0x250 p rfl (by decide) rfl h)
theorem Laws.RoundTrip.vrsq (p : Part) : Laws.RoundTrip.Statement (.vrsq p) :=
  fun h => Or.inr (decode_op _ 0x251 p rfl (by decide) rfl h)
theorem Laws.RoundTrip.vrcps (p : Part) : Laws.RoundTrip.Statement (.vrcps p) :=
  fun h => Or.inr (decode_op _ 0x252 p rfl (by decide) rfl h)
theorem Laws.RoundTrip.vrsqs (p : Part) : Laws.RoundTrip.Statement (.vrsqs p) :=
  fun h => Or.inr (decode_op _ 0x253 p rfl (by decide) rfl h)
theorem Laws.RoundTrip.vexp2 (p : Part) : Laws.RoundTrip.Statement (.vexp2 p) :=
  fun h => Or.inr (decode_op _ 0x254 p rfl (by decide) rfl h)
theorem Laws.RoundTrip.vmadm (p : Part) : Laws.RoundTrip.Statement (.vmadm p) :=
  fun h => Or.inr (decode_op _ 0x301 p rfl (by decide) rfl h)
theorem Laws.RoundTrip.vmsbm (p : Part) : Laws.RoundTrip.Statement (.vmsbm p) :=
  fun h => Or.inr (decode_op _ 0x302 p rfl (by decide) rfl h)
theorem Laws.RoundTrip.vmulm (p : Part) : Laws.RoundTrip.Statement (.vmulm p) :=
  fun h => Or.inr (decode_op _ 0x303 p rfl (by decide) rfl h)
theorem Laws.RoundTrip.vmulmc (p : Part) : Laws.RoundTrip.Statement (.vmulmc p) :=
  fun h => Or.inr (decode_op _ 0x304 p rfl (by decide) rfl h)
theorem Laws.RoundTrip.vbfly (p : Part) : Laws.RoundTrip.Statement (.vbfly p) :=
  fun h => Or.inr (decode_op _ 0x305 p rfl (by decide) rfl h)
theorem Laws.RoundTrip.vibfly (p : Part) : Laws.RoundTrip.Statement (.vibfly p) :=
  fun h => Or.inr (decode_op _ 0x306 p rfl (by decide) rfl h)
theorem Laws.RoundTrip.vperm (p : Part) : Laws.RoundTrip.Statement (.vperm p) :=
  fun h => Or.inr (decode_op _ 0x307 p rfl (by decide) rfl h)
theorem Laws.RoundTrip.vmred (p : Part) : Laws.RoundTrip.Statement (.vmred p) :=
  fun h => Or.inr (decode_op _ 0x308 p rfl (by decide) rfl h)
theorem Laws.RoundTrip.vmcent (p : Part) : Laws.RoundTrip.Statement (.vmcent p) :=
  fun h => Or.inr (decode_op _ 0x309 p rfl (by decide) rfl h)
theorem Laws.RoundTrip.vmodset (p : Part) : Laws.RoundTrip.Statement (.vmodset p) :=
  fun h => Or.inr (decode_op _ 0x30a p rfl (by decide) rfl h)
theorem Laws.RoundTrip.vmodget (p : Part) : Laws.RoundTrip.Statement (.vmodget p) :=
  fun h => Or.inr (decode_op _ 0x30b p rfl (by decide) rfl h)
theorem Laws.RoundTrip.xperm (p : Part) : Laws.RoundTrip.Statement (.xperm p) :=
  fun h => Or.inr (decode_op _ 0x340 p rfl (by decide) rfl h)
theorem Laws.RoundTrip.xbcast (p : Part) : Laws.RoundTrip.Statement (.xbcast p) :=
  fun h => Or.inr (decode_op _ 0x341 p rfl (by decide) rfl h)
theorem Laws.RoundTrip.xrot (p : Part) : Laws.RoundTrip.Statement (.xrot p) :=
  fun h => Or.inr (decode_op _ 0x342 p rfl (by decide) rfl h)
theorem Laws.RoundTrip.xzip (p : Part) : Laws.RoundTrip.Statement (.xzip p) :=
  fun h => Or.inr (decode_op _ 0x343 p rfl (by decide) rfl h)
theorem Laws.RoundTrip.xunzip (p : Part) : Laws.RoundTrip.Statement (.xunzip p) :=
  fun h => Or.inr (decode_op _ 0x344 p rfl (by decide) rfl h)
theorem Laws.RoundTrip.xtrn (p : Part) : Laws.RoundTrip.Statement (.xtrn p) :=
  fun h => Or.inr (decode_op _ 0x345 p rfl (by decide) rfl h)
theorem Laws.RoundTrip.mcall (g : BitVec 4) (ar : Bool) (r : BitVec 8) (imm : BitVec 18) : Laws.RoundTrip.Statement (.mcall g ar r imm) :=
  fun _ => Or.inr (decode_mcall g ar r imm)
theorem Laws.RoundTrip.cplin (p : Cp) : Laws.RoundTrip.Statement (.cplin p) :=
  fun h => Or.inr (decode_cp _ 0x1 false p rfl (by decide) (cplin_back p) h)
theorem Laws.RoundTrip.cplinCode (p : Cp) : Laws.RoundTrip.Statement (.cplinCode p) :=
  fun h => Or.inr (decode_cp _ 0x1 true p rfl (by decide) (cplin_back_code p) h)
theorem Laws.RoundTrip.cpstr (p : Cp) : Laws.RoundTrip.Statement (.cpstr p) :=
  fun h => Or.inr (decode_cp _ 0x2 false p rfl (by decide) (fun _ => rfl) h)
theorem Laws.RoundTrip.cpgath (p : Cp) : Laws.RoundTrip.Statement (.cpgath p) :=
  fun h => Or.inr (decode_cp _ 0x3 false p rfl (by decide) (fun _ => rfl) h)
theorem Laws.RoundTrip.cpconv (p : Cp) : Laws.RoundTrip.Statement (.cpconv p) :=
  fun h => Or.inr (decode_cp _ 0x4 false p rfl (by decide) (fun _ => rfl) h)
theorem Laws.RoundTrip.cpver (p : Cp) : Laws.RoundTrip.Statement (.cpver p) :=
  fun h => Or.inr (decode_cp _ 0x5 false p rfl (by decide) (fun _ => rfl) h)
theorem Laws.RoundTrip.cpcomp (p : Cp) : Laws.RoundTrip.Statement (.cpcomp p) :=
  fun h => Or.inr (decode_cp _ 0x6 false p rfl (by decide) (fun _ => rfl) h)
theorem Laws.RoundTrip.cpst (p : Cp) : Laws.RoundTrip.Statement (.cpst p) :=
  fun h => Or.inr (decode_cp _ 0x7 false p rfl (by decide) (fun _ => rfl) h)
theorem Laws.RoundTrip.cpsts (p : Cp) : Laws.RoundTrip.Statement (.cpsts p) :=
  fun h => Or.inr (decode_cp _ 0x8 false p rfl (by decide) (fun _ => rfl) h)
theorem Laws.RoundTrip.cpbank (p : Cp) : Laws.RoundTrip.Statement (.cpbank p) :=
  fun h => Or.inr (decode_cp _ 0x9 false p rfl (by decide) (fun _ => rfl) h)
theorem Laws.RoundTrip.cpwb (p : Cp) : Laws.RoundTrip.Statement (.cpwb p) :=
  fun h => Or.inr (decode_cp _ 0xa false p rfl (by decide) (fun _ => rfl) h)
theorem Laws.RoundTrip.cpdisc (p : Cp) : Laws.RoundTrip.Statement (.cpdisc p) :=
  fun h => Or.inr (decode_cp _ 0xb false p rfl (by decide) (fun _ => rfl) h)
theorem Laws.RoundTrip.cppref (p : Cp) : Laws.RoundTrip.Statement (.cppref p) :=
  fun h => Or.inr (decode_cp _ 0xc false p rfl (by decide) (fun _ => rfl) h)
theorem Laws.RoundTrip.cpcoll (p : Cp) : Laws.RoundTrip.Statement (.cpcoll p) :=
  fun h => Or.inr (decode_cp _ 0xd false p rfl (by decide) (fun _ => rfl) h)
theorem Laws.RoundTrip.mzero (u : Uop) : Laws.RoundTrip.Statement (.mzero u) :=
  fun h => Or.inr (decode_uop _ 0x1 u rfl (by decide) rfl h)
theorem Laws.RoundTrip.mlda (u : Uop) : Laws.RoundTrip.Statement (.mlda u) :=
  fun h => Or.inr (decode_uop _ 0x2 u rfl (by decide) rfl h)
theorem Laws.RoundTrip.mldb (u : Uop) : Laws.RoundTrip.Statement (.mldb u) :=
  fun h => Or.inr (decode_uop _ 0x3 u rfl (by decide) rfl h)
theorem Laws.RoundTrip.mmac (u : Uop) : Laws.RoundTrip.Statement (.mmac u) :=
  fun h => Or.inr (decode_uop _ 0x4 u rfl (by decide) rfl h)
theorem Laws.RoundTrip.mpromo (u : Uop) : Laws.RoundTrip.Statement (.mpromo u) :=
  fun h => Or.inr (decode_uop _ 0x5 u rfl (by decide) rfl h)
theorem Laws.RoundTrip.macc (u : Uop) : Laws.RoundTrip.Statement (.macc u) :=
  fun h => Or.inr (decode_uop _ 0x6 u rfl (by decide) rfl h)
theorem Laws.RoundTrip.mout (u : Uop) : Laws.RoundTrip.Statement (.mout u) :=
  fun h => Or.inr (decode_uop _ 0x7 u rfl (by decide) rfl h)
theorem Laws.RoundTrip.mwbl (u : Uop) : Laws.RoundTrip.Statement (.mwbl u) :=
  fun h => Or.inr (decode_uop _ 0x8 u rfl (by decide) rfl h)
theorem Laws.RoundTrip.msetk (u : Uop) : Laws.RoundTrip.Statement (.msetk u) :=
  fun h => Or.inr (decode_uop _ 0x9 u rfl (by decide) rfl h)
theorem Laws.RoundTrip.mloop (u : Uop) : Laws.RoundTrip.Statement (.mloop u) :=
  fun h => Or.inr (decode_uop _ 0xa u rfl (by decide) rfl h)
theorem Laws.RoundTrip.mend (u : Uop) : Laws.RoundTrip.Statement (.mend u) :=
  fun h => Or.inr (decode_uop _ 0xb u rfl (by decide) rfl h)
theorem Laws.RoundTrip.mbr (u : Uop) : Laws.RoundTrip.Statement (.mbr u) :=
  fun h => Or.inr (decode_uop _ 0xc u rfl (by decide) rfl h)
theorem Laws.RoundTrip.mret (u : Uop) : Laws.RoundTrip.Statement (.mret u) :=
  fun h => Or.inr (decode_uop _ 0xd u rfl (by decide) rfl h)
theorem Laws.RoundTrip.pktNop (h : PktHdr) : Laws.RoundTrip.Statement (.pktNop h) :=
  fun hw => Or.inr (decode_pktNop h hw)
theorem Laws.RoundTrip.beginBatch (h : PktHdr) : Laws.RoundTrip.Statement (.beginBatch h) :=
  fun hw => Or.inr (decode_beginBatch h hw)
theorem Laws.RoundTrip.commitBatch (h : PktHdr) : Laws.RoundTrip.Statement (.commitBatch h) :=
  fun hw => Or.inr (decode_commitBatch h hw)
theorem Laws.RoundTrip.launchPkt (h : PktHdr) (desc : W64) (sig : W64) (val : W64) : Laws.RoundTrip.Statement (.launchPkt h desc sig val) :=
  fun hw => Or.inr (decode_launchPkt h desc sig val hw)
theorem Laws.RoundTrip.graphPkt (h : PktHdr) (desc : W64) (sig : W64) (val : W64) : Laws.RoundTrip.Statement (.graphPkt h desc sig val) :=
  fun hw => Or.inr (decode_graphPkt h desc sig val hw)
theorem Laws.RoundTrip.writePkt (h : PktHdr) (dst : W64) (cnt : BitVec 3) (v0 : W64) (v1 : W64) (v2 : W64) (v3 : W64) : Laws.RoundTrip.Statement (.writePkt h dst cnt v0 v1 v2 v3) :=
  fun hw => Or.inr (decode_writePkt h dst cnt v0 v1 v2 v3 hw)
theorem Laws.RoundTrip.waitmemPkt (h : PktHdr) (addr : W64) (mask : W64) (val : W64) (op : BitVec 2) (tmo : BitVec 32) : Laws.RoundTrip.Statement (.waitmemPkt h addr mask val op tmo) :=
  fun hw => Or.inr (decode_waitmemPkt h addr mask val op tmo hw)
theorem Laws.RoundTrip.pktLoop (h : PktHdr) (body : BitVec 6) (trips : BitVec 16) : Laws.RoundTrip.Statement (.pktLoop h body trips) :=
  fun hw => Or.inr (decode_pktLoop h body trips hw)
theorem Laws.RoundTrip.indirectPkt (h : PktHdr) (buf : W64) (cnt : BitVec 13) : Laws.RoundTrip.Statement (.indirectPkt h buf cnt) :=
  fun hw => Or.inr (decode_indirectPkt h buf cnt hw)
theorem Laws.RoundTrip.signalPkt (h : PktHdr) (addr : W64) (val : W64) (store : Bool) (irq : Bool) (vec : BitVec 8) : Laws.RoundTrip.Statement (.signalPkt h addr val store irq vec) :=
  fun hw => Or.inr (decode_signalPkt h addr val store irq vec hw)
theorem Laws.RoundTrip.fetchFence (h : PktHdr) : Laws.RoundTrip.Statement (.fetchFence h) :=
  fun hw => Or.inr (decode_fetchFence h hw)
theorem Laws.RoundTrip.nullifierSkip (core : Nat) (ctx : Nat) : Laws.RoundTrip.Statement (.nullifierSkip core ctx) :=
  fun _ => Or.inl rfl
theorem Laws.RoundTrip.bundleUnblock (core : Nat) (ctx : Nat) : Laws.RoundTrip.Statement (.bundleUnblock core ctx) :=
  fun _ => Or.inl rfl
theorem Laws.RoundTrip.fenceComplete (core : Nat) (ctx : Nat) : Laws.RoundTrip.Statement (.fenceComplete core ctx) :=
  fun _ => Or.inl rfl
theorem Laws.RoundTrip.ifenceComplete (core : Nat) (ctx : Nat) : Laws.RoundTrip.Statement (.ifenceComplete core ctx) :=
  fun _ => Or.inl rfl
theorem Laws.RoundTrip.dbarRelease (core : Nat) (ctx : Nat) : Laws.RoundTrip.Statement (.dbarRelease core ctx) :=
  fun _ => Or.inl rfl
theorem Laws.RoundTrip.haltDrained (core : Nat) (ctx : Nat) : Laws.RoundTrip.Statement (.haltDrained core ctx) :=
  fun _ => Or.inl rfl
theorem Laws.RoundTrip.launchEndCore (core : Nat) : Laws.RoundTrip.Statement (.launchEndCore core) :=
  fun _ => Or.inl rfl
theorem Laws.RoundTrip.dividerComplete (core : Nat) : Laws.RoundTrip.Statement (.dividerComplete core) :=
  fun _ => Or.inl rfl
theorem Laws.RoundTrip.loadComplete (core : Nat) (ctx : Nat) : Laws.RoundTrip.Statement (.loadComplete core ctx) :=
  fun _ => Or.inl rfl
theorem Laws.RoundTrip.storePerform (core : Nat) (idx : Nat) : Laws.RoundTrip.Statement (.storePerform core idx) :=
  fun _ => Or.inl rfl
theorem Laws.RoundTrip.atomicComplete (core : Nat) (ctx : Nat) : Laws.RoundTrip.Statement (.atomicComplete core ctx) :=
  fun _ => Or.inl rfl
theorem Laws.RoundTrip.fillLand (core : Nat) (idx : Nat) : Laws.RoundTrip.Statement (.fillLand core idx) :=
  fun _ => Or.inl rfl
theorem Laws.RoundTrip.readComplete (core : Nat) (ctx : Nat) (q : Nat) (pos : Nat) : Laws.RoundTrip.Statement (.readComplete core ctx q pos) :=
  fun _ => Or.inl rfl
theorem Laws.RoundTrip.spliceAppendArrive (core : Nat) (idx : Nat) : Laws.RoundTrip.Statement (.spliceAppendArrive core idx) :=
  fun _ => Or.inl rfl
theorem Laws.RoundTrip.headAdvertise (core : Nat) (idx : Nat) : Laws.RoundTrip.Statement (.headAdvertise core idx) :=
  fun _ => Or.inl rfl
theorem Laws.RoundTrip.freezeRequest (core : Nat) (idx : Nat) : Laws.RoundTrip.Statement (.freezeRequest core idx) :=
  fun _ => Or.inl rfl
theorem Laws.RoundTrip.freezeMarker (core : Nat) (idx : Nat) : Laws.RoundTrip.Statement (.freezeMarker core idx) :=
  fun _ => Or.inl rfl
theorem Laws.RoundTrip.freezeAck (core : Nat) (idx : Nat) : Laws.RoundTrip.Statement (.freezeAck core idx) :=
  fun _ => Or.inl rfl
theorem Laws.RoundTrip.thawHandshake (core : Nat) (idx : Nat) : Laws.RoundTrip.Statement (.thawHandshake core idx) :=
  fun _ => Or.inl rfl
theorem Laws.RoundTrip.barrierArrive (core : Nat) (idx : Nat) : Laws.RoundTrip.Statement (.barrierArrive core idx) :=
  fun _ => Or.inl rfl
theorem Laws.RoundTrip.barrierFree (core : Nat) (bar : Nat) : Laws.RoundTrip.Statement (.barrierFree core bar) :=
  fun _ => Or.inl rfl
theorem Laws.RoundTrip.rlcStep (cluster : Nat) : Laws.RoundTrip.Statement (.rlcStep cluster) :=
  fun _ => Or.inl rfl
theorem Laws.RoundTrip.vbSplitStart (core : Nat) (idx : Nat) : Laws.RoundTrip.Statement (.vbSplitStart core idx) :=
  fun _ => Or.inl rfl
theorem Laws.RoundTrip.vectorPartComplete (core : Nat) (idx : Nat) : Laws.RoundTrip.Statement (.vectorPartComplete core idx) :=
  fun _ => Or.inl rfl
theorem Laws.RoundTrip.routineStart (core : Nat) : Laws.RoundTrip.Statement (.routineStart core) :=
  fun _ => Or.inl rfl
theorem Laws.RoundTrip.stageFetchDone (core : Nat) (idx : Nat) : Laws.RoundTrip.Statement (.stageFetchDone core idx) :=
  fun _ => Or.inl rfl
theorem Laws.RoundTrip.routineRetire (core : Nat) (idx : Nat) : Laws.RoundTrip.Statement (.routineRetire core idx) :=
  fun _ => Or.inl rfl
theorem Laws.RoundTrip.copyStart (core : Nat) (idx : Nat) : Laws.RoundTrip.Statement (.copyStart core idx) :=
  fun _ => Or.inl rfl
theorem Laws.RoundTrip.copyLand (core : Nat) (idx : Nat) : Laws.RoundTrip.Statement (.copyLand core idx) :=
  fun _ => Or.inl rfl
theorem Laws.RoundTrip.cpverCommit (core : Nat) (idx : Nat) : Laws.RoundTrip.Statement (.cpverCommit core idx) :=
  fun _ => Or.inl rfl
theorem Laws.RoundTrip.collectiveComplete (idx : Nat) : Laws.RoundTrip.Statement (.collectiveComplete idx) :=
  fun _ => Or.inl rfl
theorem Laws.RoundTrip.contribArrive (idx : Nat) : Laws.RoundTrip.Statement (.contribArrive idx) :=
  fun _ => Or.inl rfl
theorem Laws.RoundTrip.entryRead (idx : Nat) : Laws.RoundTrip.Statement (.entryRead idx) :=
  fun _ => Or.inl rfl
theorem Laws.RoundTrip.entryStart (idx : Nat) : Laws.RoundTrip.Statement (.entryStart idx) :=
  fun _ => Or.inl rfl
theorem Laws.RoundTrip.entryComplete (idx : Nat) (entry : Nat) : Laws.RoundTrip.Statement (.entryComplete idx entry) :=
  fun _ => Or.inl rfl
theorem Laws.RoundTrip.ephStallPass (core : Nat) (ctx : Nat) : Laws.RoundTrip.Statement (.ephStallPass core ctx) :=
  fun _ => Or.inl rfl
theorem Laws.RoundTrip.windowBoundary  : Laws.RoundTrip.Statement (.windowBoundary) :=
  fun _ => Or.inl rfl
theorem Laws.RoundTrip.portGrant (die : Nat) (port : Nat) : Laws.RoundTrip.Statement (.portGrant die port) :=
  fun _ => Or.inl rfl
theorem Laws.RoundTrip.trapEnter (core : Nat) (ctx : Nat) : Laws.RoundTrip.Statement (.trapEnter core ctx) :=
  fun _ => Or.inl rfl
theorem Laws.RoundTrip.fatalFault (core : Nat) : Laws.RoundTrip.Statement (.fatalFault core) :=
  fun _ => Or.inl rfl
theorem Laws.RoundTrip.softerr (st : ErrPlace) (core : Nat) (n : Nat) : Laws.RoundTrip.Statement (.softerr st core n) :=
  fun _ => Or.inl rfl
theorem Laws.RoundTrip.scrubDie (die : Nat) : Laws.RoundTrip.Statement (.scrubDie die) :=
  fun _ => Or.inl rfl
theorem Laws.RoundTrip.pollSlot (host : BitVec 1) (q : BitVec 6) : Laws.RoundTrip.Statement (.pollSlot host q) :=
  fun _ => Or.inl rfl
theorem Laws.RoundTrip.waitmemTimeout (host : BitVec 1) (q : BitVec 6) : Laws.RoundTrip.Statement (.waitmemTimeout host q) :=
  fun _ => Or.inl rfl
theorem Laws.RoundTrip.launchBind (id : Nat) : Laws.RoundTrip.Statement (.launchBind id) :=
  fun _ => Or.inl rfl
theorem Laws.RoundTrip.launchComplete (id : Nat) : Laws.RoundTrip.Statement (.launchComplete id) :=
  fun _ => Or.inl rfl
theorem Laws.RoundTrip.graphNodeEnd (id : Nat) : Laws.RoundTrip.Statement (.graphNodeEnd id) :=
  fun _ => Or.inl rfl
theorem Laws.RoundTrip.preemptSave (core : Nat) : Laws.RoundTrip.Statement (.preemptSave core) :=
  fun _ => Or.inl rfl
theorem Laws.RoundTrip.saveAreaCheck (core : Nat) : Laws.RoundTrip.Statement (.saveAreaCheck core) :=
  fun _ => Or.inl rfl
theorem Laws.RoundTrip.restore (idx : Nat) : Laws.RoundTrip.Statement (.restore idx) :=
  fun _ => Or.inl rfl
theorem Laws.RoundTrip.createTenant (port : BitVec 1) (asid : BitVec 16) : Laws.RoundTrip.Statement (.createTenant port asid) :=
  fun _ => Or.inl rfl
theorem Laws.RoundTrip.destroyTenant (port : BitVec 1) (asid : BitVec 16) : Laws.RoundTrip.Statement (.destroyTenant port asid) :=
  fun _ => Or.inl rfl
theorem Laws.RoundTrip.givecore (port : BitVec 1) (asid : BitVec 16) : Laws.RoundTrip.Statement (.givecore port asid) :=
  fun _ => Or.inl rfl
theorem Laws.RoundTrip.takecore (port : BitVec 1) (asid : BitVec 16) : Laws.RoundTrip.Statement (.takecore port asid) :=
  fun _ => Or.inl rfl
theorem Laws.RoundTrip.setQuota (port : BitVec 1) (asid : BitVec 16) : Laws.RoundTrip.Statement (.setQuota port asid) :=
  fun _ => Or.inl rfl
theorem Laws.RoundTrip.preemptCore (port : BitVec 1) (asid : BitVec 16) : Laws.RoundTrip.Statement (.preemptCore port asid) :=
  fun _ => Or.inl rfl
theorem Laws.RoundTrip.releaseCore (port : BitVec 1) (asid : BitVec 16) : Laws.RoundTrip.Statement (.releaseCore port asid) :=
  fun _ => Or.inl rfl
theorem Laws.RoundTrip.badop (port : BitVec 1) (asid : BitVec 16) : Laws.RoundTrip.Statement (.badop port asid) :=
  fun _ => Or.inl rfl
theorem Laws.RoundTrip.replayCopy (port : BitVec 1) (core : BitVec 10) (slot : BitVec 3) : Laws.RoundTrip.Statement (.replayCopy port core slot) :=
  fun _ => Or.inl rfl
theorem Laws.RoundTrip.declineCopy (port : BitVec 1) (core : BitVec 10) (slot : BitVec 3) : Laws.RoundTrip.Statement (.declineCopy port core slot) :=
  fun _ => Or.inl rfl
theorem Laws.RoundTrip.txinv (port : BitVec 1) (die : BitVec 2) (v : W64) : Laws.RoundTrip.Statement (.txinv port die v) :=
  fun _ => Or.inl rfl
theorem Laws.RoundTrip.txinvDone (die : BitVec 2) : Laws.RoundTrip.Statement (.txinvDone die) :=
  fun _ => Or.inl rfl
theorem Laws.RoundTrip.l2Commit (port : BitVec 1) (die : BitVec 2) (v : W64) : Laws.RoundTrip.Statement (.l2Commit port die v) :=
  fun _ => Or.inl rfl
theorem Laws.RoundTrip.l2CommitDone (die : BitVec 2) : Laws.RoundTrip.Statement (.l2CommitDone die) :=
  fun _ => Or.inl rfl
theorem Laws.RoundTrip.featmaskWrite (port : BitVec 1) (v : W64) : Laws.RoundTrip.Statement (.featmaskWrite port v) :=
  fun _ => Or.inl rfl
theorem Laws.RoundTrip.redwinWrite (port : BitVec 1) (w : BitVec 4) (word : BitVec 1) (v : W64) : Laws.RoundTrip.Statement (.redwinWrite port w word v) :=
  fun _ => Or.inl rfl
theorem Laws.RoundTrip.pwrctlWrite (port : BitVec 1) (die : BitVec 2) (v : W64) : Laws.RoundTrip.Statement (.pwrctlWrite port die v) :=
  fun _ => Or.inl rfl
theorem Laws.RoundTrip.powerChangeDone (die : BitVec 2) : Laws.RoundTrip.Statement (.powerChangeDone die) :=
  fun _ => Or.inl rfl
theorem Laws.RoundTrip.iopwrWrite (port : BitVec 1) (v : W64) : Laws.RoundTrip.Statement (.iopwrWrite port v) :=
  fun _ => Or.inl rfl
theorem Laws.RoundTrip.thermalTrip (die : BitVec 2) : Laws.RoundTrip.Statement (.thermalTrip die) :=
  fun _ => Or.inl rfl
theorem Laws.RoundTrip.thermalResume (die : BitVec 2) : Laws.RoundTrip.Statement (.thermalResume die) :=
  fun _ => Or.inl rfl
theorem Laws.RoundTrip.attestGo (port : BitVec 1) (v : W64) : Laws.RoundTrip.Statement (.attestGo port v) :=
  fun _ => Or.inl rfl
theorem Laws.RoundTrip.registerWrite (port : BitVec 1) (blk : BitVec 3) (off : BitVec 12) (v : W64) : Laws.RoundTrip.Statement (.registerWrite port blk off v) :=
  fun _ => Or.inl rfl
theorem Laws.RoundTrip.hostApertureRead (port : BitVec 1) (ap : BitVec 4) (off : BitVec 32) (len : Nat) : Laws.RoundTrip.Statement (.hostApertureRead port ap off len) :=
  fun _ => Or.inl rfl
theorem Laws.RoundTrip.hostApertureWrite (port : BitVec 1) (ap : BitVec 4) (off : BitVec 32) (data : List Byte) : Laws.RoundTrip.Statement (.hostApertureWrite port ap off data) :=
  fun _ => Or.inl rfl
theorem Laws.RoundTrip.hostAtomic (port : BitVec 1) (ap : BitVec 4) (off : BitVec 32) (op : HostOp) (len : BitVec 5) (a : BitVec 128) (b : BitVec 128) : Laws.RoundTrip.Statement (.hostAtomic port ap off op len a b) :=
  fun _ => Or.inl rfl
theorem Laws.RoundTrip.uliTrain (port : BitVec 4) (gen2 : Bool) : Laws.RoundTrip.Statement (.uliTrain port gen2) :=
  fun _ => Or.inl rfl
theorem Laws.RoundTrip.uliDown (port : BitVec 4) : Laws.RoundTrip.Statement (.uliDown port) :=
  fun _ => Or.inl rfl
theorem Laws.RoundTrip.powerGood (fail : BitVec 2) (farmask : BitVec 48) : Laws.RoundTrip.Statement (.powerGood fail farmask) :=
  fun _ => Or.inl rfl
theorem Laws.RoundTrip.deviceReset  : Laws.RoundTrip.Statement (.deviceReset) :=
  fun _ => Or.inl rfl
theorem Laws.RoundTrip.spliceRequest (core : Nat) (idx : Nat) : Laws.RoundTrip.Statement (.spliceRequest core idx) :=
  fun _ => Or.inl rfl
theorem Laws.RoundTrip.unspliceRequest (core : Nat) (idx : Nat) : Laws.RoundTrip.Statement (.unspliceRequest core idx) :=
  fun _ => Or.inl rfl
theorem Laws.RoundTrip.thawReply (core : Nat) (idx : Nat) : Laws.RoundTrip.Statement (.thawReply core idx) :=
  fun _ => Or.inl rfl
theorem Laws.RoundTrip.remoteRequest (dev : BitVec 10) (asid : BitVec 16) (addr : BitVec 42) (req : RemReq) : Laws.RoundTrip.Statement (.remoteRequest dev asid addr req) :=
  fun _ => Or.inl rfl
theorem Laws.RoundTrip.launchAbort (id : Nat) : Laws.RoundTrip.Statement (.launchAbort id) :=
  fun _ => Or.inl rfl

end Sys2Proof
end

