-- ==== Sys2Proof/Laws/Run.lean ====
section
/-! SUPPORT. What running one part comes to: in an open bundle, with its guard true or false, and outside one. -/
namespace Sys2Proof.Machine
open Sys2Proof

/-- In an open bundle a part whose guard reads true has its effect. -/
theorem runPart_runs {s : State} {b : Issue} {i : Instr} (eff : Eff) (h : Runs s b (guardOf i)) :
    runPart i eff s = .next (s.mechs (eff s b s.mach)) := by
  have ho : (s.mach.core s.mach.focusCore).issue = some b := h.isOpen
  simp only [runPart, ho, runEff, h.live, if_true, State.mechs]
/-- An effect on the core in focus. -/
theorem runPart_focus {s : State} {b : Issue} {i : Instr} (f : State → Issue → Core → Core) (h : Runs s b (guardOf i)) :
    runPart i (onFocus f) s = .next (s.did (f s b)) := runPart_runs _ h
/-- An effect on the core in focus that knows the core's number. -/
theorem runPart_upd {s : State} {b : Issue} {i : Instr} (f : Nat → Issue → Core → Core) (h : Runs s b (guardOf i)) :
    runPart i (fun _ b m => m.upd m.focusCore (f m.focusCore b)) s = .next (s.did (f s.mach.focusCore b)) := runPart_runs _ h
/-- An SC part that completes within its bundle's issue. -/
theorem runPart_scNow {s : State} {b : Issue} {i : Instr} (f : Issue → Core → Core) (h : Runs s b (guardOf i)) :
    runPart i (scNow i f) s = .next (s.did (fun k => (f b k).retire ⟨i, b⟩)) := runPart_runs _ h
/-- In an open bundle a part whose guard reads false changes nothing. -/
theorem runPart_off {s : State} {b : Issue} {i : Instr} (eff : Eff) (ho : s.here.issue = some b)
    (hg : b.pre.rP (guardOf i).toNat = false) : runPart i eff s = .next s.idle := by
  have ho : (s.mach.core s.mach.focusCore).issue = some b := ho
  simp [runPart, ho, runEff, hg, State.idle]
/-- The close of a bundle changes one core and no memory. -/
theorem State.close_mem (s : State) (c : Nat) : (s.close c).mem = s.mem := by
  unfold State.close
  split
  · rfl
  · dsimp only
    split
    · rfl
    · split <;> rfl
/-- In an open bundle a part always answers a next state, and its memory stands. -/
theorem runPart_open_mem {s t : State} {i : Instr} (eff : Eff) (h : runPart i eff s = .next t) : t.mem = s.mem := by
  unfold runPart at h
  dsimp only at h
  split at h
  · cases h; rfl
  · split at h
    · split at h
      · cases h; exact State.close_mem _ _
      · cases h; rfl
    · cases h; rfl
/-- Nothing but a next state. -/
theorem runPart_next (i : Instr) (eff : Eff) (s : State) : ∃ t, runPart i eff s = .next t := by
  unfold runPart
  dsimp only
  split
  · exact ⟨_, rfl⟩
  · split
    · split <;> exact ⟨_, rfl⟩
    · exact ⟨_, rfl⟩
/-- A part changes no memory: stores are performed by steps of their own (R126, R221). -/
theorem runPart_mem {s t : State} {i : Instr} {eff : Eff} (h : runPart i eff s = .next t) : t.mem = s.mem :=
  runPart_open_mem eff h
/-- A micro-op changes no memory. -/
theorem uopRun_mem {s t : State} {f : Nat → Core → Routine → URes} (h : uopRun f s = .next t) : t.mem = s.mem := by
  unfold uopRun at h
  dsimp only at h
  split at h <;> (cases h; rfl)
/-- A step on one core changes no memory. -/
theorem coreStep_mem {s t : State} {c : Nat} {f : Core → Option Core} (h : coreStep c f s = .next t) : t.mem = s.mem := by
  unfold coreStep at h
  split at h
  · cases h
  · split at h <;> (cases h; rfl)
/-- A message changes no memory. -/
theorem msgStep_mem {s t : State} {c idx : Nat} {f : Msg → Mach → Option Mach} (h : msgStep c idx f s = .next t) :
    t.mem = s.mem := by
  unfold msgStep at h
  dsimp only at h
  split at h
  · cases h
  · split at h
    · cases h; rfl
    · split at h
      · cases h; rfl
      · split at h <;> (cases h; rfl)
theorem stepMach_mem {s t : State} {m : Mach} (h : stepMach s m = .next t) : t.mem = s.mem := by cases h; rfl
theorem stutter_mem {s t : State} (h : stutter s = .next t) : t.mem = s.mem := by cases h; rfl
/-- A step that may change memory. -/
theorem stepState_mem {s t : State} {r : Option State} (h : stepState s r = .next t) :
    t.mem = s.mem ∨ ∃ u, r = some u ∧ t.mem = u.mem := by
  unfold stepState at h
  split at h
  · cases h; exact .inr ⟨_, rfl, rfl⟩
  · cases h; exact .inl rfl
/-- An enabled step on one core. -/
theorem coreStep_some {s : State} {c : Nat} {f : Core → Option Core} {k : Core} (hc : c < 640)
    (h : f (s.mach.core c) = some k) : coreStep c f s = .next (s.stepOn c (fun _ => k)) := by
  simp only [coreStep, h, if_neg (Nat.not_le.mpr hc)]
  rfl

end Sys2Proof.Machine
end

