-- ==== Sys2Proof/Laws/State.lean ====
section
/-! SUPPORT. One lemma per field per update of the state, true by definition; then what each accessor reads after a write. -/
namespace Sys2Proof.Machine
open Sys2Proof

/-! `Mach.setCore` -/
@[simp] theorem Mach.setCore_minor (m : Mach) (c : Nat) (k : Core) : (m.setCore c k).minor = m.minor := rfl
@[simp] theorem Mach.setCore_stepping (m : Mach) (c : Nat) (k : Core) : (m.setCore c k).stepping = m.stepping := rfl
@[simp] theorem Mach.setCore_cores (m : Mach) (c : Nat) (k : Core) : (m.setCore c k).cores = Tab.set Core.zero m.cores c k := rfl
@[simp] theorem Mach.setCore_dieRegs (m : Mach) (c : Nat) (k : Core) : (m.setCore c k).dieRegs = m.dieRegs := rfl
@[simp] theorem Mach.setCore_deviceNo (m : Mach) (c : Nat) (k : Core) : (m.setCore c k).deviceNo = m.deviceNo := rfl
@[simp] theorem Mach.setCore_slots (m : Mach) (c : Nat) (k : Core) : (m.setCore c k).slots = m.slots := rfl
@[simp] theorem Mach.setCore_portRegs (m : Mach) (c : Nat) (k : Core) : (m.setCore c k).portRegs = m.portRegs := rfl
@[simp] theorem Mach.setCore_usec (m : Mach) (c : Nat) (k : Core) : (m.setCore c k).usec = m.usec := rfl
@[simp] theorem Mach.setCore_portLast (m : Mach) (c : Nat) (k : Core) : (m.setCore c k).portLast = m.portLast := rfl
@[simp] theorem Mach.setCore_portReqs (m : Mach) (c : Nat) (k : Core) : (m.setCore c k).portReqs = m.portReqs := rfl
@[simp] theorem Mach.setCore_asked (m : Mach) (c : Nat) (k : Core) : (m.setCore c k).asked = m.asked := rfl
@[simp] theorem Mach.setCore_tlb (m : Mach) (c : Nat) (k : Core) : (m.setCore c k).tlb = m.tlb := rfl
@[simp] theorem Mach.setCore_tenants (m : Mach) (c : Nat) (k : Core) : (m.setCore c k).tenants = m.tenants := rfl
@[simp] theorem Mach.setCore_quotas (m : Mach) (c : Nat) (k : Core) : (m.setCore c k).quotas = m.quotas := rfl
@[simp] theorem Mach.setCore_l2next (m : Mach) (c : Nat) (k : Core) : (m.setCore c k).l2next = m.l2next := rfl
@[simp] theorem Mach.setCore_bindings (m : Mach) (c : Nat) (k : Core) : (m.setCore c k).bindings = m.bindings := rfl
@[simp] theorem Mach.setCore_rlcs (m : Mach) (c : Nat) (k : Core) : (m.setCore c k).rlcs = m.rlcs := rfl
@[simp] theorem Mach.setCore_launches (m : Mach) (c : Nat) (k : Core) : (m.setCore c k).launches = m.launches := rfl
@[simp] theorem Mach.setCore_graphs (m : Mach) (c : Nat) (k : Core) : (m.setCore c k).graphs = m.graphs := rfl
@[simp] theorem Mach.setCore_fe (m : Mach) (c : Nat) (k : Core) : (m.setCore c k).fe = m.fe := rfl
@[simp] theorem Mach.setCore_saved (m : Mach) (c : Nat) (k : Core) : (m.setCore c k).saved = m.saved := rfl
@[simp] theorem Mach.setCore_saves (m : Mach) (c : Nat) (k : Core) : (m.setCore c k).saves = m.saves := rfl
@[simp] theorem Mach.setCore_tripped (m : Mach) (c : Nat) (k : Core) : (m.setCore c k).tripped = m.tripped := rfl
@[simp] theorem Mach.setCore_colls (m : Mach) (c : Nat) (k : Core) : (m.setCore c k).colls = m.colls := rfl
@[simp] theorem Mach.setCore_contribs (m : Mach) (c : Nat) (k : Core) : (m.setCore c k).contribs = m.contribs := rfl
@[simp] theorem Mach.setCore_rounds (m : Mach) (c : Nat) (k : Core) : (m.setCore c k).rounds = m.rounds := rfl
@[simp] theorem Mach.setCore_msix (m : Mach) (c : Nat) (k : Core) : (m.setCore c k).msix = m.msix := rfl
@[simp] theorem Mach.setCore_reports (m : Mach) (c : Nat) (k : Core) : (m.setCore c k).reports = m.reports := rfl
@[simp] theorem Mach.setCore_hostData (m : Mach) (c : Nat) (k : Core) : (m.setCore c k).hostData = m.hostData := rfl
@[simp] theorem Mach.setCore_nextId (m : Mach) (c : Nat) (k : Core) : (m.setCore c k).nextId = m.nextId := rfl
@[simp] theorem Mach.setCore_agenda (m : Mach) (c : Nat) (k : Core) : (m.setCore c k).agenda = m.agenda := rfl
@[simp] theorem Mach.setCore_tick (m : Mach) (c : Nat) (k : Core) : (m.setCore c k).tick = m.tick := rfl
@[simp] theorem Mach.setCore_focusCore (m : Mach) (c : Nat) (k : Core) : (m.setCore c k).focusCore = m.focusCore := rfl
@[simp] theorem Mach.setCore_focusCtx (m : Mach) (c : Nat) (k : Core) : (m.setCore c k).focusCtx = m.focusCtx := rfl
/-! `Mach.upd` -/
@[simp] theorem Mach.upd_minor (m : Mach) (c : Nat) (f : Core → Core) : (m.upd c f).minor = m.minor := rfl
@[simp] theorem Mach.upd_stepping (m : Mach) (c : Nat) (f : Core → Core) : (m.upd c f).stepping = m.stepping := rfl
@[simp] theorem Mach.upd_cores (m : Mach) (c : Nat) (f : Core → Core) : (m.upd c f).cores = Tab.set Core.zero m.cores c (f (m.core c)) := rfl
@[simp] theorem Mach.upd_dieRegs (m : Mach) (c : Nat) (f : Core → Core) : (m.upd c f).dieRegs = m.dieRegs := rfl
@[simp] theorem Mach.upd_deviceNo (m : Mach) (c : Nat) (f : Core → Core) : (m.upd c f).deviceNo = m.deviceNo := rfl
@[simp] theorem Mach.upd_slots (m : Mach) (c : Nat) (f : Core → Core) : (m.upd c f).slots = m.slots := rfl
@[simp] theorem Mach.upd_portRegs (m : Mach) (c : Nat) (f : Core → Core) : (m.upd c f).portRegs = m.portRegs := rfl
@[simp] theorem Mach.upd_usec (m : Mach) (c : Nat) (f : Core → Core) : (m.upd c f).usec = m.usec := rfl
@[simp] theorem Mach.upd_portLast (m : Mach) (c : Nat) (f : Core → Core) : (m.upd c f).portLast = m.portLast := rfl
@[simp] theorem Mach.upd_portReqs (m : Mach) (c : Nat) (f : Core → Core) : (m.upd c f).portReqs = m.portReqs := rfl
@[simp] theorem Mach.upd_asked (m : Mach) (c : Nat) (f : Core → Core) : (m.upd c f).asked = m.asked := rfl
@[simp] theorem Mach.upd_tlb (m : Mach) (c : Nat) (f : Core → Core) : (m.upd c f).tlb = m.tlb := rfl
@[simp] theorem Mach.upd_tenants (m : Mach) (c : Nat) (f : Core → Core) : (m.upd c f).tenants = m.tenants := rfl
@[simp] theorem Mach.upd_quotas (m : Mach) (c : Nat) (f : Core → Core) : (m.upd c f).quotas = m.quotas := rfl
@[simp] theorem Mach.upd_l2next (m : Mach) (c : Nat) (f : Core → Core) : (m.upd c f).l2next = m.l2next := rfl
@[simp] theorem Mach.upd_bindings (m : Mach) (c : Nat) (f : Core → Core) : (m.upd c f).bindings = m.bindings := rfl
@[simp] theorem Mach.upd_rlcs (m : Mach) (c : Nat) (f : Core → Core) : (m.upd c f).rlcs = m.rlcs := rfl
@[simp] theorem Mach.upd_launches (m : Mach) (c : Nat) (f : Core → Core) : (m.upd c f).launches = m.launches := rfl
@[simp] theorem Mach.upd_graphs (m : Mach) (c : Nat) (f : Core → Core) : (m.upd c f).graphs = m.graphs := rfl
@[simp] theorem Mach.upd_fe (m : Mach) (c : Nat) (f : Core → Core) : (m.upd c f).fe = m.fe := rfl
@[simp] theorem Mach.upd_saved (m : Mach) (c : Nat) (f : Core → Core) : (m.upd c f).saved = m.saved := rfl
@[simp] theorem Mach.upd_saves (m : Mach) (c : Nat) (f : Core → Core) : (m.upd c f).saves = m.saves := rfl
@[simp] theorem Mach.upd_tripped (m : Mach) (c : Nat) (f : Core → Core) : (m.upd c f).tripped = m.tripped := rfl
@[simp] theorem Mach.upd_colls (m : Mach) (c : Nat) (f : Core → Core) : (m.upd c f).colls = m.colls := rfl
@[simp] theorem Mach.upd_contribs (m : Mach) (c : Nat) (f : Core → Core) : (m.upd c f).contribs = m.contribs := rfl
@[simp] theorem Mach.upd_rounds (m : Mach) (c : Nat) (f : Core → Core) : (m.upd c f).rounds = m.rounds := rfl
@[simp] theorem Mach.upd_msix (m : Mach) (c : Nat) (f : Core → Core) : (m.upd c f).msix = m.msix := rfl
@[simp] theorem Mach.upd_reports (m : Mach) (c : Nat) (f : Core → Core) : (m.upd c f).reports = m.reports := rfl
@[simp] theorem Mach.upd_hostData (m : Mach) (c : Nat) (f : Core → Core) : (m.upd c f).hostData = m.hostData := rfl
@[simp] theorem Mach.upd_nextId (m : Mach) (c : Nat) (f : Core → Core) : (m.upd c f).nextId = m.nextId := rfl
@[simp] theorem Mach.upd_agenda (m : Mach) (c : Nat) (f : Core → Core) : (m.upd c f).agenda = m.agenda := rfl
@[simp] theorem Mach.upd_tick (m : Mach) (c : Nat) (f : Core → Core) : (m.upd c f).tick = m.tick := rfl
@[simp] theorem Mach.upd_focusCore (m : Mach) (c : Nat) (f : Core → Core) : (m.upd c f).focusCore = m.focusCore := rfl
@[simp] theorem Mach.upd_focusCtx (m : Mach) (c : Nat) (f : Core → Core) : (m.upd c f).focusCtx = m.focusCtx := rfl
/-! `Mach.ticked` -/
@[simp] theorem Mach.ticked_minor (m : Mach) : m.ticked.minor = m.minor := rfl
@[simp] theorem Mach.ticked_stepping (m : Mach) : m.ticked.stepping = m.stepping := rfl
@[simp] theorem Mach.ticked_cores (m : Mach) : m.ticked.cores = m.cores := rfl
@[simp] theorem Mach.ticked_dieRegs (m : Mach) : m.ticked.dieRegs = m.dieRegs := rfl
@[simp] theorem Mach.ticked_deviceNo (m : Mach) : m.ticked.deviceNo = m.deviceNo := rfl
@[simp] theorem Mach.ticked_slots (m : Mach) : m.ticked.slots = m.slots := rfl
@[simp] theorem Mach.ticked_portRegs (m : Mach) : m.ticked.portRegs = m.portRegs := rfl
@[simp] theorem Mach.ticked_usec (m : Mach) : m.ticked.usec = m.usec := rfl
@[simp] theorem Mach.ticked_portLast (m : Mach) : m.ticked.portLast = m.portLast := rfl
@[simp] theorem Mach.ticked_portReqs (m : Mach) : m.ticked.portReqs = m.portReqs := rfl
@[simp] theorem Mach.ticked_asked (m : Mach) : m.ticked.asked = m.asked := rfl
@[simp] theorem Mach.ticked_tlb (m : Mach) : m.ticked.tlb = m.tlb := rfl
@[simp] theorem Mach.ticked_tenants (m : Mach) : m.ticked.tenants = m.tenants := rfl
@[simp] theorem Mach.ticked_quotas (m : Mach) : m.ticked.quotas = m.quotas := rfl
@[simp] theorem Mach.ticked_l2next (m : Mach) : m.ticked.l2next = m.l2next := rfl
@[simp] theorem Mach.ticked_bindings (m : Mach) : m.ticked.bindings = m.bindings := rfl
@[simp] theorem Mach.ticked_rlcs (m : Mach) : m.ticked.rlcs = m.rlcs := rfl
@[simp] theorem Mach.ticked_launches (m : Mach) : m.ticked.launches = m.launches := rfl
@[simp] theorem Mach.ticked_graphs (m : Mach) : m.ticked.graphs = m.graphs := rfl
@[simp] theorem Mach.ticked_fe (m : Mach) : m.ticked.fe = m.fe := rfl
@[simp] theorem Mach.ticked_saved (m : Mach) : m.ticked.saved = m.saved := rfl
@[simp] theorem Mach.ticked_saves (m : Mach) : m.ticked.saves = m.saves := rfl
@[simp] theorem Mach.ticked_tripped (m : Mach) : m.ticked.tripped = m.tripped := rfl
@[simp] theorem Mach.ticked_colls (m : Mach) : m.ticked.colls = m.colls := rfl
@[simp] theorem Mach.ticked_contribs (m : Mach) : m.ticked.contribs = m.contribs := rfl
@[simp] theorem Mach.ticked_rounds (m : Mach) : m.ticked.rounds = m.rounds := rfl
@[simp] theorem Mach.ticked_msix (m : Mach) : m.ticked.msix = m.msix := rfl
@[simp] theorem Mach.ticked_reports (m : Mach) : m.ticked.reports = m.reports := rfl
@[simp] theorem Mach.ticked_hostData (m : Mach) : m.ticked.hostData = m.hostData := rfl
@[simp] theorem Mach.ticked_nextId (m : Mach) : m.ticked.nextId = m.nextId := rfl
@[simp] theorem Mach.ticked_agenda (m : Mach) : m.ticked.agenda = m.agenda := rfl
@[simp] theorem Mach.ticked_tick (m : Mach) : m.ticked.tick = m.tick + 1 := rfl
@[simp] theorem Mach.ticked_focusCore (m : Mach) : m.ticked.focusCore = m.focusCore := rfl
@[simp] theorem Mach.ticked_focusCtx (m : Mach) : m.ticked.focusCtx = m.focusCtx := rfl
/-! `Mach.setDieReg` -/
@[simp] theorem Mach.setDieReg_minor (m : Mach) (d o : Nat) (v : W64) : (m.setDieReg d o v).minor = m.minor := rfl
@[simp] theorem Mach.setDieReg_stepping (m : Mach) (d o : Nat) (v : W64) : (m.setDieReg d o v).stepping = m.stepping := rfl
@[simp] theorem Mach.setDieReg_cores (m : Mach) (d o : Nat) (v : W64) : (m.setDieReg d o v).cores = m.cores := rfl
@[simp] theorem Mach.setDieReg_dieRegs (m : Mach) (d o : Nat) (v : W64) : (m.setDieReg d o v).dieRegs = Tab.set 0 m.dieRegs (d * 0x1000 + o) v := rfl
@[simp] theorem Mach.setDieReg_deviceNo (m : Mach) (d o : Nat) (v : W64) : (m.setDieReg d o v).deviceNo = m.deviceNo := rfl
@[simp] theorem Mach.setDieReg_slots (m : Mach) (d o : Nat) (v : W64) : (m.setDieReg d o v).slots = m.slots := rfl
@[simp] theorem Mach.setDieReg_portRegs (m : Mach) (d o : Nat) (v : W64) : (m.setDieReg d o v).portRegs = m.portRegs := rfl
@[simp] theorem Mach.setDieReg_usec (m : Mach) (d o : Nat) (v : W64) : (m.setDieReg d o v).usec = m.usec := rfl
@[simp] theorem Mach.setDieReg_portLast (m : Mach) (d o : Nat) (v : W64) : (m.setDieReg d o v).portLast = m.portLast := rfl
@[simp] theorem Mach.setDieReg_portReqs (m : Mach) (d o : Nat) (v : W64) : (m.setDieReg d o v).portReqs = m.portReqs := rfl
@[simp] theorem Mach.setDieReg_asked (m : Mach) (d o : Nat) (v : W64) : (m.setDieReg d o v).asked = m.asked := rfl
@[simp] theorem Mach.setDieReg_tlb (m : Mach) (d o : Nat) (v : W64) : (m.setDieReg d o v).tlb = m.tlb := rfl
@[simp] theorem Mach.setDieReg_tenants (m : Mach) (d o : Nat) (v : W64) : (m.setDieReg d o v).tenants = m.tenants := rfl
@[simp] theorem Mach.setDieReg_quotas (m : Mach) (d o : Nat) (v : W64) : (m.setDieReg d o v).quotas = m.quotas := rfl
@[simp] theorem Mach.setDieReg_l2next (m : Mach) (d o : Nat) (v : W64) : (m.setDieReg d o v).l2next = m.l2next := rfl
@[simp] theorem Mach.setDieReg_bindings (m : Mach) (d o : Nat) (v : W64) : (m.setDieReg d o v).bindings = m.bindings := rfl
@[simp] theorem Mach.setDieReg_rlcs (m : Mach) (d o : Nat) (v : W64) : (m.setDieReg d o v).rlcs = m.rlcs := rfl
@[simp] theorem Mach.setDieReg_launches (m : Mach) (d o : Nat) (v : W64) : (m.setDieReg d o v).launches = m.launches := rfl
@[simp] theorem Mach.setDieReg_graphs (m : Mach) (d o : Nat) (v : W64) : (m.setDieReg d o v).graphs = m.graphs := rfl
@[simp] theorem Mach.setDieReg_fe (m : Mach) (d o : Nat) (v : W64) : (m.setDieReg d o v).fe = m.fe := rfl
@[simp] theorem Mach.setDieReg_saved (m : Mach) (d o : Nat) (v : W64) : (m.setDieReg d o v).saved = m.saved := rfl
@[simp] theorem Mach.setDieReg_saves (m : Mach) (d o : Nat) (v : W64) : (m.setDieReg d o v).saves = m.saves := rfl
@[simp] theorem Mach.setDieReg_tripped (m : Mach) (d o : Nat) (v : W64) : (m.setDieReg d o v).tripped = m.tripped := rfl
@[simp] theorem Mach.setDieReg_colls (m : Mach) (d o : Nat) (v : W64) : (m.setDieReg d o v).colls = m.colls := rfl
@[simp] theorem Mach.setDieReg_contribs (m : Mach) (d o : Nat) (v : W64) : (m.setDieReg d o v).contribs = m.contribs := rfl
@[simp] theorem Mach.setDieReg_rounds (m : Mach) (d o : Nat) (v : W64) : (m.setDieReg d o v).rounds = m.rounds := rfl
@[simp] theorem Mach.setDieReg_msix (m : Mach) (d o : Nat) (v : W64) : (m.setDieReg d o v).msix = m.msix := rfl
@[simp] theorem Mach.setDieReg_reports (m : Mach) (d o : Nat) (v : W64) : (m.setDieReg d o v).reports = m.reports := rfl
@[simp] theorem Mach.setDieReg_hostData (m : Mach) (d o : Nat) (v : W64) : (m.setDieReg d o v).hostData = m.hostData := rfl
@[simp] theorem Mach.setDieReg_nextId (m : Mach) (d o : Nat) (v : W64) : (m.setDieReg d o v).nextId = m.nextId := rfl
@[simp] theorem Mach.setDieReg_agenda (m : Mach) (d o : Nat) (v : W64) : (m.setDieReg d o v).agenda = m.agenda := rfl
@[simp] theorem Mach.setDieReg_tick (m : Mach) (d o : Nat) (v : W64) : (m.setDieReg d o v).tick = m.tick := rfl
@[simp] theorem Mach.setDieReg_focusCore (m : Mach) (d o : Nat) (v : W64) : (m.setDieReg d o v).focusCore = m.focusCore := rfl
@[simp] theorem Mach.setDieReg_focusCtx (m : Mach) (d o : Nat) (v : W64) : (m.setDieReg d o v).focusCtx = m.focusCtx := rfl
/-! `Mach.setPortReg` -/
@[simp] theorem Mach.setPortReg_minor (m : Mach) (p o : Nat) (v : W64) : (m.setPortReg p o v).minor = m.minor := rfl
@[simp] theorem Mach.setPortReg_stepping (m : Mach) (p o : Nat) (v : W64) : (m.setPortReg p o v).stepping = m.stepping := rfl
@[simp] theorem Mach.setPortReg_cores (m : Mach) (p o : Nat) (v : W64) : (m.setPortReg p o v).cores = m.cores := rfl
@[simp] theorem Mach.setPortReg_dieRegs (m : Mach) (p o : Nat) (v : W64) : (m.setPortReg p o v).dieRegs = m.dieRegs := rfl
@[simp] theorem Mach.setPortReg_deviceNo (m : Mach) (p o : Nat) (v : W64) : (m.setPortReg p o v).deviceNo = m.deviceNo := rfl
@[simp] theorem Mach.setPortReg_slots (m : Mach) (p o : Nat) (v : W64) : (m.setPortReg p o v).slots = m.slots := rfl
@[simp] theorem Mach.setPortReg_portRegs (m : Mach) (p o : Nat) (v : W64) : (m.setPortReg p o v).portRegs = Tab.set 0 m.portRegs (p * 0x1000 + o) v := rfl
@[simp] theorem Mach.setPortReg_usec (m : Mach) (p o : Nat) (v : W64) : (m.setPortReg p o v).usec = m.usec := rfl
@[simp] theorem Mach.setPortReg_portLast (m : Mach) (p o : Nat) (v : W64) : (m.setPortReg p o v).portLast = m.portLast := rfl
@[simp] theorem Mach.setPortReg_portReqs (m : Mach) (p o : Nat) (v : W64) : (m.setPortReg p o v).portReqs = m.portReqs := rfl
@[simp] theorem Mach.setPortReg_asked (m : Mach) (p o : Nat) (v : W64) : (m.setPortReg p o v).asked = m.asked := rfl
@[simp] theorem Mach.setPortReg_tlb (m : Mach) (p o : Nat) (v : W64) : (m.setPortReg p o v).tlb = m.tlb := rfl
@[simp] theorem Mach.setPortReg_tenants (m : Mach) (p o : Nat) (v : W64) : (m.setPortReg p o v).tenants = m.tenants := rfl
@[simp] theorem Mach.setPortReg_quotas (m : Mach) (p o : Nat) (v : W64) : (m.setPortReg p o v).quotas = m.quotas := rfl
@[simp] theorem Mach.setPortReg_l2next (m : Mach) (p o : Nat) (v : W64) : (m.setPortReg p o v).l2next = m.l2next := rfl
@[simp] theorem Mach.setPortReg_bindings (m : Mach) (p o : Nat) (v : W64) : (m.setPortReg p o v).bindings = m.bindings := rfl
@[simp] theorem Mach.setPortReg_rlcs (m : Mach) (p o : Nat) (v : W64) : (m.setPortReg p o v).rlcs = m.rlcs := rfl
@[simp] theorem Mach.setPortReg_launches (m : Mach) (p o : Nat) (v : W64) : (m.setPortReg p o v).launches = m.launches := rfl
@[simp] theorem Mach.setPortReg_graphs (m : Mach) (p o : Nat) (v : W64) : (m.setPortReg p o v).graphs = m.graphs := rfl
@[simp] theorem Mach.setPortReg_fe (m : Mach) (p o : Nat) (v : W64) : (m.setPortReg p o v).fe = m.fe := rfl
@[simp] theorem Mach.setPortReg_saved (m : Mach) (p o : Nat) (v : W64) : (m.setPortReg p o v).saved = m.saved := rfl
@[simp] theorem Mach.setPortReg_saves (m : Mach) (p o : Nat) (v : W64) : (m.setPortReg p o v).saves = m.saves := rfl
@[simp] theorem Mach.setPortReg_tripped (m : Mach) (p o : Nat) (v : W64) : (m.setPortReg p o v).tripped = m.tripped := rfl
@[simp] theorem Mach.setPortReg_colls (m : Mach) (p o : Nat) (v : W64) : (m.setPortReg p o v).colls = m.colls := rfl
@[simp] theorem Mach.setPortReg_contribs (m : Mach) (p o : Nat) (v : W64) : (m.setPortReg p o v).contribs = m.contribs := rfl
@[simp] theorem Mach.setPortReg_rounds (m : Mach) (p o : Nat) (v : W64) : (m.setPortReg p o v).rounds = m.rounds := rfl
@[simp] theorem Mach.setPortReg_msix (m : Mach) (p o : Nat) (v : W64) : (m.setPortReg p o v).msix = m.msix := rfl
@[simp] theorem Mach.setPortReg_reports (m : Mach) (p o : Nat) (v : W64) : (m.setPortReg p o v).reports = m.reports := rfl
@[simp] theorem Mach.setPortReg_hostData (m : Mach) (p o : Nat) (v : W64) : (m.setPortReg p o v).hostData = m.hostData := rfl
@[simp] theorem Mach.setPortReg_nextId (m : Mach) (p o : Nat) (v : W64) : (m.setPortReg p o v).nextId = m.nextId := rfl
@[simp] theorem Mach.setPortReg_agenda (m : Mach) (p o : Nat) (v : W64) : (m.setPortReg p o v).agenda = m.agenda := rfl
@[simp] theorem Mach.setPortReg_tick (m : Mach) (p o : Nat) (v : W64) : (m.setPortReg p o v).tick = m.tick := rfl
@[simp] theorem Mach.setPortReg_focusCore (m : Mach) (p o : Nat) (v : W64) : (m.setPortReg p o v).focusCore = m.focusCore := rfl
@[simp] theorem Mach.setPortReg_focusCtx (m : Mach) (p o : Nat) (v : W64) : (m.setPortReg p o v).focusCtx = m.focusCtx := rfl
/-! `Mach.setFeq` -/
@[simp] theorem Mach.setFeq_minor (m : Mach) (h : BitVec 1) (q : BitVec 6) (f : FeQueue) : (m.setFeq h q f).minor = m.minor := rfl
@[simp] theorem Mach.setFeq_stepping (m : Mach) (h : BitVec 1) (q : BitVec 6) (f : FeQueue) : (m.setFeq h q f).stepping = m.stepping := rfl
@[simp] theorem Mach.setFeq_cores (m : Mach) (h : BitVec 1) (q : BitVec 6) (f : FeQueue) : (m.setFeq h q f).cores = m.cores := rfl
@[simp] theorem Mach.setFeq_dieRegs (m : Mach) (h : BitVec 1) (q : BitVec 6) (f : FeQueue) : (m.setFeq h q f).dieRegs = m.dieRegs := rfl
@[simp] theorem Mach.setFeq_deviceNo (m : Mach) (h : BitVec 1) (q : BitVec 6) (f : FeQueue) : (m.setFeq h q f).deviceNo = m.deviceNo := rfl
@[simp] theorem Mach.setFeq_slots (m : Mach) (h : BitVec 1) (q : BitVec 6) (f : FeQueue) : (m.setFeq h q f).slots = m.slots := rfl
@[simp] theorem Mach.setFeq_portRegs (m : Mach) (h : BitVec 1) (q : BitVec 6) (f : FeQueue) : (m.setFeq h q f).portRegs = m.portRegs := rfl
@[simp] theorem Mach.setFeq_usec (m : Mach) (h : BitVec 1) (q : BitVec 6) (f : FeQueue) : (m.setFeq h q f).usec = m.usec := rfl
@[simp] theorem Mach.setFeq_portLast (m : Mach) (h : BitVec 1) (q : BitVec 6) (f : FeQueue) : (m.setFeq h q f).portLast = m.portLast := rfl
@[simp] theorem Mach.setFeq_portReqs (m : Mach) (h : BitVec 1) (q : BitVec 6) (f : FeQueue) : (m.setFeq h q f).portReqs = m.portReqs := rfl
@[simp] theorem Mach.setFeq_asked (m : Mach) (h : BitVec 1) (q : BitVec 6) (f : FeQueue) : (m.setFeq h q f).asked = m.asked := rfl
@[simp] theorem Mach.setFeq_tlb (m : Mach) (h : BitVec 1) (q : BitVec 6) (f : FeQueue) : (m.setFeq h q f).tlb = m.tlb := rfl
@[simp] theorem Mach.setFeq_tenants (m : Mach) (h : BitVec 1) (q : BitVec 6) (f : FeQueue) : (m.setFeq h q f).tenants = m.tenants := rfl
@[simp] theorem Mach.setFeq_quotas (m : Mach) (h : BitVec 1) (q : BitVec 6) (f : FeQueue) : (m.setFeq h q f).quotas = m.quotas := rfl
@[simp] theorem Mach.setFeq_l2next (m : Mach) (h : BitVec 1) (q : BitVec 6) (f : FeQueue) : (m.setFeq h q f).l2next = m.l2next := rfl
@[simp] theorem Mach.setFeq_bindings (m : Mach) (h : BitVec 1) (q : BitVec 6) (f : FeQueue) : (m.setFeq h q f).bindings = m.bindings := rfl
@[simp] theorem Mach.setFeq_rlcs (m : Mach) (h : BitVec 1) (q : BitVec 6) (f : FeQueue) : (m.setFeq h q f).rlcs = m.rlcs := rfl
@[simp] theorem Mach.setFeq_launches (m : Mach) (h : BitVec 1) (q : BitVec 6) (f : FeQueue) : (m.setFeq h q f).launches = m.launches := rfl
@[simp] theorem Mach.setFeq_graphs (m : Mach) (h : BitVec 1) (q : BitVec 6) (f : FeQueue) : (m.setFeq h q f).graphs = m.graphs := rfl
@[simp] theorem Mach.setFeq_fe (m : Mach) (h : BitVec 1) (q : BitVec 6) (f : FeQueue) : (m.setFeq h q f).fe = Tab.set FeQueue.zero m.fe (feKey h q) f := rfl
@[simp] theorem Mach.setFeq_saved (m : Mach) (h : BitVec 1) (q : BitVec 6) (f : FeQueue) : (m.setFeq h q f).saved = m.saved := rfl
@[simp] theorem Mach.setFeq_saves (m : Mach) (h : BitVec 1) (q : BitVec 6) (f : FeQueue) : (m.setFeq h q f).saves = m.saves := rfl
@[simp] theorem Mach.setFeq_tripped (m : Mach) (h : BitVec 1) (q : BitVec 6) (f : FeQueue) : (m.setFeq h q f).tripped = m.tripped := rfl
@[simp] theorem Mach.setFeq_colls (m : Mach) (h : BitVec 1) (q : BitVec 6) (f : FeQueue) : (m.setFeq h q f).colls = m.colls := rfl
@[simp] theorem Mach.setFeq_contribs (m : Mach) (h : BitVec 1) (q : BitVec 6) (f : FeQueue) : (m.setFeq h q f).contribs = m.contribs := rfl
@[simp] theorem Mach.setFeq_rounds (m : Mach) (h : BitVec 1) (q : BitVec 6) (f : FeQueue) : (m.setFeq h q f).rounds = m.rounds := rfl
@[simp] theorem Mach.setFeq_msix (m : Mach) (h : BitVec 1) (q : BitVec 6) (f : FeQueue) : (m.setFeq h q f).msix = m.msix := rfl
@[simp] theorem Mach.setFeq_reports (m : Mach) (h : BitVec 1) (q : BitVec 6) (f : FeQueue) : (m.setFeq h q f).reports = m.reports := rfl
@[simp] theorem Mach.setFeq_hostData (m : Mach) (h : BitVec 1) (q : BitVec 6) (f : FeQueue) : (m.setFeq h q f).hostData = m.hostData := rfl
@[simp] theorem Mach.setFeq_nextId (m : Mach) (h : BitVec 1) (q : BitVec 6) (f : FeQueue) : (m.setFeq h q f).nextId = m.nextId := rfl
@[simp] theorem Mach.setFeq_agenda (m : Mach) (h : BitVec 1) (q : BitVec 6) (f : FeQueue) : (m.setFeq h q f).agenda = m.agenda := rfl
@[simp] theorem Mach.setFeq_tick (m : Mach) (h : BitVec 1) (q : BitVec 6) (f : FeQueue) : (m.setFeq h q f).tick = m.tick := rfl
@[simp] theorem Mach.setFeq_focusCore (m : Mach) (h : BitVec 1) (q : BitVec 6) (f : FeQueue) : (m.setFeq h q f).focusCore = m.focusCore := rfl
@[simp] theorem Mach.setFeq_focusCtx (m : Mach) (h : BitVec 1) (q : BitVec 6) (f : FeQueue) : (m.setFeq h q f).focusCtx = m.focusCtx := rfl
/-! `Mach.setRlc` -/
@[simp] theorem Mach.setRlc_minor (m : Mach) (c : Nat) (r : Rlc) : (m.setRlc c r).minor = m.minor := rfl
@[simp] theorem Mach.setRlc_stepping (m : Mach) (c : Nat) (r : Rlc) : (m.setRlc c r).stepping = m.stepping := rfl
@[simp] theorem Mach.setRlc_cores (m : Mach) (c : Nat) (r : Rlc) : (m.setRlc c r).cores = m.cores := rfl
@[simp] theorem Mach.setRlc_dieRegs (m : Mach) (c : Nat) (r : Rlc) : (m.setRlc c r).dieRegs = m.dieRegs := rfl
@[simp] theorem Mach.setRlc_deviceNo (m : Mach) (c : Nat) (r : Rlc) : (m.setRlc c r).deviceNo = m.deviceNo := rfl
@[simp] theorem Mach.setRlc_slots (m : Mach) (c : Nat) (r : Rlc) : (m.setRlc c r).slots = m.slots := rfl
@[simp] theorem Mach.setRlc_portRegs (m : Mach) (c : Nat) (r : Rlc) : (m.setRlc c r).portRegs = m.portRegs := rfl
@[simp] theorem Mach.setRlc_usec (m : Mach) (c : Nat) (r : Rlc) : (m.setRlc c r).usec = m.usec := rfl
@[simp] theorem Mach.setRlc_portLast (m : Mach) (c : Nat) (r : Rlc) : (m.setRlc c r).portLast = m.portLast := rfl
@[simp] theorem Mach.setRlc_portReqs (m : Mach) (c : Nat) (r : Rlc) : (m.setRlc c r).portReqs = m.portReqs := rfl
@[simp] theorem Mach.setRlc_asked (m : Mach) (c : Nat) (r : Rlc) : (m.setRlc c r).asked = m.asked := rfl
@[simp] theorem Mach.setRlc_tlb (m : Mach) (c : Nat) (r : Rlc) : (m.setRlc c r).tlb = m.tlb := rfl
@[simp] theorem Mach.setRlc_tenants (m : Mach) (c : Nat) (r : Rlc) : (m.setRlc c r).tenants = m.tenants := rfl
@[simp] theorem Mach.setRlc_quotas (m : Mach) (c : Nat) (r : Rlc) : (m.setRlc c r).quotas = m.quotas := rfl
@[simp] theorem Mach.setRlc_l2next (m : Mach) (c : Nat) (r : Rlc) : (m.setRlc c r).l2next = m.l2next := rfl
@[simp] theorem Mach.setRlc_bindings (m : Mach) (c : Nat) (r : Rlc) : (m.setRlc c r).bindings = m.bindings := rfl
@[simp] theorem Mach.setRlc_rlcs (m : Mach) (c : Nat) (r : Rlc) : (m.setRlc c r).rlcs = Tab.set Rlc.zero m.rlcs c r := rfl
@[simp] theorem Mach.setRlc_launches (m : Mach) (c : Nat) (r : Rlc) : (m.setRlc c r).launches = m.launches := rfl
@[simp] theorem Mach.setRlc_graphs (m : Mach) (c : Nat) (r : Rlc) : (m.setRlc c r).graphs = m.graphs := rfl
@[simp] theorem Mach.setRlc_fe (m : Mach) (c : Nat) (r : Rlc) : (m.setRlc c r).fe = m.fe := rfl
@[simp] theorem Mach.setRlc_saved (m : Mach) (c : Nat) (r : Rlc) : (m.setRlc c r).saved = m.saved := rfl
@[simp] theorem Mach.setRlc_saves (m : Mach) (c : Nat) (r : Rlc) : (m.setRlc c r).saves = m.saves := rfl
@[simp] theorem Mach.setRlc_tripped (m : Mach) (c : Nat) (r : Rlc) : (m.setRlc c r).tripped = m.tripped := rfl
@[simp] theorem Mach.setRlc_colls (m : Mach) (c : Nat) (r : Rlc) : (m.setRlc c r).colls = m.colls := rfl
@[simp] theorem Mach.setRlc_contribs (m : Mach) (c : Nat) (r : Rlc) : (m.setRlc c r).contribs = m.contribs := rfl
@[simp] theorem Mach.setRlc_rounds (m : Mach) (c : Nat) (r : Rlc) : (m.setRlc c r).rounds = m.rounds := rfl
@[simp] theorem Mach.setRlc_msix (m : Mach) (c : Nat) (r : Rlc) : (m.setRlc c r).msix = m.msix := rfl
@[simp] theorem Mach.setRlc_reports (m : Mach) (c : Nat) (r : Rlc) : (m.setRlc c r).reports = m.reports := rfl
@[simp] theorem Mach.setRlc_hostData (m : Mach) (c : Nat) (r : Rlc) : (m.setRlc c r).hostData = m.hostData := rfl
@[simp] theorem Mach.setRlc_nextId (m : Mach) (c : Nat) (r : Rlc) : (m.setRlc c r).nextId = m.nextId := rfl
@[simp] theorem Mach.setRlc_agenda (m : Mach) (c : Nat) (r : Rlc) : (m.setRlc c r).agenda = m.agenda := rfl
@[simp] theorem Mach.setRlc_tick (m : Mach) (c : Nat) (r : Rlc) : (m.setRlc c r).tick = m.tick := rfl
@[simp] theorem Mach.setRlc_focusCore (m : Mach) (c : Nat) (r : Rlc) : (m.setRlc c r).focusCore = m.focusCore := rfl
@[simp] theorem Mach.setRlc_focusCtx (m : Mach) (c : Nat) (r : Rlc) : (m.setRlc c r).focusCtx = m.focusCtx := rfl
/-! `Core.setCtx` -/
@[simp] theorem Core.setCtx_owner (k : Core) (x : Nat) (c : Ctx) : (k.setCtx x c).owner = k.owner := rfl
@[simp] theorem Core.setCtx_lastUser (k : Core) (x : Nat) (c : Ctx) : (k.setCtx x c).lastUser = k.lastUser := rfl
@[simp] theorem Core.setCtx_launch (k : Core) (x : Nat) (c : Ctx) : (k.setCtx x c).launch = k.launch := rfl
@[simp] theorem Core.setCtx_lindex (k : Core) (x : Nat) (c : Ctx) : (k.setCtx x c).lindex = k.lindex := rfl
@[simp] theorem Core.setCtx_ispad (k : Core) (x : Nat) (c : Ctx) : (k.setCtx x c).ispad = k.ispad := rfl
@[simp] theorem Core.setCtx_spad (k : Core) (x : Nat) (c : Ctx) : (k.setCtx x c).spad = k.spad := rfl
@[simp] theorem Core.setCtx_lap (k : Core) (x : Nat) (c : Ctx) : (k.setCtx x c).lap = k.lap := rfl
@[simp] theorem Core.setCtx_csr (k : Core) (x : Nat) (c : Ctx) : (k.setCtx x c).csr = k.csr := rfl
@[simp] theorem Core.setCtx_vpool (k : Core) (x : Nat) (c : Ctx) : (k.setCtx x c).vpool = k.vpool := rfl
@[simp] theorem Core.setCtx_acc (k : Core) (x : Nat) (c : Ctx) : (k.setCtx x c).acc = k.acc := rfl
@[simp] theorem Core.setCtx_part (k : Core) (x : Nat) (c : Ctx) : (k.setCtx x c).part = k.part := rfl
@[simp] theorem Core.setCtx_partAcc (k : Core) (x : Nat) (c : Ctx) : (k.setCtx x c).partAcc = k.partAcc := rfl
@[simp] theorem Core.setCtx_partP (k : Core) (x : Nat) (c : Ctx) : (k.setCtx x c).partP = k.partP := rfl
@[simp] theorem Core.setCtx_partN (k : Core) (x : Nat) (c : Ctx) : (k.setCtx x c).partN = k.partN := rfl
@[simp] theorem Core.setCtx_stages (k : Core) (x : Nat) (c : Ctx) : (k.setCtx x c).stages = k.stages := rfl
@[simp] theorem Core.setCtx_blocks (k : Core) (x : Nat) (c : Ctx) : (k.setCtx x c).blocks = k.blocks := rfl
@[simp] theorem Core.setCtx_wtags (k : Core) (x : Nat) (c : Ctx) : (k.setCtx x c).wtags = k.wtags := rfl
@[simp] theorem Core.setCtx_books (k : Core) (x : Nat) (c : Ctx) : (k.setCtx x c).books = k.books := rfl
@[simp] theorem Core.setCtx_ustore (k : Core) (x : Nat) (c : Ctx) : (k.setCtx x c).ustore = k.ustore := rfl
@[simp] theorem Core.setCtx_rtab (k : Core) (x : Nat) (c : Ctx) : (k.setCtx x c).rtab = k.rtab := rfl
@[simp] theorem Core.setCtx_rq (k : Core) (x : Nat) (c : Ctx) : (k.setCtx x c).rq = k.rq := rfl
@[simp] theorem Core.setCtx_fetches (k : Core) (x : Nat) (c : Ctx) : (k.setCtx x c).fetches = k.fetches := rfl
@[simp] theorem Core.setCtx_cq (k : Core) (x : Nat) (c : Ctx) : (k.setCtx x c).cq = k.cq := rfl
@[simp] theorem Core.setCtx_parked (k : Core) (x : Nat) (c : Ctx) : (k.setCtx x c).parked = k.parked := rfl
@[simp] theorem Core.setCtx_bars (k : Core) (x : Nat) (c : Ctx) : (k.setCtx x c).bars = k.bars := rfl
@[simp] theorem Core.setCtx_vparts (k : Core) (x : Nat) (c : Ctx) : (k.setCtx x c).vparts = k.vparts := rfl
@[simp] theorem Core.setCtx_divider (k : Core) (x : Nat) (c : Ctx) : (k.setCtx x c).divider = k.divider := rfl
@[simp] theorem Core.setCtx_loads (k : Core) (x : Nat) (c : Ctx) : (k.setCtx x c).loads = k.loads := rfl
@[simp] theorem Core.setCtx_atomics (k : Core) (x : Nat) (c : Ctx) : (k.setCtx x c).atomics = k.atomics := rfl
@[simp] theorem Core.setCtx_stores (k : Core) (x : Nat) (c : Ctx) : (k.setCtx x c).stores = k.stores := rfl
@[simp] theorem Core.setCtx_fills (k : Core) (x : Nat) (c : Ctx) : (k.setCtx x c).fills = k.fills := rfl
@[simp] theorem Core.setCtx_arrivals (k : Core) (x : Nat) (c : Ctx) : (k.setCtx x c).arrivals = k.arrivals := rfl
@[simp] theorem Core.setCtx_out (k : Core) (x : Nat) (c : Ctx) : (k.setCtx x c).out = k.out := rfl
@[simp] theorem Core.setCtx_selected (k : Core) (x : Nat) (c : Ctx) : (k.setCtx x c).selected = k.selected := rfl
@[simp] theorem Core.setCtx_fatal (k : Core) (x : Nat) (c : Ctx) : (k.setCtx x c).fatal = k.fatal := rfl
@[simp] theorem Core.setCtx_issue (k : Core) (x : Nat) (c : Ctx) : (k.setCtx x c).issue = k.issue := rfl
@[simp] theorem Core.setCtx_seq (k : Core) (x : Nat) (c : Ctx) : (k.setCtx x c).seq = k.seq := rfl
@[simp] theorem Core.setCtx_rlcSlots (k : Core) (x : Nat) (c : Ctx) : (k.setCtx x c).rlcSlots = k.rlcSlots := rfl
@[simp] theorem Core.setCtx_rlcVec (k : Core) (x : Nat) (c : Ctx) : (k.setCtx x c).rlcVec = k.rlcVec := rfl
@[simp] theorem Core.setCtx_poisoned (k : Core) (x : Nat) (c : Ctx) : (k.setCtx x c).poisoned = k.poisoned := rfl
@[simp] theorem Core.setCtx_away (k : Core) (x : Nat) (c : Ctx) : (k.setCtx x c).away = k.away := rfl
@[simp] theorem Core.setCtx_raced (k : Core) (x : Nat) (c : Ctx) : (k.setCtx x c).raced = k.raced := rfl
@[simp] theorem Core.setCtx_ctxs (k : Core) (x : Nat) (c : Ctx) : (k.setCtx x c).ctxs = Tab.set Ctx.zero k.ctxs x c := rfl
/-! `Core.upd` -/
@[simp] theorem Core.upd_owner (k : Core) (x : Nat) (f : Ctx → Ctx) : (k.upd x f).owner = k.owner := rfl
@[simp] theorem Core.upd_lastUser (k : Core) (x : Nat) (f : Ctx → Ctx) : (k.upd x f).lastUser = k.lastUser := rfl
@[simp] theorem Core.upd_launch (k : Core) (x : Nat) (f : Ctx → Ctx) : (k.upd x f).launch = k.launch := rfl
@[simp] theorem Core.upd_lindex (k : Core) (x : Nat) (f : Ctx → Ctx) : (k.upd x f).lindex = k.lindex := rfl
@[simp] theorem Core.upd_ispad (k : Core) (x : Nat) (f : Ctx → Ctx) : (k.upd x f).ispad = k.ispad := rfl
@[simp] theorem Core.upd_spad (k : Core) (x : Nat) (f : Ctx → Ctx) : (k.upd x f).spad = k.spad := rfl
@[simp] theorem Core.upd_lap (k : Core) (x : Nat) (f : Ctx → Ctx) : (k.upd x f).lap = k.lap := rfl
@[simp] theorem Core.upd_csr (k : Core) (x : Nat) (f : Ctx → Ctx) : (k.upd x f).csr = k.csr := rfl
@[simp] theorem Core.upd_vpool (k : Core) (x : Nat) (f : Ctx → Ctx) : (k.upd x f).vpool = k.vpool := rfl
@[simp] theorem Core.upd_acc (k : Core) (x : Nat) (f : Ctx → Ctx) : (k.upd x f).acc = k.acc := rfl
@[simp] theorem Core.upd_part (k : Core) (x : Nat) (f : Ctx → Ctx) : (k.upd x f).part = k.part := rfl
@[simp] theorem Core.upd_partAcc (k : Core) (x : Nat) (f : Ctx → Ctx) : (k.upd x f).partAcc = k.partAcc := rfl
@[simp] theorem Core.upd_partP (k : Core) (x : Nat) (f : Ctx → Ctx) : (k.upd x f).partP = k.partP := rfl
@[simp] theorem Core.upd_partN (k : Core) (x : Nat) (f : Ctx → Ctx) : (k.upd x f).partN = k.partN := rfl
@[simp] theorem Core.upd_stages (k : Core) (x : Nat) (f : Ctx → Ctx) : (k.upd x f).stages = k.stages := rfl
@[simp] theorem Core.upd_blocks (k : Core) (x : Nat) (f : Ctx → Ctx) : (k.upd x f).blocks = k.blocks := rfl
@[simp] theorem Core.upd_wtags (k : Core) (x : Nat) (f : Ctx → Ctx) : (k.upd x f).wtags = k.wtags := rfl
@[simp] theorem Core.upd_books (k : Core) (x : Nat) (f : Ctx → Ctx) : (k.upd x f).books = k.books := rfl
@[simp] theorem Core.upd_ustore (k : Core) (x : Nat) (f : Ctx → Ctx) : (k.upd x f).ustore = k.ustore := rfl
@[simp] theorem Core.upd_rtab (k : Core) (x : Nat) (f : Ctx → Ctx) : (k.upd x f).rtab = k.rtab := rfl
@[simp] theorem Core.upd_rq (k : Core) (x : Nat) (f : Ctx → Ctx) : (k.upd x f).rq = k.rq := rfl
@[simp] theorem Core.upd_fetches (k : Core) (x : Nat) (f : Ctx → Ctx) : (k.upd x f).fetches = k.fetches := rfl
@[simp] theorem Core.upd_cq (k : Core) (x : Nat) (f : Ctx → Ctx) : (k.upd x f).cq = k.cq := rfl
@[simp] theorem Core.upd_parked (k : Core) (x : Nat) (f : Ctx → Ctx) : (k.upd x f).parked = k.parked := rfl
@[simp] theorem Core.upd_bars (k : Core) (x : Nat) (f : Ctx → Ctx) : (k.upd x f).bars = k.bars := rfl
@[simp] theorem Core.upd_vparts (k : Core) (x : Nat) (f : Ctx → Ctx) : (k.upd x f).vparts = k.vparts := rfl
@[simp] theorem Core.upd_divider (k : Core) (x : Nat) (f : Ctx → Ctx) : (k.upd x f).divider = k.divider := rfl
@[simp] theorem Core.upd_loads (k : Core) (x : Nat) (f : Ctx → Ctx) : (k.upd x f).loads = k.loads := rfl
@[simp] theorem Core.upd_atomics (k : Core) (x : Nat) (f : Ctx → Ctx) : (k.upd x f).atomics = k.atomics := rfl
@[simp] theorem Core.upd_stores (k : Core) (x : Nat) (f : Ctx → Ctx) : (k.upd x f).stores = k.stores := rfl
@[simp] theorem Core.upd_fills (k : Core) (x : Nat) (f : Ctx → Ctx) : (k.upd x f).fills = k.fills := rfl
@[simp] theorem Core.upd_arrivals (k : Core) (x : Nat) (f : Ctx → Ctx) : (k.upd x f).arrivals = k.arrivals := rfl
@[simp] theorem Core.upd_out (k : Core) (x : Nat) (f : Ctx → Ctx) : (k.upd x f).out = k.out := rfl
@[simp] theorem Core.upd_selected (k : Core) (x : Nat) (f : Ctx → Ctx) : (k.upd x f).selected = k.selected := rfl
@[simp] theorem Core.upd_fatal (k : Core) (x : Nat) (f : Ctx → Ctx) : (k.upd x f).fatal = k.fatal := rfl
@[simp] theorem Core.upd_issue (k : Core) (x : Nat) (f : Ctx → Ctx) : (k.upd x f).issue = k.issue := rfl
@[simp] theorem Core.upd_seq (k : Core) (x : Nat) (f : Ctx → Ctx) : (k.upd x f).seq = k.seq := rfl
@[simp] theorem Core.upd_rlcSlots (k : Core) (x : Nat) (f : Ctx → Ctx) : (k.upd x f).rlcSlots = k.rlcSlots := rfl
@[simp] theorem Core.upd_rlcVec (k : Core) (x : Nat) (f : Ctx → Ctx) : (k.upd x f).rlcVec = k.rlcVec := rfl
@[simp] theorem Core.upd_poisoned (k : Core) (x : Nat) (f : Ctx → Ctx) : (k.upd x f).poisoned = k.poisoned := rfl
@[simp] theorem Core.upd_away (k : Core) (x : Nat) (f : Ctx → Ctx) : (k.upd x f).away = k.away := rfl
@[simp] theorem Core.upd_raced (k : Core) (x : Nat) (f : Ctx → Ctx) : (k.upd x f).raced = k.raced := rfl
@[simp] theorem Core.upd_ctxs (k : Core) (x : Nat) (f : Ctx → Ctx) : (k.upd x f).ctxs = Tab.set Ctx.zero k.ctxs x (f (k.ctx x)) := rfl
/-! `Core.wC` -/
@[simp] theorem Core.wC_owner (k : Core) (n : Nat) (v : W64) : (k.wC n v).owner = k.owner := rfl
@[simp] theorem Core.wC_lastUser (k : Core) (n : Nat) (v : W64) : (k.wC n v).lastUser = k.lastUser := rfl
@[simp] theorem Core.wC_launch (k : Core) (n : Nat) (v : W64) : (k.wC n v).launch = k.launch := rfl
@[simp] theorem Core.wC_lindex (k : Core) (n : Nat) (v : W64) : (k.wC n v).lindex = k.lindex := rfl
@[simp] theorem Core.wC_ispad (k : Core) (n : Nat) (v : W64) : (k.wC n v).ispad = k.ispad := rfl
@[simp] theorem Core.wC_spad (k : Core) (n : Nat) (v : W64) : (k.wC n v).spad = k.spad := rfl
@[simp] theorem Core.wC_lap (k : Core) (n : Nat) (v : W64) : (k.wC n v).lap = k.lap := rfl
@[simp] theorem Core.wC_csr (k : Core) (n : Nat) (v : W64) : (k.wC n v).csr = Tab.set 0 k.csr n v := rfl
@[simp] theorem Core.wC_vpool (k : Core) (n : Nat) (v : W64) : (k.wC n v).vpool = k.vpool := rfl
@[simp] theorem Core.wC_acc (k : Core) (n : Nat) (v : W64) : (k.wC n v).acc = k.acc := rfl
@[simp] theorem Core.wC_part (k : Core) (n : Nat) (v : W64) : (k.wC n v).part = k.part := rfl
@[simp] theorem Core.wC_partAcc (k : Core) (n : Nat) (v : W64) : (k.wC n v).partAcc = k.partAcc := rfl
@[simp] theorem Core.wC_partP (k : Core) (n : Nat) (v : W64) : (k.wC n v).partP = k.partP := rfl
@[simp] theorem Core.wC_partN (k : Core) (n : Nat) (v : W64) : (k.wC n v).partN = k.partN := rfl
@[simp] theorem Core.wC_stages (k : Core) (n : Nat) (v : W64) : (k.wC n v).stages = k.stages := rfl
@[simp] theorem Core.wC_blocks (k : Core) (n : Nat) (v : W64) : (k.wC n v).blocks = k.blocks := rfl
@[simp] theorem Core.wC_wtags (k : Core) (n : Nat) (v : W64) : (k.wC n v).wtags = k.wtags := rfl
@[simp] theorem Core.wC_books (k : Core) (n : Nat) (v : W64) : (k.wC n v).books = k.books := rfl
@[simp] theorem Core.wC_ustore (k : Core) (n : Nat) (v : W64) : (k.wC n v).ustore = k.ustore := rfl
@[simp] theorem Core.wC_rtab (k : Core) (n : Nat) (v : W64) : (k.wC n v).rtab = k.rtab := rfl
@[simp] theorem Core.wC_rq (k : Core) (n : Nat) (v : W64) : (k.wC n v).rq = k.rq := rfl
@[simp] theorem Core.wC_fetches (k : Core) (n : Nat) (v : W64) : (k.wC n v).fetches = k.fetches := rfl
@[simp] theorem Core.wC_cq (k : Core) (n : Nat) (v : W64) : (k.wC n v).cq = k.cq := rfl
@[simp] theorem Core.wC_parked (k : Core) (n : Nat) (v : W64) : (k.wC n v).parked = k.parked := rfl
@[simp] theorem Core.wC_bars (k : Core) (n : Nat) (v : W64) : (k.wC n v).bars = k.bars := rfl
@[simp] theorem Core.wC_vparts (k : Core) (n : Nat) (v : W64) : (k.wC n v).vparts = k.vparts := rfl
@[simp] theorem Core.wC_divider (k : Core) (n : Nat) (v : W64) : (k.wC n v).divider = k.divider := rfl
@[simp] theorem Core.wC_loads (k : Core) (n : Nat) (v : W64) : (k.wC n v).loads = k.loads := rfl
@[simp] theorem Core.wC_atomics (k : Core) (n : Nat) (v : W64) : (k.wC n v).atomics = k.atomics := rfl
@[simp] theorem Core.wC_stores (k : Core) (n : Nat) (v : W64) : (k.wC n v).stores = k.stores := rfl
@[simp] theorem Core.wC_fills (k : Core) (n : Nat) (v : W64) : (k.wC n v).fills = k.fills := rfl
@[simp] theorem Core.wC_arrivals (k : Core) (n : Nat) (v : W64) : (k.wC n v).arrivals = k.arrivals := rfl
@[simp] theorem Core.wC_out (k : Core) (n : Nat) (v : W64) : (k.wC n v).out = k.out := rfl
@[simp] theorem Core.wC_selected (k : Core) (n : Nat) (v : W64) : (k.wC n v).selected = k.selected := rfl
@[simp] theorem Core.wC_fatal (k : Core) (n : Nat) (v : W64) : (k.wC n v).fatal = k.fatal := rfl
@[simp] theorem Core.wC_issue (k : Core) (n : Nat) (v : W64) : (k.wC n v).issue = k.issue := rfl
@[simp] theorem Core.wC_seq (k : Core) (n : Nat) (v : W64) : (k.wC n v).seq = k.seq := rfl
@[simp] theorem Core.wC_rlcSlots (k : Core) (n : Nat) (v : W64) : (k.wC n v).rlcSlots = k.rlcSlots := rfl
@[simp] theorem Core.wC_rlcVec (k : Core) (n : Nat) (v : W64) : (k.wC n v).rlcVec = k.rlcVec := rfl
@[simp] theorem Core.wC_poisoned (k : Core) (n : Nat) (v : W64) : (k.wC n v).poisoned = k.poisoned := rfl
@[simp] theorem Core.wC_away (k : Core) (n : Nat) (v : W64) : (k.wC n v).away = k.away := rfl
@[simp] theorem Core.wC_raced (k : Core) (n : Nat) (v : W64) : (k.wC n v).raced = k.raced := rfl
@[simp] theorem Core.wC_ctxs (k : Core) (n : Nat) (v : W64) : (k.wC n v).ctxs = k.ctxs := rfl
/-! `Core.setBar` -/
@[simp] theorem Core.setBar_owner (k : Core) (n : Nat) (b : Barrier) : (k.setBar n b).owner = k.owner := rfl
@[simp] theorem Core.setBar_lastUser (k : Core) (n : Nat) (b : Barrier) : (k.setBar n b).lastUser = k.lastUser := rfl
@[simp] theorem Core.setBar_launch (k : Core) (n : Nat) (b : Barrier) : (k.setBar n b).launch = k.launch := rfl
@[simp] theorem Core.setBar_lindex (k : Core) (n : Nat) (b : Barrier) : (k.setBar n b).lindex = k.lindex := rfl
@[simp] theorem Core.setBar_ispad (k : Core) (n : Nat) (b : Barrier) : (k.setBar n b).ispad = k.ispad := rfl
@[simp] theorem Core.setBar_spad (k : Core) (n : Nat) (b : Barrier) : (k.setBar n b).spad = k.spad := rfl
@[simp] theorem Core.setBar_lap (k : Core) (n : Nat) (b : Barrier) : (k.setBar n b).lap = k.lap := rfl
@[simp] theorem Core.setBar_csr (k : Core) (n : Nat) (b : Barrier) : (k.setBar n b).csr = k.csr := rfl
@[simp] theorem Core.setBar_vpool (k : Core) (n : Nat) (b : Barrier) : (k.setBar n b).vpool = k.vpool := rfl
@[simp] theorem Core.setBar_acc (k : Core) (n : Nat) (b : Barrier) : (k.setBar n b).acc = k.acc := rfl
@[simp] theorem Core.setBar_part (k : Core) (n : Nat) (b : Barrier) : (k.setBar n b).part = k.part := rfl
@[simp] theorem Core.setBar_partAcc (k : Core) (n : Nat) (b : Barrier) : (k.setBar n b).partAcc = k.partAcc := rfl
@[simp] theorem Core.setBar_partP (k : Core) (n : Nat) (b : Barrier) : (k.setBar n b).partP = k.partP := rfl
@[simp] theorem Core.setBar_partN (k : Core) (n : Nat) (b : Barrier) : (k.setBar n b).partN = k.partN := rfl
@[simp] theorem Core.setBar_stages (k : Core) (n : Nat) (b : Barrier) : (k.setBar n b).stages = k.stages := rfl
@[simp] theorem Core.setBar_blocks (k : Core) (n : Nat) (b : Barrier) : (k.setBar n b).blocks = k.blocks := rfl
@[simp] theorem Core.setBar_wtags (k : Core) (n : Nat) (b : Barrier) : (k.setBar n b).wtags = k.wtags := rfl
@[simp] theorem Core.setBar_books (k : Core) (n : Nat) (b : Barrier) : (k.setBar n b).books = k.books := rfl
@[simp] theorem Core.setBar_ustore (k : Core) (n : Nat) (b : Barrier) : (k.setBar n b).ustore = k.ustore := rfl
@[simp] theorem Core.setBar_rtab (k : Core) (n : Nat) (b : Barrier) : (k.setBar n b).rtab = k.rtab := rfl
@[simp] theorem Core.setBar_rq (k : Core) (n : Nat) (b : Barrier) : (k.setBar n b).rq = k.rq := rfl
@[simp] theorem Core.setBar_fetches (k : Core) (n : Nat) (b : Barrier) : (k.setBar n b).fetches = k.fetches := rfl
@[simp] theorem Core.setBar_cq (k : Core) (n : Nat) (b : Barrier) : (k.setBar n b).cq = k.cq := rfl
@[simp] theorem Core.setBar_parked (k : Core) (n : Nat) (b : Barrier) : (k.setBar n b).parked = k.parked := rfl
@[simp] theorem Core.setBar_bars (k : Core) (n : Nat) (b : Barrier) : (k.setBar n b).bars = Tab.set Barrier.zero k.bars n b := rfl
@[simp] theorem Core.setBar_vparts (k : Core) (n : Nat) (b : Barrier) : (k.setBar n b).vparts = k.vparts := rfl
@[simp] theorem Core.setBar_divider (k : Core) (n : Nat) (b : Barrier) : (k.setBar n b).divider = k.divider := rfl
@[simp] theorem Core.setBar_loads (k : Core) (n : Nat) (b : Barrier) : (k.setBar n b).loads = k.loads := rfl
@[simp] theorem Core.setBar_atomics (k : Core) (n : Nat) (b : Barrier) : (k.setBar n b).atomics = k.atomics := rfl
@[simp] theorem Core.setBar_stores (k : Core) (n : Nat) (b : Barrier) : (k.setBar n b).stores = k.stores := rfl
@[simp] theorem Core.setBar_fills (k : Core) (n : Nat) (b : Barrier) : (k.setBar n b).fills = k.fills := rfl
@[simp] theorem Core.setBar_arrivals (k : Core) (n : Nat) (b : Barrier) : (k.setBar n b).arrivals = k.arrivals := rfl
@[simp] theorem Core.setBar_out (k : Core) (n : Nat) (b : Barrier) : (k.setBar n b).out = k.out := rfl
@[simp] theorem Core.setBar_selected (k : Core) (n : Nat) (b : Barrier) : (k.setBar n b).selected = k.selected := rfl
@[simp] theorem Core.setBar_fatal (k : Core) (n : Nat) (b : Barrier) : (k.setBar n b).fatal = k.fatal := rfl
@[simp] theorem Core.setBar_issue (k : Core) (n : Nat) (b : Barrier) : (k.setBar n b).issue = k.issue := rfl
@[simp] theorem Core.setBar_seq (k : Core) (n : Nat) (b : Barrier) : (k.setBar n b).seq = k.seq := rfl
@[simp] theorem Core.setBar_rlcSlots (k : Core) (n : Nat) (b : Barrier) : (k.setBar n b).rlcSlots = k.rlcSlots := rfl
@[simp] theorem Core.setBar_rlcVec (k : Core) (n : Nat) (b : Barrier) : (k.setBar n b).rlcVec = k.rlcVec := rfl
@[simp] theorem Core.setBar_poisoned (k : Core) (n : Nat) (b : Barrier) : (k.setBar n b).poisoned = k.poisoned := rfl
@[simp] theorem Core.setBar_away (k : Core) (n : Nat) (b : Barrier) : (k.setBar n b).away = k.away := rfl
@[simp] theorem Core.setBar_raced (k : Core) (n : Nat) (b : Barrier) : (k.setBar n b).raced = k.raced := rfl
@[simp] theorem Core.setBar_ctxs (k : Core) (n : Nat) (b : Barrier) : (k.setBar n b).ctxs = k.ctxs := rfl
/-! `Core.onQueue` -/
@[simp] theorem Core.onQueue_owner (k : Core) (x n : Nat) (f : Queue → Queue) : (k.onQueue x n f).owner = k.owner := rfl
@[simp] theorem Core.onQueue_lastUser (k : Core) (x n : Nat) (f : Queue → Queue) : (k.onQueue x n f).lastUser = k.lastUser := rfl
@[simp] theorem Core.onQueue_launch (k : Core) (x n : Nat) (f : Queue → Queue) : (k.onQueue x n f).launch = k.launch := rfl
@[simp] theorem Core.onQueue_lindex (k : Core) (x n : Nat) (f : Queue → Queue) : (k.onQueue x n f).lindex = k.lindex := rfl
@[simp] theorem Core.onQueue_ispad (k : Core) (x n : Nat) (f : Queue → Queue) : (k.onQueue x n f).ispad = k.ispad := rfl
@[simp] theorem Core.onQueue_spad (k : Core) (x n : Nat) (f : Queue → Queue) : (k.onQueue x n f).spad = k.spad := rfl
@[simp] theorem Core.onQueue_lap (k : Core) (x n : Nat) (f : Queue → Queue) : (k.onQueue x n f).lap = k.lap := rfl
@[simp] theorem Core.onQueue_csr (k : Core) (x n : Nat) (f : Queue → Queue) : (k.onQueue x n f).csr = k.csr := rfl
@[simp] theorem Core.onQueue_vpool (k : Core) (x n : Nat) (f : Queue → Queue) : (k.onQueue x n f).vpool = k.vpool := rfl
@[simp] theorem Core.onQueue_acc (k : Core) (x n : Nat) (f : Queue → Queue) : (k.onQueue x n f).acc = k.acc := rfl
@[simp] theorem Core.onQueue_part (k : Core) (x n : Nat) (f : Queue → Queue) : (k.onQueue x n f).part = k.part := rfl
@[simp] theorem Core.onQueue_partAcc (k : Core) (x n : Nat) (f : Queue → Queue) : (k.onQueue x n f).partAcc = k.partAcc := rfl
@[simp] theorem Core.onQueue_partP (k : Core) (x n : Nat) (f : Queue → Queue) : (k.onQueue x n f).partP = k.partP := rfl
@[simp] theorem Core.onQueue_partN (k : Core) (x n : Nat) (f : Queue → Queue) : (k.onQueue x n f).partN = k.partN := rfl
@[simp] theorem Core.onQueue_stages (k : Core) (x n : Nat) (f : Queue → Queue) : (k.onQueue x n f).stages = k.stages := rfl
@[simp] theorem Core.onQueue_blocks (k : Core) (x n : Nat) (f : Queue → Queue) : (k.onQueue x n f).blocks = k.blocks := rfl
@[simp] theorem Core.onQueue_wtags (k : Core) (x n : Nat) (f : Queue → Queue) : (k.onQueue x n f).wtags = k.wtags := rfl
@[simp] theorem Core.onQueue_books (k : Core) (x n : Nat) (f : Queue → Queue) : (k.onQueue x n f).books = k.books := rfl
@[simp] theorem Core.onQueue_ustore (k : Core) (x n : Nat) (f : Queue → Queue) : (k.onQueue x n f).ustore = k.ustore := rfl
@[simp] theorem Core.onQueue_rtab (k : Core) (x n : Nat) (f : Queue → Queue) : (k.onQueue x n f).rtab = k.rtab := rfl
@[simp] theorem Core.onQueue_rq (k : Core) (x n : Nat) (f : Queue → Queue) : (k.onQueue x n f).rq = k.rq := rfl
@[simp] theorem Core.onQueue_fetches (k : Core) (x n : Nat) (f : Queue → Queue) : (k.onQueue x n f).fetches = k.fetches := rfl
@[simp] theorem Core.onQueue_cq (k : Core) (x n : Nat) (f : Queue → Queue) : (k.onQueue x n f).cq = k.cq := rfl
@[simp] theorem Core.onQueue_parked (k : Core) (x n : Nat) (f : Queue → Queue) : (k.onQueue x n f).parked = k.parked := rfl
@[simp] theorem Core.onQueue_bars (k : Core) (x n : Nat) (f : Queue → Queue) : (k.onQueue x n f).bars = k.bars := rfl
@[simp] theorem Core.onQueue_vparts (k : Core) (x n : Nat) (f : Queue → Queue) : (k.onQueue x n f).vparts = k.vparts := rfl
@[simp] theorem Core.onQueue_divider (k : Core) (x n : Nat) (f : Queue → Queue) : (k.onQueue x n f).divider = k.divider := rfl
@[simp] theorem Core.onQueue_loads (k : Core) (x n : Nat) (f : Queue → Queue) : (k.onQueue x n f).loads = k.loads := rfl
@[simp] theorem Core.onQueue_atomics (k : Core) (x n : Nat) (f : Queue → Queue) : (k.onQueue x n f).atomics = k.atomics := rfl
@[simp] theorem Core.onQueue_stores (k : Core) (x n : Nat) (f : Queue → Queue) : (k.onQueue x n f).stores = k.stores := rfl
@[simp] theorem Core.onQueue_fills (k : Core) (x n : Nat) (f : Queue → Queue) : (k.onQueue x n f).fills = k.fills := rfl
@[simp] theorem Core.onQueue_arrivals (k : Core) (x n : Nat) (f : Queue → Queue) : (k.onQueue x n f).arrivals = k.arrivals := rfl
@[simp] theorem Core.onQueue_out (k : Core) (x n : Nat) (f : Queue → Queue) : (k.onQueue x n f).out = k.out := rfl
@[simp] theorem Core.onQueue_selected (k : Core) (x n : Nat) (f : Queue → Queue) : (k.onQueue x n f).selected = k.selected := rfl
@[simp] theorem Core.onQueue_fatal (k : Core) (x n : Nat) (f : Queue → Queue) : (k.onQueue x n f).fatal = k.fatal := rfl
@[simp] theorem Core.onQueue_issue (k : Core) (x n : Nat) (f : Queue → Queue) : (k.onQueue x n f).issue = k.issue := rfl
@[simp] theorem Core.onQueue_seq (k : Core) (x n : Nat) (f : Queue → Queue) : (k.onQueue x n f).seq = k.seq := rfl
@[simp] theorem Core.onQueue_rlcSlots (k : Core) (x n : Nat) (f : Queue → Queue) : (k.onQueue x n f).rlcSlots = k.rlcSlots := rfl
@[simp] theorem Core.onQueue_rlcVec (k : Core) (x n : Nat) (f : Queue → Queue) : (k.onQueue x n f).rlcVec = k.rlcVec := rfl
@[simp] theorem Core.onQueue_poisoned (k : Core) (x n : Nat) (f : Queue → Queue) : (k.onQueue x n f).poisoned = k.poisoned := rfl
@[simp] theorem Core.onQueue_away (k : Core) (x n : Nat) (f : Queue → Queue) : (k.onQueue x n f).away = k.away := rfl
@[simp] theorem Core.onQueue_raced (k : Core) (x n : Nat) (f : Queue → Queue) : (k.onQueue x n f).raced = k.raced := rfl
/-! `Ctx.onRegs` -/
@[simp] theorem Ctx.onRegs_st (c : Ctx) (f : Regs → Regs) : (c.onRegs f).st = c.st := rfl
@[simp] theorem Ctx.onRegs_pc (c : Ctx) (f : Regs → Regs) : (c.onRegs f).pc = c.pc := rfl
@[simp] theorem Ctx.onRegs_regs (c : Ctx) (f : Regs → Regs) : (c.onRegs f).regs = f c.regs := rfl
@[simp] theorem Ctx.onRegs_cwt (c : Ctx) (f : Regs → Regs) : (c.onRegs f).cwt = c.cwt := rfl
@[simp] theorem Ctx.onRegs_cbank (c : Ctx) (f : Regs → Regs) : (c.onRegs f).cbank = c.cbank := rfl
@[simp] theorem Ctx.onRegs_vbase (c : Ctx) (f : Regs → Regs) : (c.onRegs f).vbase = c.vbase := rfl
@[simp] theorem Ctx.onRegs_vcount (c : Ctx) (f : Regs → Regs) : (c.onRegs f).vcount = c.vcount := rfl
@[simp] theorem Ctx.onRegs_abase (c : Ctx) (f : Regs → Regs) : (c.onRegs f).abase = c.abase := rfl
@[simp] theorem Ctx.onRegs_acount (c : Ctx) (f : Regs → Regs) : (c.onRegs f).acount = c.acount := rfl
@[simp] theorem Ctx.onRegs_dommask (c : Ctx) (f : Regs → Regs) : (c.onRegs f).dommask = c.dommask := rfl
@[simp] theorem Ctx.onRegs_phase1 (c : Ctx) (f : Regs → Regs) : (c.onRegs f).phase1 = c.phase1 := rfl
@[simp] theorem Ctx.onRegs_domid (c : Ctx) (f : Regs → Regs) : (c.onRegs f).domid = c.domid := rfl
@[simp] theorem Ctx.onRegs_csr (c : Ctx) (f : Regs → Regs) : (c.onRegs f).csr = c.csr := rfl
@[simp] theorem Ctx.onRegs_inh (c : Ctx) (f : Regs → Regs) : (c.onRegs f).inh = c.inh := rfl
@[simp] theorem Ctx.onRegs_queues (c : Ctx) (f : Regs → Regs) : (c.onRegs f).queues = c.queues := rfl
@[simp] theorem Ctx.onRegs_handling (c : Ctx) (f : Regs → Regs) : (c.onRegs f).handling = c.handling := rfl
@[simp] theorem Ctx.onRegs_waiting (c : Ctx) (f : Regs → Regs) : (c.onRegs f).waiting = c.waiting := rfl
@[simp] theorem Ctx.onRegs_blk (c : Ctx) (f : Regs → Regs) : (c.onRegs f).blk = c.blk := rfl
@[simp] theorem Ctx.onRegs_blkOn (c : Ctx) (f : Regs → Regs) : (c.onRegs f).blkOn = c.blkOn := rfl
@[simp] theorem Ctx.onRegs_fence (c : Ctx) (f : Regs → Regs) : (c.onRegs f).fence = c.fence := rfl
@[simp] theorem Ctx.onRegs_ifence (c : Ctx) (f : Regs → Regs) : (c.onRegs f).ifence = c.ifence := rfl
@[simp] theorem Ctx.onRegs_dbar (c : Ctx) (f : Regs → Regs) : (c.onRegs f).dbar = c.dbar := rfl
@[simp] theorem Ctx.onRegs_wait (c : Ctx) (f : Regs → Regs) : (c.onRegs f).wait = c.wait := rfl
@[simp] theorem Ctx.onRegs_answer (c : Ctx) (f : Regs → Regs) : (c.onRegs f).answer = c.answer := rfl
@[simp] theorem Ctx.onRegs_collSeq (c : Ctx) (f : Regs → Regs) : (c.onRegs f).collSeq = c.collSeq := rfl
@[simp] theorem Ctx.onRegs_markWait (c : Ctx) (f : Regs → Regs) : (c.onRegs f).markWait = c.markWait := rfl
@[simp] theorem Ctx.onRegs_hold (c : Ctx) (f : Regs → Regs) : (c.onRegs f).hold = c.hold := rfl
@[simp] theorem Ctx.onRegs_susp (c : Ctx) (f : Regs → Regs) : (c.onRegs f).susp = c.susp := rfl
@[simp] theorem Ctx.onRegs_recent (c : Ctx) (f : Regs → Regs) : (c.onRegs f).recent = c.recent := rfl
@[simp] theorem Ctx.onRegs_latePreds (c : Ctx) (f : Regs → Regs) : (c.onRegs f).latePreds = c.latePreds := rfl
/-! `Ctx.wC` -/
@[simp] theorem Ctx.wC_st (c : Ctx) (n : Nat) (v : W64) : (c.wC n v).st = c.st := rfl
@[simp] theorem Ctx.wC_pc (c : Ctx) (n : Nat) (v : W64) : (c.wC n v).pc = c.pc := rfl
@[simp] theorem Ctx.wC_regs (c : Ctx) (n : Nat) (v : W64) : (c.wC n v).regs = c.regs := rfl
@[simp] theorem Ctx.wC_cwt (c : Ctx) (n : Nat) (v : W64) : (c.wC n v).cwt = c.cwt := rfl
@[simp] theorem Ctx.wC_cbank (c : Ctx) (n : Nat) (v : W64) : (c.wC n v).cbank = c.cbank := rfl
@[simp] theorem Ctx.wC_vbase (c : Ctx) (n : Nat) (v : W64) : (c.wC n v).vbase = c.vbase := rfl
@[simp] theorem Ctx.wC_vcount (c : Ctx) (n : Nat) (v : W64) : (c.wC n v).vcount = c.vcount := rfl
@[simp] theorem Ctx.wC_abase (c : Ctx) (n : Nat) (v : W64) : (c.wC n v).abase = c.abase := rfl
@[simp] theorem Ctx.wC_acount (c : Ctx) (n : Nat) (v : W64) : (c.wC n v).acount = c.acount := rfl
@[simp] theorem Ctx.wC_dommask (c : Ctx) (n : Nat) (v : W64) : (c.wC n v).dommask = c.dommask := rfl
@[simp] theorem Ctx.wC_phase1 (c : Ctx) (n : Nat) (v : W64) : (c.wC n v).phase1 = c.phase1 := rfl
@[simp] theorem Ctx.wC_domid (c : Ctx) (n : Nat) (v : W64) : (c.wC n v).domid = c.domid := rfl
@[simp] theorem Ctx.wC_csr (c : Ctx) (n : Nat) (v : W64) : (c.wC n v).csr = Tab.set 0 c.csr n v := rfl
@[simp] theorem Ctx.wC_inh (c : Ctx) (n : Nat) (v : W64) : (c.wC n v).inh = c.inh := rfl
@[simp] theorem Ctx.wC_queues (c : Ctx) (n : Nat) (v : W64) : (c.wC n v).queues = c.queues := rfl
@[simp] theorem Ctx.wC_handling (c : Ctx) (n : Nat) (v : W64) : (c.wC n v).handling = c.handling := rfl
@[simp] theorem Ctx.wC_waiting (c : Ctx) (n : Nat) (v : W64) : (c.wC n v).waiting = c.waiting := rfl
@[simp] theorem Ctx.wC_blk (c : Ctx) (n : Nat) (v : W64) : (c.wC n v).blk = c.blk := rfl
@[simp] theorem Ctx.wC_blkOn (c : Ctx) (n : Nat) (v : W64) : (c.wC n v).blkOn = c.blkOn := rfl
@[simp] theorem Ctx.wC_fence (c : Ctx) (n : Nat) (v : W64) : (c.wC n v).fence = c.fence := rfl
@[simp] theorem Ctx.wC_ifence (c : Ctx) (n : Nat) (v : W64) : (c.wC n v).ifence = c.ifence := rfl
@[simp] theorem Ctx.wC_dbar (c : Ctx) (n : Nat) (v : W64) : (c.wC n v).dbar = c.dbar := rfl
@[simp] theorem Ctx.wC_wait (c : Ctx) (n : Nat) (v : W64) : (c.wC n v).wait = c.wait := rfl
@[simp] theorem Ctx.wC_answer (c : Ctx) (n : Nat) (v : W64) : (c.wC n v).answer = c.answer := rfl
@[simp] theorem Ctx.wC_collSeq (c : Ctx) (n : Nat) (v : W64) : (c.wC n v).collSeq = c.collSeq := rfl
@[simp] theorem Ctx.wC_markWait (c : Ctx) (n : Nat) (v : W64) : (c.wC n v).markWait = c.markWait := rfl
@[simp] theorem Ctx.wC_hold (c : Ctx) (n : Nat) (v : W64) : (c.wC n v).hold = c.hold := rfl
@[simp] theorem Ctx.wC_susp (c : Ctx) (n : Nat) (v : W64) : (c.wC n v).susp = c.susp := rfl
@[simp] theorem Ctx.wC_recent (c : Ctx) (n : Nat) (v : W64) : (c.wC n v).recent = c.recent := rfl
@[simp] theorem Ctx.wC_latePreds (c : Ctx) (n : Nat) (v : W64) : (c.wC n v).latePreds = c.latePreds := rfl
/-! `Ctx.setQueue` -/
@[simp] theorem Ctx.setQueue_st (c : Ctx) (n : Nat) (q : Queue) : (c.setQueue n q).st = c.st := rfl
@[simp] theorem Ctx.setQueue_pc (c : Ctx) (n : Nat) (q : Queue) : (c.setQueue n q).pc = c.pc := rfl
@[simp] theorem Ctx.setQueue_regs (c : Ctx) (n : Nat) (q : Queue) : (c.setQueue n q).regs = c.regs := rfl
@[simp] theorem Ctx.setQueue_cwt (c : Ctx) (n : Nat) (q : Queue) : (c.setQueue n q).cwt = c.cwt := rfl
@[simp] theorem Ctx.setQueue_cbank (c : Ctx) (n : Nat) (q : Queue) : (c.setQueue n q).cbank = c.cbank := rfl
@[simp] theorem Ctx.setQueue_vbase (c : Ctx) (n : Nat) (q : Queue) : (c.setQueue n q).vbase = c.vbase := rfl
@[simp] theorem Ctx.setQueue_vcount (c : Ctx) (n : Nat) (q : Queue) : (c.setQueue n q).vcount = c.vcount := rfl
@[simp] theorem Ctx.setQueue_abase (c : Ctx) (n : Nat) (q : Queue) : (c.setQueue n q).abase = c.abase := rfl
@[simp] theorem Ctx.setQueue_acount (c : Ctx) (n : Nat) (q : Queue) : (c.setQueue n q).acount = c.acount := rfl
@[simp] theorem Ctx.setQueue_dommask (c : Ctx) (n : Nat) (q : Queue) : (c.setQueue n q).dommask = c.dommask := rfl
@[simp] theorem Ctx.setQueue_phase1 (c : Ctx) (n : Nat) (q : Queue) : (c.setQueue n q).phase1 = c.phase1 := rfl
@[simp] theorem Ctx.setQueue_domid (c : Ctx) (n : Nat) (q : Queue) : (c.setQueue n q).domid = c.domid := rfl
@[simp] theorem Ctx.setQueue_csr (c : Ctx) (n : Nat) (q : Queue) : (c.setQueue n q).csr = c.csr := rfl
@[simp] theorem Ctx.setQueue_inh (c : Ctx) (n : Nat) (q : Queue) : (c.setQueue n q).inh = c.inh := rfl
@[simp] theorem Ctx.setQueue_handling (c : Ctx) (n : Nat) (q : Queue) : (c.setQueue n q).handling = c.handling := rfl
@[simp] theorem Ctx.setQueue_waiting (c : Ctx) (n : Nat) (q : Queue) : (c.setQueue n q).waiting = c.waiting := rfl
@[simp] theorem Ctx.setQueue_blk (c : Ctx) (n : Nat) (q : Queue) : (c.setQueue n q).blk = c.blk := rfl
@[simp] theorem Ctx.setQueue_blkOn (c : Ctx) (n : Nat) (q : Queue) : (c.setQueue n q).blkOn = c.blkOn := rfl
@[simp] theorem Ctx.setQueue_fence (c : Ctx) (n : Nat) (q : Queue) : (c.setQueue n q).fence = c.fence := rfl
@[simp] theorem Ctx.setQueue_ifence (c : Ctx) (n : Nat) (q : Queue) : (c.setQueue n q).ifence = c.ifence := rfl
@[simp] theorem Ctx.setQueue_dbar (c : Ctx) (n : Nat) (q : Queue) : (c.setQueue n q).dbar = c.dbar := rfl
@[simp] theorem Ctx.setQueue_wait (c : Ctx) (n : Nat) (q : Queue) : (c.setQueue n q).wait = c.wait := rfl
@[simp] theorem Ctx.setQueue_answer (c : Ctx) (n : Nat) (q : Queue) : (c.setQueue n q).answer = c.answer := rfl
@[simp] theorem Ctx.setQueue_collSeq (c : Ctx) (n : Nat) (q : Queue) : (c.setQueue n q).collSeq = c.collSeq := rfl
@[simp] theorem Ctx.setQueue_markWait (c : Ctx) (n : Nat) (q : Queue) : (c.setQueue n q).markWait = c.markWait := rfl
@[simp] theorem Ctx.setQueue_hold (c : Ctx) (n : Nat) (q : Queue) : (c.setQueue n q).hold = c.hold := rfl
@[simp] theorem Ctx.setQueue_susp (c : Ctx) (n : Nat) (q : Queue) : (c.setQueue n q).susp = c.susp := rfl
@[simp] theorem Ctx.setQueue_recent (c : Ctx) (n : Nat) (q : Queue) : (c.setQueue n q).recent = c.recent := rfl
@[simp] theorem Ctx.setQueue_latePreds (c : Ctx) (n : Nat) (q : Queue) : (c.setQueue n q).latePreds = c.latePreds := rfl
/-! `Mem.setPoison` -/
@[simp] theorem Mem.setPoison_loc (m : Mem) (sp a : Nat) (b : Bool) : (m.setPoison sp a b).loc = m.loc := rfl
@[simp] theorem Mem.setPoison_h0 (m : Mem) (sp a : Nat) (b : Bool) : (m.setPoison sp a b).h0 = m.h0 := rfl
@[simp] theorem Mem.setPoison_h1 (m : Mem) (sp a : Nat) (b : Bool) : (m.setPoison sp a b).h1 = m.h1 := rfl
@[simp] theorem Mem.setPoison_rem (m : Mem) (sp a : Nat) (b : Bool) : (m.setPoison sp a b).rem = m.rem := rfl
@[simp] theorem Mem.setPoison_poison (m : Mem) (sp a : Nat) (b : Bool) : (m.setPoison sp a b).poison = Tab.set false m.poison (lineKey sp a) b := rfl
@[simp] theorem Mem.setPoison_dirty (m : Mem) (sp a : Nat) (b : Bool) : (m.setPoison sp a b).dirty = m.dirty := rfl
@[simp] theorem Mem.setPoison_frames (m : Mem) (sp a : Nat) (b : Bool) : (m.setPoison sp a b).frames = m.frames := rfl
@[simp] theorem Mem.setPoison_l2 (m : Mem) (sp a : Nat) (b : Bool) : (m.setPoison sp a b).l2 = m.l2 := rfl
@[simp] theorem Mem.setPoison_msc (m : Mem) (sp a : Nat) (b : Bool) : (m.setPoison sp a b).msc = m.msc := rfl
@[simp] theorem Mem.setPoison_mdirty (m : Mem) (sp a : Nat) (b : Bool) : (m.setPoison sp a b).mdirty = m.mdirty := rfl
@[simp] theorem Mem.setPoison_staged (m : Mem) (sp a : Nat) (b : Bool) : (m.setPoison sp a b).staged = m.staged := rfl
@[simp] theorem Mem.setPoison_l2act (m : Mem) (sp a : Nat) (b : Bool) : (m.setPoison sp a b).l2act = m.l2act := rfl
@[simp] theorem Mem.setPoison_fills (m : Mem) (sp a : Nat) (b : Bool) : (m.setPoison sp a b).fills = m.fills := rfl
/-! `State.mechs` -/
@[simp] theorem State.mechs_mach (s : State) (m : Mach) : (s.mechs m).mach = m.ticked := rfl
@[simp] theorem State.mechs_mem (s : State) (m : Mach) : (s.mechs m).mem = s.mem := rfl
/-! `State.onCore` -/
@[simp] theorem State.onCore_mach (s : State) (c : Nat) (f : Core → Core) : (s.onCore c f).mach = s.mach.upd c f := rfl
@[simp] theorem State.onCore_mem (s : State) (c : Nat) (f : Core → Core) : (s.onCore c f).mem = s.mem := rfl
/-! `State.stepOn` -/
@[simp] theorem State.stepOn_mach (s : State) (c : Nat) (f : Core → Core) : (s.stepOn c f).mach = (s.mach.upd c f).ticked := rfl
@[simp] theorem State.stepOn_mem (s : State) (c : Nat) (f : Core → Core) : (s.stepOn c f).mem = s.mem := rfl
/-! `State.idle` -/
@[simp] theorem State.idle_mach (s : State) : s.idle.mach = s.mach.ticked := rfl
@[simp] theorem State.idle_mem (s : State) : s.idle.mem = s.mem := rfl

/-! ### Reading after a write -/

@[simp] theorem Mach.core_ticked (m : Mach) (c : Nat) : m.ticked.core c = m.core c := rfl
/-- Core `d` after core `c` was replaced. -/
theorem Mach.core_setCore (m : Mach) (c d : Nat) (k : Core) : (m.setCore c k).core d = if d = c then k else m.core d :=
  Tab.get_set _ _ _ _ _
@[simp] theorem Mach.core_setCore_self (m : Mach) (c : Nat) (k : Core) : (m.setCore c k).core c = k := Tab.get_set_self ..
@[simp] theorem Mach.core_upd_self (m : Mach) (c : Nat) (f : Core → Core) : (m.upd c f).core c = f (m.core c) := Tab.get_set_self ..
theorem Mach.core_setCore_other (m : Mach) (c d : Nat) (k : Core) (h : d ≠ c) : (m.setCore c k).core d = m.core d :=
  Tab.get_set_other _ _ _ _ _ h
theorem Mach.core_upd_other (m : Mach) (c d : Nat) (f : Core → Core) (h : d ≠ c) : (m.upd c f).core d = m.core d :=
  Tab.get_set_other _ _ _ _ _ h
@[simp] theorem Mach.core_setDieReg (m : Mach) (d o : Nat) (v : W64) (c : Nat) : (m.setDieReg d o v).core c = m.core c := rfl
@[simp] theorem Mach.core_setPortReg (m : Mach) (p o : Nat) (v : W64) (c : Nat) : (m.setPortReg p o v).core c = m.core c := rfl
@[simp] theorem Mach.core_setFeq (m : Mach) (h : BitVec 1) (q : BitVec 6) (f : FeQueue) (c : Nat) :
    (m.setFeq h q f).core c = m.core c := rfl
@[simp] theorem Mach.core_setRlc (m : Mach) (n : Nat) (r : Rlc) (c : Nat) : (m.setRlc n r).core c = m.core c := rfl
/-- Context `y` after context `x` was replaced. -/
theorem Core.ctx_setCtx (k : Core) (x y : Nat) (c : Ctx) : (k.setCtx x c).ctx y = if y = x then c else k.ctx y :=
  Tab.get_set _ _ _ _ _
@[simp] theorem Core.ctx_setCtx_self (k : Core) (x : Nat) (c : Ctx) : (k.setCtx x c).ctx x = c := Tab.get_set_self ..
@[simp] theorem Core.ctx_upd_self (k : Core) (x : Nat) (f : Ctx → Ctx) : (k.upd x f).ctx x = f (k.ctx x) := Tab.get_set_self ..
theorem Core.ctx_setCtx_other (k : Core) (x y : Nat) (c : Ctx) (h : y ≠ x) : (k.setCtx x c).ctx y = k.ctx y :=
  Tab.get_set_other _ _ _ _ _ h
theorem Core.ctx_upd_other (k : Core) (x y : Nat) (f : Ctx → Ctx) (h : y ≠ x) : (k.upd x f).ctx y = k.ctx y :=
  Tab.get_set_other _ _ _ _ _ h
@[simp] theorem Core.ctx_wC (k : Core) (n : Nat) (v : W64) (x : Nat) : (k.wC n v).ctx x = k.ctx x := rfl
@[simp] theorem Core.rC_wC_self (k : Core) (n : Nat) (v : W64) : (k.wC n v).rC n = v := Tab.get_set_self ..
theorem Core.rC_wC_other (k : Core) (n j : Nat) (v : W64) (h : j ≠ n) : (k.wC n v).rC j = k.rC j := Tab.get_set_other _ _ _ _ _ h
@[simp] theorem Core.rC_setCtx (k : Core) (x : Nat) (c : Ctx) (n : Nat) : (k.setCtx x c).rC n = k.rC n := rfl
@[simp] theorem Core.rC_upd (k : Core) (x : Nat) (f : Ctx → Ctx) (n : Nat) : (k.upd x f).rC n = k.rC n := rfl
@[simp] theorem Core.bar_setBar_self (k : Core) (n : Nat) (b : Barrier) : (k.setBar n b).bar n = b := Tab.get_set_self ..
theorem Core.bar_setBar_other (k : Core) (n j : Nat) (b : Barrier) (h : j ≠ n) : (k.setBar n b).bar j = k.bar j :=
  Tab.get_set_other _ _ _ _ _ h
@[simp] theorem Ctx.rC_wC_self (c : Ctx) (n : Nat) (v : W64) : (c.wC n v).rC n = v := Tab.get_set_self ..
theorem Ctx.rC_wC_other (c : Ctx) (n j : Nat) (v : W64) (h : j ≠ n) : (c.wC n v).rC j = c.rC j := Tab.get_set_other _ _ _ _ _ h
@[simp] theorem Ctx.rC_onRegs (c : Ctx) (f : Regs → Regs) (n : Nat) : (c.onRegs f).rC n = c.rC n := rfl
@[simp] theorem Mach.dieReg_setDieReg_self (m : Mach) (d o : Nat) (v : W64) : (m.setDieReg d o v).dieReg d o = v := Tab.get_set_self ..
theorem Mach.dieReg_setDieReg_other (m : Mach) (d o e j : Nat) (v : W64) (h : e * 0x1000 + j ≠ d * 0x1000 + o) :
    (m.setDieReg d o v).dieReg e j = m.dieReg e j := Tab.get_set_other _ _ _ _ _ h
@[simp] theorem Mach.portReg_setPortReg_self (m : Mach) (p o : Nat) (v : W64) : (m.setPortReg p o v).portReg p o = v := Tab.get_set_self ..
theorem Mach.portReg_setPortReg_other (m : Mach) (p o r j : Nat) (v : W64) (h : r * 0x1000 + j ≠ p * 0x1000 + o) :
    (m.setPortReg p o v).portReg r j = m.portReg r j := Tab.get_set_other _ _ _ _ _ h
@[simp] theorem Mach.dieReg_upd (m : Mach) (c : Nat) (f : Core → Core) (d o : Nat) : (m.upd c f).dieReg d o = m.dieReg d o := rfl
@[simp] theorem Mach.portReg_upd (m : Mach) (c : Nat) (f : Core → Core) (p o : Nat) : (m.upd c f).portReg p o = m.portReg p o := rfl
@[simp] theorem Mach.dieReg_ticked (m : Mach) (d o : Nat) : m.ticked.dieReg d o = m.dieReg d o := rfl
@[simp] theorem Mach.portReg_ticked (m : Mach) (p o : Nat) : m.ticked.portReg p o = m.portReg p o := rfl
@[simp] theorem Mach.feq_setFeq_self (m : Mach) (h : BitVec 1) (q : BitVec 6) (f : FeQueue) : (m.setFeq h q f).feq h q = f :=
  Tab.get_set_self ..
@[simp] theorem Mach.rlc_setRlc_self (m : Mach) (n : Nat) (r : Rlc) : (m.setRlc n r).rlc n = r := Tab.get_set_self ..

/-! ### Registers (R120) -/

@[simp] theorem Regs.rS_zero' (r : Regs) : r.rS 0 = 0 := rfl
@[simp] theorem Regs.rP_zero' (r : Regs) : r.rP 0 = true := rfl
@[simp] theorem Regs.wS_zero' (r : Regs) (v : W64) : r.wS 0 v = r := rfl
@[simp] theorem Regs.wP_zero' (r : Regs) (b : Bool) : r.wP 0 b = r := rfl
/-- A scalar after a scalar was written. -/
theorem Regs.rS_wS (r : Regs) (n m : Nat) (v : W64) : (r.wS n v).rS m = if m = n ∧ n ≠ 0 then v else r.rS m := by
  unfold Regs.wS Regs.rS
  by_cases hn : n = 0
  · subst hn; simp
  · by_cases hm : m = 0
    · subst hm; simp [hn, Ne.symm hn]
    · simp only [if_neg hn, if_neg hm]
      rw [Tab.get_set]
      simp [hn]
@[simp] theorem Regs.rP_wS (r : Regs) (n m : Nat) (v : W64) : (r.wS n v).rP m = r.rP m := by
  unfold Regs.wS; split <;> rfl
@[simp] theorem Regs.rA_wS (r : Regs) (n m : Nat) (v : W64) : (r.wS n v).rA m = r.rA m := by
  unfold Regs.wS; split <;> rfl
@[simp] theorem Regs.rM_wS (r : Regs) (n m : Nat) (v : W64) : (r.wS n v).rM m = r.rM m := by
  unfold Regs.wS; split <;> rfl
@[simp] theorem Regs.rK_wS (r : Regs) (n m : Nat) (v : W64) : (r.wS n v).rK m = r.rK m := by
  unfold Regs.wS; split <;> rfl
@[simp] theorem Regs.rS_wP (r : Regs) (n m : Nat) (b : Bool) : (r.wP n b).rS m = r.rS m := by
  unfold Regs.wP; split <;> rfl
@[simp] theorem Regs.rA_wP (r : Regs) (n m : Nat) (b : Bool) : (r.wP n b).rA m = r.rA m := by
  unfold Regs.wP; split <;> rfl
@[simp] theorem Regs.rM_wP (r : Regs) (n m : Nat) (b : Bool) : (r.wP n b).rM m = r.rM m := by
  unfold Regs.wP; split <;> rfl
@[simp] theorem Regs.rK_wP (r : Regs) (n m : Nat) (b : Bool) : (r.wP n b).rK m = r.rK m := by
  unfold Regs.wP; split <;> rfl
@[simp] theorem Regs.rA_wA_self (r : Regs) (n : Nat) (v : W64) : (r.wA n v).rA n = v := Tab.get_set_self ..
theorem Regs.rA_wA_other (r : Regs) (n m : Nat) (v : W64) (h : m ≠ n) : (r.wA n v).rA m = r.rA m := Tab.get_set_other _ _ _ _ _ h
@[simp] theorem Regs.rS_wA (r : Regs) (n m : Nat) (v : W64) : (r.wA n v).rS m = r.rS m := rfl
@[simp] theorem Regs.rP_wA (r : Regs) (n m : Nat) (v : W64) : (r.wA n v).rP m = r.rP m := rfl

/-! ### What the shared operations change -/

/-- A part that retires changes nothing of its core but the arrivals that wait to be made. -/
theorem Core.retire_eq (k : Core) (fl : Flight) : ∃ l, k.retire fl = { k with arrivals := l } := by
  unfold Core.retire
  split
  · unfold Core.retireAr
    split
    · exact ⟨k.arrivals, rfl⟩
    · exact ⟨_, rfl⟩
  · exact ⟨k.arrivals, rfl⟩
@[simp] theorem Core.ctx_retire (k : Core) (fl : Flight) (x : Nat) : (k.retire fl).ctx x = k.ctx x := by
  obtain ⟨l, h⟩ := k.retire_eq fl
  rw [h]; rfl
/-- What a choice of the issue unit changes (R62): the states of contexts and the selected one, with the counters of R67 for the
time a context stood READY and the time none stood. -/
def OnlyChoice (k k' : Core) : Prop :=
  (k' = { k with ctxs := k'.ctxs, selected := k'.selected, csr := k'.csr } ∧ ∀ n, n ≠ 0x52 → k'.rC n = k.rC n) ∧
    ∀ x, k'.ctx x = { k.ctx x with st := (k'.ctx x).st, csr := (k'.ctx x).csr } ∧
      ∀ n, n ≠ 0x5C → (k'.ctx x).rC n = (k.ctx x).rC n
theorem OnlyChoice.refl (k : Core) : OnlyChoice k k := ⟨⟨rfl, fun _ _ => rfl⟩, fun _ => ⟨rfl, fun _ _ => rfl⟩⟩
theorem OnlyChoice.trans {k k' k'' : Core} (h : OnlyChoice k k') (h' : OnlyChoice k' k'') : OnlyChoice k k'' := by
  refine ⟨⟨?_, fun n hn => (h'.1.2 n hn).trans (h.1.2 n hn)⟩, fun x => ⟨?_, fun n hn => ((h'.2 x).2 n hn).trans ((h.2 x).2 n hn)⟩⟩
  · rw [h'.1.1]; dsimp only; rw [h.1.1]
  · rw [(h'.2 x).1]; dsimp only; rw [(h.2 x).1]
/-- One context changed in nothing but its state and RDYWAIT. -/
theorem OnlyChoice.upd (k : Core) (x : Nat) (f : Ctx → Ctx)
    (hf : ∀ c, f c = { c with st := (f c).st, csr := (f c).csr } ∧ ∀ n, n ≠ 0x5C → (f c).rC n = c.rC n) :
    OnlyChoice k (k.upd x f) := by
  refine ⟨⟨rfl, fun _ _ => rfl⟩, fun y => ?_⟩
  unfold Core.upd
  rw [Core.ctx_setCtx]
  split
  · rename_i h; subst h; exact hf _
  · exact ⟨rfl, fun _ _ => rfl⟩
/-- Another context selected. -/
theorem OnlyChoice.select {k k' : Core} (h : OnlyChoice k k') (o : Option Nat) : OnlyChoice k { k' with selected := o } :=
  ⟨⟨by dsimp only; rw [h.1.1], h.1.2⟩, h.2⟩
/-- The time without a READY context counted. -/
theorem OnlyChoice.idle (k : Core) : OnlyChoice k (k.incFree 0x52) :=
  ⟨⟨rfl, fun n hn => Tab.get_set_other 0 k.csr 0x52 n _ hn⟩, fun _ => ⟨rfl, fun _ _ => rfl⟩⟩
theorem Core.selectCtx_only (k : Core) (x : Nat) : OnlyChoice k (k.selectCtx x) := by
  refine (OnlyChoice.upd k x _ fun c => ?_).select _
  split
  · exact ⟨rfl, fun n hn => Tab.get_set_other 0 c.csr 0x5C n _ hn⟩
  · exact ⟨rfl, fun _ _ => rfl⟩
theorem Core.reselect_only (k : Core) : OnlyChoice k k.reselect := by
  unfold Core.reselect
  split
  · split
    · exact .refl k
    · split
      · exact k.selectCtx_only _
      · split
        · exact .refl k
        · exact (OnlyChoice.refl k).select _
  · split
    · exact k.selectCtx_only _
    · exact .refl k
theorem Core.makeReady_only (k : Core) (x : Nat) : OnlyChoice k (k.makeReady x) := by
  have h2 : ∀ k : Core, OnlyChoice k
      (if k.selected = some x then k.selectCtx x else (k.upd x (fun c => { c with st := .ready })).reselect) := by
    intro k
    split
    · exact Core.selectCtx_only _ x
    · exact (OnlyChoice.upd k x (fun c => { c with st := .ready }) fun c => ⟨rfl, fun _ _ => rfl⟩).trans (Core.reselect_only _)
  unfold Core.makeReady
  dsimp only
  refine OnlyChoice.trans ?_ (h2 _)
  unfold Core.noteIdle
  split
  · exact .idle k
  · exact .refl k

end Sys2Proof.Machine
end

