-- ==== Sys2Proof/Tests/Slice0.lean ====
section
/-! SUPPORT. Tests: ill-formed terms that the checks refuse; words of the spec that decode to their instructions; for each
statement a state and operands that meet its hypotheses, with the values that the spec's rules give by hand; for each
instruction one step on a small state. -/
namespace Sys2Proof.Tests
set_option Elab.async false
open Sys2Proof Sys2Proof.Machine

/-! ### Small states -/

/-- A bundle at 0x100 of context 0 that has issued, its parts reading the registers `r`. -/
def iss (r : Regs) : Issue := ⟨0, 0x100, 16, 5, 1, r, [], [], [], [], [], none, 0x110, false, 10, none, false, [], false⟩
/-- Its context, selected and ISSUING. -/
def ctx0 (r : Regs) : Ctx := { Ctx.zero with st := .issuing, pc := 0x100, regs := r, vcount := 160, acount := 4, dommask := 1 }
/-- A core of tenant 1 with that bundle open. -/
def core0 (r : Regs) : Core :=
  { Core.zero with owner := some 1, launch := some 1, selected := some 0, seq := 5, issue := some (iss r), ctxs := [(0, ctx0 r)] }
/-- A machine whose core 0 is `k`. -/
def st (k : Core) : State := ⟨{ State.reset.mach with cores := [(0, k)] }, Mem.zero⟩
/-- Registers from pairs, and predicates. -/
def regs (s : Tab W64) (p : BitVec 16) : Regs := { Regs.zero with s := s, p := p }
/-- The machine with S1 and S2. -/
def s12 (a b : W64) : State := st (core0 (regs [(1, a), (2, b)] 0))
/-- A next state that passes a test. -/
def ok (o : Out) (f : State → Bool) : Bool :=
  match o with
  | .next s => f s
  | _ => false
/-- No source. -/
def nil' : Desc := .queue 0 0 false
/-- A control word with an element type, S1, S2 and S3 as sources, S4 and P3 as destinations, and AUX. -/
def cw (e : BitVec 4) (aux : BitVec 8) : Cw := ⟨e, 0, 0, .sreg 1, .sreg 2, .sreg 3, .sreg 4, 3, 0, aux, 0, 0⟩
/-- An SC part, a VA part. -/
def sc (c : Cw) : Part := ⟨.sc, 0, false, 0, 0, c⟩
def va (w : BitVec 2) (c : Cw) : Part := ⟨.va, 0, false, w, 0, c⟩
/-- What a part leaves in S4, in P3 of context 0 of core 0; where its bundle goes on. -/
def s4 (o : Out) : Option W64 :=
  match o with
  | .next s => some ((s.here.ctx 0).regs.rS 4)
  | _ => none
def p3 (o : Out) : Option Bool :=
  match o with
  | .next s => some ((s.here.ctx 0).regs.rP 3)
  | _ => none
def goes (o : Out) : Option W64 :=
  match o with
  | .next s => s.here.issue.map (fun b => b.next)
  | _ => none
/-- The hypothesis that every statement about a part makes. -/
theorem test_bundle_open : Runs (s12 1 2) (iss (regs [(1, 1), (2, 2)] 0)) 0 := ⟨rfl, rfl⟩

/-! ### Ill-formed terms (R17 to R32, R38 to R43, R284) -/

theorem test_ill_control : [Instr.loop 0 0 3, .dbar 0 0, .dbar 0 6, .fence 0 6].all (fun i => !wellFormed i) = true := by decide
theorem test_ill_slot : [Instr.add (va 0 (cw 5 0)), .vadd (sc (cw 5 0)), .xrot (va 0 (cw 5 0)),
    .vadd (va 3 { cw 5 0 with src3 := nil', pdst := 0 }), .add { sc { cw 5 0 with src3 := nil', pdst := 0 } with width := 1 }].all
    (fun i => !wellFormed i) = true := by decide
def addOk : Cw := { cw 5 0 with src3 := nil', pdst := 0 }
theorem test_well_formed_add : wellFormed (.add (sc addOk)) = true := by decide
theorem test_ill_fields : [Instr.add (sc { addOk with etype := 3 }), .add (sc { addOk with rnd := 1 }), .add (sc { addOk with sat := 3 }),
    .and (sc { addOk with sat := 1 }), .add (sc { addOk with src1 := .queue 1 0 false }), .add (sc { addOk with src3 := .sreg 1 }),
    .add (sc { addOk with pdst := 2 }), .add (sc { addOk with mksel := 1 }), .add (sc { addOk with aux := 1 }),
    .add (sc { addOk with src1 := .cbank 4 }), .csrr (sc ⟨0, 0, 0, nil', nil', nil', .sreg 4, 0, 0, 0x20, 0, 0⟩)].all
    (fun i => !wellFormed i) = true := by decide
def vaddOk : Cw := ⟨4, 0, 0, .vreg 1, .vreg 2, nil', .vreg 3, 0, 0, 0, 0, 0⟩
theorem test_ill_lanes : wellFormed (.vadd (va 2 vaddOk)) = true ∧
    [Instr.vadd (va 2 { vaddOk with dst := .queue 1 1 false }), .vadd (va 2 { vaddOk with src1 := .queue 1 0 false }),
     .vadd (va 2 { vaddOk with sat := 2 }), .vfadd (va 2 { vaddOk with etype := 8, rnd := 7 }),
     .xbcast ⟨.xb, 0, false, 0, 0, { vaddOk with src2 := nil', aux := 8 }⟩].all (fun i => !wellFormed i) = true := by decide
def cpOk' : Cp := ⟨0, false, 2, 3, 0, .queue 3 0 false, 20, 0, 0, 0⟩
theorem test_ill_copies : wellFormed (.cplin cpOk') = true ∧ [Instr.cplin { cpOk' with seq := 2 }, .cplin { cpOk' with policy := 4 },
    .cplin { cpOk' with auxReg := 1 }, .cplin { cpOk' with dest := .sreg 1 }, .cplin { cpOk' with spec := 1 },
    .cpwb { cpOk' with spec := 2 }].all (fun i => !wellFormed i) = true := by decide
theorem test_ill_micro : [Instr.mloop ⟨0, 0, 0, 0, 0⟩, .mend ⟨0, 0, 0, 0, 4096⟩, .mret ⟨1, 0, 0, 0, 0⟩, .mzero ⟨0, 0, 0, 1, 0⟩,
    .mldb ⟨0, 0, 0, 3, 0⟩, .mbr ⟨0, 0, 0, 4, 0⟩].all (fun i => !wellFormed i) = true := by decide
def hd : PktHdr := ⟨0, 3, false, 0x10⟩
theorem test_ill_packets : [Instr.launchPkt hd 64 0 0, .graphPkt hd 0 4 0, .writePkt hd 8 5 1 2 3 4, .writePkt hd 8 1 1 2 0 0,
    .waitmemPkt hd 4 0 0 0 0, .pktLoop hd 33 1, .indirectPkt hd 32 1, .indirectPkt hd 64 0, .signalPkt hd 4 0 false false 0].all
    (fun i => !wellFormed i) = true := by decide
theorem test_ill_units : [Instr.nullifierSkip 640 0, .nullifierSkip 0 4, .readComplete 0 0 8 0, .barrierFree 0 64, .rlcStep 40,
    .portGrant 0 17, .scrubDie 4, .softerr .vreg 0 640].all (fun i => !wellFormed i) = true := by decide

/-! ### Words of the spec -/

/-- A control word as four 64-bit words, the highest first (R25). -/
def word4 (a b c d : Nat) : W256 := .ofNat 256 (a * 2 ^ 192 + b * 2 ^ 128 + c * 2 ^ 64 + d)
/-- Chapter 1: the bundle of R14 to R30, worked to the bit. -/
theorem test_decode_bundle :
    decodeBundle [0x120FFFFA00100411, 0x060006003E040040]
      (fun n => if n = 0x10 then word4 0x005410002F000000 0x004000A000000000 1 0
        else if n = 0x11 then word4 0x8060000802000600 0x0004000000000000 0 0 else 0) =
    .ok [.br 2 0x7FFFA, .add ⟨.sc, 0, false, 0, 0x010, ⟨5, 0, 0, .sreg 5, .lit false, nil', .sreg 5, 0, 0, 0, 1, 0⟩⟩,
      .vfadd ⟨.va, 0, false, 2, 0x011, ⟨8, 0, 0, .queue 0 0 true, .vreg 3, nil', .queue 1 0 false, 0, 0, 0, 0, 0⟩⟩,
      .mcall 3 true 0x81 0x40] := by rfl
/-- Chapter 3 (compare), 5 (scratchpad), 11 (atomics): control words of the SC slot. -/
theorem test_decode_sc :
    decodeSlot .sc 0 (word4 0x089410002F000000 0x0000000600000000 0x64 0) =
      .ok (some (.cmplt ⟨.sc, 0, false, 0, 0, ⟨5, 0, 0, .sreg 5, .lit false, nil', nil', 3, 0, 0, 0x64, 0⟩⟩)) ∧
    decodeSlot .sc 0 (word4 0x10D4100017000100 0x0280000000000000 8 0) =
      .ok (some (.stsp ⟨.sc, 0, false, 0, 0, ⟨5, 0, 0, .sreg 2, .lit false, .sreg 5, nil', 0, 0, 0, 8, 0⟩⟩)) ∧
    decodeSlot .sc 0 (word4 0x1814100027000100 0x02C000E005800000 0x40 0) =
      .ok (some (.amoadd ⟨.sc, 0, false, 0, 0, ⟨5, 0, 0, .sreg 4, .lit false, .sreg 5, .sreg 7, 0, 0, 0x16, 0x40, 0⟩⟩)) :=
  ⟨rfl, rfl, rfl⟩
/-- Chapters 4, 7, 12 and 13: system operations. -/
theorem test_decode_system :
    decodeSlot .sc 0 (word4 0xD8001C0007000200 0x0040012800800000 4 8) =
      .ok (some (.qalloc ⟨.sc, 0, false, 0, 0, ⟨0, 0, 0, .lit false, .lit true, nil', .sreg 9, 4, 0, 2, 4, 8⟩⟩)) ∧
    decodeSlot .sc 0 (word4 0xE4001000A0000000 0x0040012800000000 0 0) =
      .ok (some (.msload ⟨.sc, 0, false, 0, 0, ⟨0, 0, 0, .sreg 20, nil', nil', .sreg 9, 4, 0, 0, 0, 0⟩⟩)) ∧
    decodeSlot .sc 0 (word4 0xE8001000A7000000 0x0040012800400000 2 0) =
      .ok (some (.ephbind ⟨.sc, 0, false, 0, 0, ⟨0, 0, 0, .sreg 20, .lit false, nil', .sreg 9, 4, 0, 1, 2, 0⟩⟩)) ∧
    decodeSlot .sc 0 (word4 0xEC00100040000000 0x0040012800000000 0 0) =
      .ok (some (.rlcgo ⟨.sc, 0, false, 0, 0, ⟨0, 0, 0, .sreg 8, nil', nil', .sreg 9, 4, 0, 0, 0, 0⟩⟩)) ∧
    decodeSlot .sc 0 (word4 0xEC40000000000000 0x0040012C00000000 0 0) =
      .ok (some (.rlcwait ⟨.sc, 0, false, 0, 0, ⟨0, 0, 0, nil', nil', nil', .sreg 9, 6, 0, 0, 0, 0⟩⟩)) := ⟨rfl, rfl, rfl, rfl, rfl⟩
/-- Chapters 8, 9, 18, 19 and 20: lane operations. -/
theorem test_decode_lanes :
    decodeSlot .va 0x400 (word4 0x88A01C0002000000 0x0020002400000000 0x3F000000 0) =
      .ok (some (.vfcmple ⟨.va, 0, false, 2, 0, ⟨8, 0, 0, .lit false, .vreg 0, nil', .vreg 1, 2, 0, 0, 0x3F000000, 0⟩⟩)) ∧
    decodeSlot .va 0x400 (word4 0xC16C080006004000 0x0020002000000000 0 0) =
      .ok (some (.vbfly ⟨.va, 0, false, 2, 0, ⟨11, 0, 0, .vreg 0, .cbank 0x20, nil', .vreg 1, 0, 0, 0, 0, 0⟩⟩)) ∧
    decodeSlot .va 0 (word4 0x9018000000000000 0x0004000002000000 0 0) =
      .ok (some (.vcvt ⟨.va, 0, false, 0, 0, ⟨6, 0, 0, nil', nil', nil', .queue 1 0 false, 0, 0, 8, 0, 0⟩⟩)) ∧
    decodeSlot .va 0 (word4 0x5404240807000000 0x0008000000800000 1 0) =
      .ok (some (.vreq ⟨.va, 0, false, 0, 0, ⟨1, 0, 1, .queue 4 0 true, .lit false, nil', .queue 2 0 false, 0, 0, 2, 1, 0⟩⟩)) ∧
    decodeSlot .va 0 (word4 0xC1EC010800000000 0x0004000008000000 0 0) =
      .ok (some (.vperm ⟨.va, 0, false, 0, 0, ⟨11, 0, 0, .queue 1 0 true, nil', nil', .queue 1 0 false, 0, 0, 0x20, 0, 0⟩⟩)) :=
  ⟨rfl, rfl, rfl, rfl, rfl⟩
/-- An XROT by R25 and R193: OPC 0x342, ETYPE 4, SRC1 V1, DST V2, AUX 3, in the XB slot with WIDTH 2. -/
theorem test_decode_crossbar :
    decodeSlot .xb 0x400 (word4 (0x342 * 2 ^ 54 + 4 * 2 ^ 50 + 0x10001 * 2 ^ 27) (0x10002 * 2 ^ 37 + 3 * 2 ^ 22) 0 0) =
      .ok (some (.xrot ⟨.xb, 0, false, 2, 0, ⟨4, 0, 0, .vreg 1, nil', nil', .vreg 2, 0, 0, 3, 0, 0⟩⟩)) := by rfl
/-- Chapters 1, 10 and 22: the matrix slot, copy parcels, a SPAWN header. -/
theorem test_decode_slots :
    decodeMx 0x3E040040 = .ok (some (.mcall 3 true 0x81 0x40)) ∧
    decodeCp 0x0460832460005000 = .ok (some (.cpcomp ⟨0, false, 2, 3, 9, .queue 3 0 false, 20, 0, 0, 0⟩)) ∧
    decodeCtl 0x0247FF7906000600 = .ok (some (.spawn 2 0x1FFDE 1)) := ⟨rfl, rfl, rfl⟩
/-- Chapters 7 and 18: micro-op words. -/
theorem test_decode_micro :
    decodeUop 0x0500000000000000 = .ok (some (.mzero ⟨2, 0, 0, 0, 0⟩)) ∧
    decodeUop 0x0800200000000000 = .ok (some (.mlda ⟨0, 0, 0, 1, 0⟩)) ∧
    decodeUop 0x0F00000000000000 = .ok (some (.mldb ⟨6, 0, 0, 0, 0⟩)) ∧
    decodeUop 0x1140000000000000 = .ok (some (.mmac ⟨2, 4, 0, 0, 0⟩)) ∧
    decodeUop 0x1D5C000000000000 = .ok (some (.mout ⟨2, 5, 6, 0, 0⟩)) ∧
    decodeUop 0x3400000000000000 = .ok (some (.mret ⟨0, 0, 0, 0, 0⟩)) := ⟨rfl, rfl, rfl, rfl, rfl, rfl⟩
/-- Chapter 14: the batch of the worked example. -/
theorem test_decode_packets :
    decodePkt 0 3 [0x100001, 0, 0, 0, 0, 0, 0, 0] = .ok (.beginBatch ⟨0, 3, false, 0x10⟩) ∧
    decodePkt 0 3 [0x110003, 0x1000, 0, 0, 0, 0, 0, 0] = .ok (.launchPkt ⟨0, 3, false, 0x11⟩ 0x1000 0 0) ∧
    decodePkt 0 3 [0x120006, 0x40, 0xFFFFFFFFFFFFFFFF, 1, 0, 0, 0, 0] =
      .ok (.waitmemPkt ⟨0, 3, false, 0x12⟩ 0x40 0xFFFFFFFFFFFFFFFF 1 0 0) ∧
    decodePkt 0 3 [0x140009, 0x48, 1, 0, 0, 0, 0, 0] = .ok (.signalPkt ⟨0, 3, false, 0x14⟩ 0x48 1 false false 0) ∧
    decodePkt 0 3 [0x150002, 0, 0, 0, 0, 0, 0, 0] = .ok (.commitBatch ⟨0, 3, false, 0x15⟩) ∧
    decodePkt 0 3 [0x15000B, 0, 0, 0, 0, 0, 0, 0] = .error .badType := ⟨rfl, rfl, rfl, rfl, rfl, rfl⟩
/-- Reserved encodings are refused (R15, R17, R25, R43). -/
theorem test_decode_reserved :
    bundleParcels 0x4000000006000600 = none ∧ decodeMx 1 = .error .illSlot ∧ decodeCp 1 = .error .illSlot ∧
    decodeSlot .sc 0x0601 0 = .error .illSlot ∧ decodeSlot .sc 0 (word4 0 (1 * 2 ^ 0) 0 0) = .error .illSlot ∧
    decodeUop 0x0500100000000001 = .error .badWord := ⟨rfl, rfl, rfl, rfl, rfl, rfl⟩

/-! ### Control operations (R22, R70 to R82) -/

/-- S5 = 0x80 and S63 = 0x40 before the bundle. -/
def sCtl : State := st (core0 (regs [(5, 0x80), (8, 11), (63, 0x40)] 0))
theorem test_br_target : nearTarget 0x100 (BitVec.toInt (0x7FFFA : BitVec 19)) = some 0xD0 ∧
    goes (exec (.br 0 0x7FFFA) sCtl) = some 0xD0 ∧ goes (exec (.brx 0 5) sCtl) = some 0x80 ∧
    goes (exec (.ret 0) sCtl) = some 0x40 ∧ goes (exec (.swapi 0 3) sCtl) = some 0x20018 ∧
    goes (exec (.nop 0) sCtl) = some 0x110 ∧ goes (exec (.waitb 0 5) sCtl) = some 0x110 := by decide
theorem test_call_links : goes (exec (.call 0 2) sCtl) = some 0x110 ∧
    ok (exec (.call 0 4) sCtl) (fun t => (t.here.ctx 0).regs.rS 63 == 0x110) = true := by decide
/-- A guard that reads false: P1 is false. -/
theorem test_guard_off : (iss (regs [] 0)).pre.rP (guardOf (.br 1 4)).toNat = false ∧ goes (exec (.br 1 4) sCtl) = some 0x110 := by decide
theorem test_loop_zero : (iss (regs [] 0)).pre.rS 9 = 0 ∧ goes (exec (.loop 0 2 9) sCtl) = some 0x118 := by decide
theorem test_loop_opens : (iss (regs [(5, 0x80)] 0)).pre.rS 5 ≠ 0 ∧ ok (exec (.loop 0 2 5) sCtl) (fun t =>
    let c := t.here.ctx 0
    c.rC 0x48 == 1 && c.rC 0x49 == 0x110 && c.rC 0x4A == 0x110 && c.rC 0x4B == 0x80) = true := by decide
/-- Inside one loop level with `n` passes left. -/
def sLoop (n : W64) : State :=
  let csr : Tab W64 := [(0x48, 1), (0x49, 0x90), (0x4A, 0x100), (0x4B, n)]
  st { core0 (regs [] 0) with issue := some { iss (regs [] 0) with csr := csr }, ctxs := [(0, { ctx0 (regs [] 0) with csr := csr })] }
theorem test_lend_back : goes (exec (.lend 0) (sLoop 2)) = some 0x90 ∧
    ok (exec (.lend 0) (sLoop 2)) (fun t => (t.here.ctx 0).rC 0x4B == 1 && (t.here.ctx 0).rC 0x48 == 1) = true := by decide
theorem test_lend_out : goes (exec (.lend 0) (sLoop 1)) = some 0x110 ∧
    ok (exec (.lend 0) (sLoop 1)) (fun t => (t.here.ctx 0).rC 0x48 == 0) = true := by decide
/-- Context 2 IDLE beside it, context 3 READY. -/
def sFour (c3 : CState) : State := st { core0 (regs [(8, 11)] 0) with ctxs := [(0, ctx0 (regs [(8, 11)] 0)), (2, { Ctx.zero with st := .idle }), (3, { Ctx.zero with st := c3 })] }
theorem test_spawn : nearTarget 0x100 (BitVec.toInt (4 : BitVec 17)) = some 0x120 ∧ (2 : BitVec 2).toNat ≠ 0 ∧
    (sFour .idle).here.selected = some 0 ∧ ((sFour .idle).here.ctx 0).st = .issuing ∧
    ok (exec (.spawn 0 4 2) (sFour .idle)) (fun t => let c := t.here.ctx 2
      c.st == .ready && c.pc == 0x120 && c.regs.rS 8 == 11 && c.hold == some (0, 5)) = true := by decide
theorem test_halt_yield_ready : (sFour .ready).here.nextReady 0 = some 3 ∧
    ok (exec (.halt 0) (sFour .ready)) (fun t => (t.here.ctx 0).st == .halting && t.here.selected == some 3) = true ∧
    ok (exec (.yield 0) (sFour .ready)) (fun t => (t.here.ctx 0).st == .ready && (t.here.ctx 3).st == .issuing &&
      t.here.rC 0x51 == 1) = true := by decide
theorem test_halt_yield_alone : (sFour .idle).here.nextReady 0 = none ∧
    ok (exec (.halt 0) (sFour .idle)) (fun t => (t.here.ctx 0).st == .halting && t.here.selected == none) = true ∧
    ok (exec (.yield 0) (sFour .idle)) (fun t => (t.here.ctx 0).st == .issuing) = true := by decide
theorem test_waits_begin :
    ok (exec (.dbar 0 2) sCtl) (fun t => (t.here.ctx 0).dbar == some ⟨2, false⟩) = true ∧
    ok (exec (.fence 0 1) sCtl) (fun t => (t.here.ctx 0).fence == none) = true ∧
    ok (exec (.ifence 0) sCtl) (fun t => (t.here.ctx 0).ifence == false) = true ∧
    ok (exec (.trap 0 7) sCtl) (fun t => (t.here.issue.bind (fun b => b.swtrap)) == some 7) = true := by decide

/-! ### Scalar operations (R122 to R124, R68, R69), worked by hand at 64 bits on −7 and 3 -/

def sNeg : State := s12 (-7) 3
def op5 : Part := sc (cw 5 0)
theorem test_alu_64 : [(Instr.add op5, -4), (.sub op5, -10), (.mul op5, -21), (.mulhs op5, -1), (.mulhu op5, 2), (.and op5, 1),
    (.or op5, -5), (.xor op5, -6), (.andn op5, -8), (.shl op5, -56), (.shrl op5, 0x1FFFFFFFFFFFFFFF), (.shra op5, -1),
    (.min op5, -7), (.max op5, 3), (.minu op5, 3), (.maxu op5, -7), (.mov op5, -7), (.sel op5, -7), (.clz op5, 0),
    (.popc op5, 62)].all (fun e => s4 (exec e.1 sNeg) == some (BitVec.ofInt 64 e.2)) = true := by decide
/-- At 32 bits the sum of two most negative numbers wraps to 0, and is clamped with .sat. -/
def s32 : State := s12 0x80000000 0xFFFFFFFF80000000
theorem test_alu_32 : s4 (exec (.add (sc (cw 4 0))) s32) = some 0 ∧
    s4 (exec (.add (sc { cw 4 0 with sat := 1 })) s32) = some 0xFFFFFFFF80000000 ∧
    s4 (exec (.sub (sc { cw 4 0 with sat := 1 })) (s12 0x7FFFFFFF 0xFFFFFFFFFFFFFFFF)) = some 0x7FFFFFFF ∧
    s4 (exec (.mul (sc { cw 4 0 with sat := 1 })) (s12 0x7FFFFFFF 0xFFFFFFFFFFFFFFFE)) = some 0xFFFFFFFF80000000 := by decide
/-- S0 takes no write. -/
theorem test_s0_write : ok (exec (.add (sc { cw 5 0 with dst := .sreg 0 })) sNeg) (fun t => (t.here.ctx 0).regs.rS 0 == 0 &&
    (t.here.ctx 0).regs == (sNeg.here.ctx 0).regs) = true := by decide
/-- A field of 8 bits at 4 of 0xABCD is 0xBC. -/
theorem test_bfx_bfi : s4 (exec (.bfx (sc (cw 5 0))) (s12 0xABCD 0x804)) = some 0xBC ∧
    s4 (exec (.bfx (sc (cw 5 1))) (s12 0xABCD 0x804)) = some 0xFFFFFFFFFFFFFFBC ∧
    s4 (exec (.bfi (sc (cw 5 0))) (st (core0 (regs [(1, 0xABCD), (2, 0x12), (3, 0x804)] 0)))) = some 0xA12D := by decide
theorem test_division_holds : [Instr.divs op5, .divu op5, .rems op5, .remu op5].all (fun i =>
    ok (exec i sNeg) (fun t => t.here.divider == some ⟨i, iss (regs [(1, -7), (2, 3)] 0)⟩)) = true := by decide
/-- −7 by 3; and by 0. -/
def sDiv (i : Instr) (b : W64) : State := st { core0 (regs [(1, -7), (2, b)] 0) with issue := none, divider := some ⟨i, iss (regs [(1, -7), (2, b)] 0)⟩ }
theorem test_division : [(Instr.divs op5, 3, -2), (.rems op5, 3, -1), (.divu op5, 3, 0x5555555555555553), (.remu op5, 3, 0),
    (.divs op5, 0, -1), (.rems op5, 0, -7), (.divu op5, 0, -1), (.remu op5, 0, -7)].all (fun e =>
      s4 (exec (.dividerComplete 0) (sDiv e.1 e.2.1)) == some (BitVec.ofInt 64 e.2.2)) = true := by decide
theorem test_compares : [(Instr.cmpeq op5, false), (.cmpne op5, true), (.cmplt op5, true), (.cmpltu op5, false), (.cmple op5, true),
    (.cmpleu op5, false)].all (fun e => p3 (exec e.1 sNeg) == some e.2) = true := by decide
/-- COMB 1 and 2 with P3 true before. -/
theorem test_compare_combines :
    let s : State := st (core0 (regs [(1, 5), (2, 4)] 8))
    p3 (exec (.cmplt (sc (cw 5 1))) s) = some false ∧ p3 (exec (.cmplt (sc (cw 5 2))) s) = some true := by decide
/-- AUX[7:4] names P1, true; AUX[3:0] names P2, false. -/
theorem test_predicates :
    let s : State := st (core0 (regs [] 2))
    let p := sc (cw 0 0x12)
    [(Instr.pand p, false), (.por p, true), (.pxor p, true), (.pandn p, true), (.pmov p, true)].all
      (fun e => p3 (exec e.1 s) == some e.2) = true := by decide
theorem test_lea_aset_aget :
    let s : State := st (core0 { regs [(1, 0x1000), (2, 3), (3, 7)] 0 with a := [(6, 99)] })
    s4 (exec (.lea (sc (cw 5 4))) s) = some 0x1037 ∧ s4 (exec (.aget (sc (cw 5 6))) s) = some 99 ∧
    ok (exec (.aset (sc (cw 5 6))) s) (fun t => (t.here.ctx 0).regs.rA 6 == 0x1000) = true := by decide
theorem test_hardwired :
    let r := regs [(1, 5)] 0
    (r.wS 0 9).rS 0 = 0 ∧ (r.wP 0 false).rP 0 = true ∧ (r.wS 63 9).rS 63 = 9 ∧ (r.wP 15 true).rP 15 = true ∧
      (r.wS 63 9).rS 1 = 5 := by decide

/-! ### CSRs (R10, R67, R127, R303) -/

/-- Loop depth 2, GUARDST with PEND and COUNT, ESLOTS 5, EPC, SLOTIDX. -/
def sCsr : State := st { core0 (regs [(1, 0x100001)] 0) with ctxs := [(0, { ctx0 (regs [(1, 0x100001)] 0) with csr := [(0x48, 2), (0x78, 0x36001300004), (0xF3, 0x40), (0xF5, 5)] })] }
theorem test_csr_ops : s4 (exec (.csrr (sc (cw 0 0xF5))) sCsr) = some 5 ∧
    ok (exec (.csrw (sc (cw 0 0xF0))) sCsr) (fun t => csrRead t.mach 0 0 0xF0 == 0x1) = true ∧
    ok (exec (.csrset (sc (cw 0 0xF0))) sCsr) (fun t => csrRead t.mach 0 0 0xF0 == 0x1) = true ∧
    ok (exec (.csrclr (sc (cw 0 0xF0))) sCsr) (fun t => csrRead t.mach 0 0 0xF0 == 0) = true := by decide
theorem test_csr_rules :
    let rd := fun (n : Nat) (w : Bool) (v : W64) => csrRead (sCsr.mach.upd 0 (csrWrite 0 n w v)) 0 0 n
    rd 0x48 true 1 = 1 ∧ rd 0x48 true 3 = 2 ∧ rd 0xF5 true 4 = 1 ∧ rd 0xF5 false 4 = 5 ∧ rd 0xF3 true 0x80 = 0x40 ∧
      rd 0x78 false 0x100000 = csrRead sCsr.mach 0 0 0x78 ∧ rd 0x78 true 0x100000 = 0x60001200004 &&& ~~~0x0000FFFF00100000 := by decide

/-! ### Memory (R9, R115, R125, R126, R232, R241 to R244, R313 to R315) -/

/-- A tenant's tables: context table at 0x1_0000, root at 0x2_0000, one 1 GiB page on address 0, readable, writable, atomic. -/
def tables : Tab Byte := [(0x10010, 1), (0x10012, 2), (0x20000, 1), (0x20002, 3), (0x30000, 0x1F)]
/-- A machine with core 0 as given, tenant 1 of host 0, the tables in use on die 0, and bytes in near DRAM. -/
def mm (k : Core) (bs : Tab Byte) : State :=
  ⟨{ State.reset.mach with cores := [(0, k)], dieRegs := [(0x300, 0x10001)], tenants := [(1, some 0)] }, { Mem.zero with loc := bs ++ tables }⟩
theorem test_translates : translate (mm Core.zero []) 0 1 0x1238 accAtomic = .ok 0 0x1238 true ∧
    translate (mm Core.zero []) 0 1 (2 ^ 56) accRead = .fail 3 ∧ translate (mm Core.zero []) 0 2 0 accRead = .fail 0 ∧
    (mm Core.zero []).mem.wf = true := by decide
/-- A load of INT16 at S1 + S2 = 0x1002 into S4, under way. -/
def opLd : Part := sc { cw 3 0 with src2 := .lit false, src3 := nil', lit0 := 2 }
def rMem : Regs := regs [(1, 0x1000), (3, 0x1122334455667788)] 0
def kLoad : Core := { core0 rMem with issue := none, loads := [⟨.ld opLd, iss rMem⟩] }
def sLoad : State := mm kLoad [(0x1002, 0xFE), (0x1003, 0xFF)]
theorem test_ld_issues : ok (exec (.ld opLd) (mm (core0 rMem) [])) (fun t => t.here.loads == [⟨.ld opLd, iss rMem⟩]) = true := by decide
/-- The two bytes FE FF read as −2. -/
theorem test_load_completes :
    let k := sLoad.mach.core 0
    accessAddr rMem (k.ctx 0).cbank 0x40 opLd = 0x1002 ∧ translate sLoad 0 1 0x1002 accRead = .ok 0 0x1002 true ∧
    accessHeld sLoad 0 (iss rMem) 0 0x1002 2 = false ∧
    sLoad.mem.poisoned 0 0x1002 = false ∧ uliLost sLoad.mach 0 0 = false ∧
    s4 (exec (.loadComplete 0 0) sLoad) = some 0xFFFFFFFFFFFFFFFE := by decide
/-- A store of the low 4 bytes of S3 at 0x1004, posted. -/
def opSt : Part := sc { cw 4 0 with src2 := .lit false, dst := nil', lit0 := 4 }
theorem test_st_issues : ok (exec (.st opSt) (mm (core0 rMem) [])) (fun t => t.here.stores == [⟨⟨.st opSt, iss rMem⟩, 0x1004, 4, 0x1122334455667788⟩]) = true := by decide
def pSt : PStore := ⟨⟨.st opSt, iss rMem⟩, 0x1004, 4, 0x1122334455667788⟩
def sStore : State := mm { core0 rMem with issue := none, stores := [pSt] } []
theorem test_store_performs :
    translate sStore 0 1 0x1004 accWrite = .ok 0 0x1004 true ∧ storeTarget 0 0 sStore = some (0, 0x1004, 4) ∧
    accessHeld sStore 0 (iss rMem) 0 0x1004 4 = false ∧ uliLost sStore.mach 0 0 = false ∧
    ok (exec (.storePerform 0 0) sStore) (fun t => t.mem.bytes 0 0x1003 6 == [0, 0x88, 0x77, 0x66, 0x55, 0] &&
      (t.mach.core 0).stores == []) = true := by decide
/-- Chapter 5: S2 = 0x5FF8, S5 = 0x1122_3344_5566_7788, `stsp` at S2 + 8 and what a byte of it reads. -/
def opSp : Part := sc { cw 5 0 with src1 := .sreg 2, src2 := .lit false, src3 := .sreg 5, lit0 := 8 }
def sSp : State := st (core0 (regs [(2, 0x5FF8), (5, 0x1122334455667788)] 0))
theorem test_scratchpad_store : sSp.mach.racing 0 0x6000 8 = false ∧
    ok (exec (.stsp opSp) sSp) (fun t => t.here.spBytes 0x6000 2 == [0x88, 0x77]) = true := by decide +kernel
/-- The byte 88 of 0x6000 under way into S4, and the same with a tile part at work on the position. -/
def opSpLd : Part := { opSp with cw := { opSp.cw with etype := 1 } }
def kSpLd : Core := { core0 (regs [(2, 0x5FF8)] 0) with issue := none, loads := [⟨.ldsp opSpLd, iss (regs [(2, 0x5FF8)] 0)⟩], spad := [(6, 0x88)] }
theorem test_scratchpad_load : kSpLd.badGranule 0x6000 1 = none ∧ (st kSpLd).mach.racing 0 0x6000 1 = false ∧
    s4 (exec (.loadComplete 0 0) (st kSpLd)) = some 0xFFFFFFFFFFFFFF88 := by decide +kernel
/-- An STSP while a fill of slot 6 is under way leaves the position raced. -/
def kRace : Core := { (sSp.here) with fills := [⟨0, 2, 2, .present, 7, none⟩], ctxs := [(0, { sSp.here.ctx 0 with queues := [(2, { Queue.zero with alloc := true, base := 4, logcap := 2 })] })] }
theorem test_scratchpad_race : (st kRace).mach.racing 0 0x6000 8 = true ∧
    ok (exec (.stsp opSp) (st kRace)) (fun t => t.here.raced == [(0x6000, 8, 0)]) = true := by decide +kernel
/-- A granule with an uncorrectable error makes LDSP a slot fault. -/
def sSpBad : State := st { kSpLd with poisoned := [(.spadBytes, 0x6000)] }
theorem test_scratchpad_error : sSpBad.here.badGranule 0x6000 1 = some 0x6000 ∧
    ok (exec (.loadComplete 0 0) sSpBad) (fun t => ((t.here.ctx 0).waiting.map (fun r => (r.code, r.eaddr))) == [(0x14, 0x6000)]) = true := by decide
/-- The atomics on 8 bytes holding 6 with S3 = 10 and S2 = 6, at 0x2000. -/
def opAmo : Part := sc { cw 5 0 with src2 := .lit false, lit0 := 0 }
def opCas : Part := sc { cw 5 0 with src1 := .sreg 1 }
def rAmo (e : W64) : Regs := regs [(1, 0x2000), (2, e), (3, 10)] 0
def sAmo (i : Instr) (e : W64) : State := mm { core0 (rAmo e) with issue := none, atomics := [⟨i, iss (rAmo e)⟩] } [(0x2000, 6)]
theorem test_atomics_issue : [Instr.amoadd opAmo, .amoswap opAmo, .amocas opCas, .amold opAmo, .amost opAmo].all (fun i =>
    ok (exec i (mm (core0 (rAmo 0)) [])) (fun t => t.here.atomics == [⟨i, iss (rAmo 0)⟩] && t.here.rC 0xC0 == 1)) = true := by decide
theorem test_atomic_hypotheses :
    let s := sAmo (.amoadd opAmo) 0
    translate s 0 1 0x2000 accAtomic = .ok 0 0x2000 true ∧ releaseHeld (s.mach.core 0) ⟨.amoadd opAmo, iss (rAmo 0)⟩ 0 = false ∧
    accessHeld s 0 (iss (rAmo 0)) 0 0x2000 8 = false ∧ s.mach.sent 0 ⟨.amoadd opAmo, iss (rAmo 0)⟩ = false ∧ s.mach.window 1 0x2000 0x60 8 = none ∧
    translate (sAmo (.amold opAmo) 0) 0 1 0x2000 accAmold = .ok 0 0x2000 true := by decide
theorem test_atomic_values : [(Instr.amoadd opAmo, 16), (.amoand opAmo, 2), (.amoor opAmo, 14), (.amoxor opAmo, 12), (.amomin opAmo, 6),
    (.amomax opAmo, 10), (.amominu opAmo, 6), (.amomaxu opAmo, 10), (.amoswap opAmo, 10), (.amold opAmo, 6)].all (fun e =>
      ok (exec (.atomicComplete 0 0) (sAmo e.1 0)) (fun t => t.mem.read 0 0x2000 8 == e.2 && (t.here.ctx 0).regs.rS 4 == 6)) = true ∧
    ok (exec (.atomicComplete 0 0) (sAmo (.amost opAmo) 0)) (fun t => t.mem.read 0 0x2000 8 == 10 && (t.here.ctx 0).regs.rS 4 == 0) = true := by
  decide

/-! ### Barriers (R224 to R228) -/

/-- Barrier 0 ALLOC with generation 0 and two references, 1 with one, 2 free with generation 3. -/
def bar0 : Barrier := { Barrier.zero with alloc := true, refcnt := 2 }
def sBar (h : W64) (b : Barrier) : State := st { core0 (regs [(1, h), (2, 2), (3, 100)] 0) with bars := [(0, b), (2, { Barrier.zero with gen := 3 })] }
/-- The handle of barrier 0: bit 22 set, WEPOCH 1. -/
def h0 : W64 := 0xC00000
theorem test_baralloc : (sBar h0 bar0).here.bar 1 = Barrier.zero ∧ (sBar h0 bar0).here.handle h0 = some 0 ∧
    s4 (exec (.baralloc (sc (cw 0 0))) (sBar h0 bar0)) = some 0xC00001 ∧ p3 (exec (.baralloc (sc (cw 0 0))) (sBar h0 bar0)) = some true := by decide
/-- Every barrier taken: NOBAR. -/
def sFull : State := st { core0 (regs [] 0) with bars := (List.range 64).map (fun n => (n, bar0)) }
theorem test_baralloc_none : (List.range 64).all (fun n => (sFull.here.bar n).alloc) = true ∧
    s4 (exec (.baralloc (sc (cw 0 0))) sFull) = some 0x8000000000000001 ∧ p3 (exec (.baralloc (sc (cw 0 0))) sFull) = some false := by decide
theorem test_barrier_ops :
    s4 (exec (.barref (sc (cw 0 0))) (sBar h0 bar0)) = some 3 ∧ s4 (exec (.bardrop (sc (cw 0 0))) (sBar h0 bar0)) = some 1 ∧
    ok (exec (.barinit (sc (cw 0 0))) (sBar h0 bar0)) (fun t => let b := t.here.bar 0
      b.armed && b.exparr == 2 && b.expb == 100) = true ∧
    s4 (exec (.bararr (sc (cw 0 0))) (sBar h0 { bar0 with armed := true, exparr := 2, expb := 5 })) = some 0 := by decide
/-- REFMAX; counts out of range by one, and at the limit; a handle of another generation. -/
theorem test_barrier_failures :
    s4 (exec (.barref (sc (cw 0 0))) (sBar h0 { bar0 with refcnt := 255 })) = some 0x8000000000000003 ∧
    s4 (exec (.barinit (sc (cw 0 0))) (st { core0 (regs [(1, h0), (2, 65536)] 0) with bars := [(0, bar0)] })) = some 0x8000000000000004 ∧
    s4 (exec (.barinit (sc (cw 0 0))) (st { core0 (regs [(1, h0), (2, 65535), (3, 0xFFFFFFFFFFFF)] 0) with bars := [(0, bar0)] })) = some 0 ∧
    s4 (exec (.barinit (sc (cw 0 0))) (st { core0 (regs [(1, h0)] 0) with bars := [(0, bar0)] })) = some 0x8000000000000004 ∧
    s4 (exec (.bararr (sc (cw 0 0))) (st { core0 (regs [(1, h0), (2, 1), (3, 0x1000000000000)] 0) with bars := [(0, bar0)] })) = some 0x8000000000000004 ∧
    (sBar (h0 + 64) bar0).here.handle (h0 + 64) = none ∧
    s4 (exec (.bartest (sc (cw 0 0))) (sBar (h0 + 64) bar0)) = some 0x8000000000000002 := by decide
/-- Chapter 10: after one phase the word of BARTEST reads EPOCH 1 and ARMED, and the phase is reached. -/
theorem test_bartest : s4 (exec (.bartest (sc (cw 0 0))) (sBar h0 { bar0 with armed := true, epoch := 1 })) = some 0x10001 ∧
    p3 (exec (.bartest (sc (cw 0 0))) (sBar h0 { bar0 with armed := true, epoch := 1 })) = some true ∧
    ok (exec (.bartest (sc (cw 0 0))) (sBar h0 { bar0 with ovr := true })) (fun t =>
      ((t.here.ctx 0).waiting.map (fun r => (r.code, r.part))) == [(0x0D, 1)]) = true := by decide
theorem test_barrier_counts :
    let b : Barrier := { bar0 with armed := true, exparr := 1, expb := 8 }
    ((b.land 8).arrive 1).epoch = 1 ∧ (b.land 9).ovr = true ∧ ((b.land 8).arrive 2).ovr = true ∧ (bar0.land 1).ovr = true ∧
      (bar0.arrive 1).ovr = true ∧ ({ b with epoch := 65535, arrcnt := 1, landb := 8 }.check).epoch = 0 ∧
      b.reached 0 = true ∧ b.reached 1 = false ∧ ({ b with epoch := 32768 }).reached 0 = false := by decide
/-- A last reference dropped frees the barrier once its bundle has issued, generation one higher. -/
theorem test_bardrop_frees : (sBar h0 { bar0 with refcnt := 0 }).here.barNamed 0 = false ∧
    ok (exec (.bardrop (sc (cw 0 0))) (sBar h0 { bar0 with refcnt := 1 })) (fun t => t.here.bar 0 == { bar0 with refcnt := 0 } &&
      t.here.closeIssue.bar 0 == { Barrier.zero with gen := 1 } && t.here.closeIssue.handle h0 == none) = true := by decide
def sArr : State := st { Core.zero with owner := some 1, bars := [(3, { bar0 with armed := true, exparr := 1 }), (4, { bar0 with refcnt := 0 })], arrivals := [3] }
theorem test_barrier_steps : (sArr.mach.core 0).arrivals[0]? = some 3 ∧ (sArr.mach.core 0).barNamed 4 = false ∧
    ok (exec (.barrierArrive 0 0) sArr) (fun t => ((t.mach.core 0).bar 3).epoch == 1 && (t.mach.core 0).arrivals == []) = true ∧
    ok (exec (.barrierFree 0 4) sArr) (fun t => (t.mach.core 0).bar 4 == { Barrier.zero with gen := 1 }) = true := by decide

/-! ### Queues (R83 to R113) -/

/-- Chapter 4: Q2, BASE 8, capacity 4, with HEAD 2, IHEAD 2 and TAIL 5, local. -/
def q2 : Queue := { Queue.zero with alloc := true, base := 8, logcap := 2, head := 2, ihead := 2, tail := 5, shead := 2, pos := [(2, ⟨.present, false, 0, none⟩)] }
/-- A context with queue `n`, S1 and S2 given. -/
def sQ (n : Nat) (q : Queue) (a b : W64) : State :=
  let c := { ctx0 (regs [(1, a), (2, b)] 0) with queues := [(n, q)] }
  st { core0 (regs [(1, a), (2, b)] 0) with ctxs := [(0, c)] }
theorem test_queue_helpers : q2.cap = 4 ∧ q2.wrap 18 = 2 ∧ q2.dist 14 2 = 4 ∧ q2.slotOf 5 = 9 ∧ q2.lapOf 5 = 1 ∧ q2.readable = 3 ∧
    Queue.zero.readable = 0 ∧ ({ q2 with role := .target }).readable = 4 ∧ ({ q2 with role := .producer }).readable = 0 ∧
    q2.stateAt 2 = .present ∧ q2.stateAt 4 = .empty ∧ q2.stateAt 5 = .free := by decide
/-- `qalloc s9, p4, q2, #4, #8`. -/
theorem test_qalloc : (sQ 2 Queue.zero 4 8).here.runFree 8 4 = true ∧ (sQ 2 Queue.zero 4 8).here.runOneFmt 8 4 = true ∧
    s4 (exec (.qalloc (sc (cw 0 2))) (sQ 2 Queue.zero 4 8)) = some 8 ∧
    ok (exec (.qalloc (sc (cw 0 2))) (sQ 2 Queue.zero 4 8)) (fun t => t.here.queue 0 2 ==
      { Queue.zero with alloc := true, base := 8, logcap := 2 }) = true ∧
    s4 (exec (.qalloc (sc { cw 0 10 with src2 := nil' })) (sQ 2 Queue.zero 128 0)) = some 0 := by decide
/-- ALLOTTED, BADCAP, BADBASE by alignment and at the end of the scratchpad, SLOTSBUSY, NORUN. -/
theorem test_qalloc_failures :
    s4 (exec (.qalloc (sc (cw 0 2))) (sQ 2 q2 4 8)) = some 0x8000000000000003 ∧
    s4 (exec (.qalloc (sc (cw 0 2))) (sQ 2 Queue.zero 3 8)) = some 0x8000000000000001 ∧
    s4 (exec (.qalloc (sc (cw 0 2))) (sQ 2 Queue.zero 256 0)) = some 0x8000000000000001 ∧
    s4 (exec (.qalloc (sc (cw 0 2))) (sQ 2 Queue.zero 4 2)) = some 0x8000000000000002 ∧
    s4 (exec (.qalloc (sc (cw 0 2))) (sQ 2 Queue.zero 4 256)) = some 0x8000000000000002 ∧
    s4 (exec (.qalloc (sc (cw 0 3))) (sQ 2 q2 4 8)) = some 0x8000000000000005 := by decide
/-- A run across two banks of different formats: FMTMIX. -/
def sMix : State := st { core0 (regs [(1, 32)] 0) with csr := [(0x80, 1)] }
theorem test_qalloc_fmtmix : sMix.here.runFree 0 32 = true ∧ sMix.here.runOneFmt 0 32 = false ∧
    s4 (exec (.qalloc (sc (cw 0 2))) sMix) = some 0x8000000000000006 := by decide
theorem test_qfree : (sQ 2 q2 0 0).here.queueQuiet 0 2 = false ∧ (sQ 2 { q2 with tail := 2, pos := [] } 0 0).here.queueQuiet 0 2 = true ∧
    ok (exec (.qfree (sc (cw 0 2))) (sQ 2 { q2 with tail := 2, pos := [] } 0 0)) (fun t => t.here.queue 0 2 == Queue.zero) = true ∧
    s4 (exec (.qfree (sc (cw 0 3))) (sQ 2 q2 0 0)) = some 0x8000000000000004 ∧
    s4 (exec (.qfree (sc (cw 0 2))) (sQ 2 { q2 with role := .producer } 0 0)) = some 0x8000000000000009 ∧
    ok (exec (.qfree (sc (cw 0 2))) (sQ 2 q2 0 0)) (fun t => (t.here.ctx 0).wait.isSome) = true := by decide
theorem test_qdeq : (3 : Nat) ≤ q2.dist q2.ihead q2.tail ∧
    ok (exec (.qdeq (sc (cw 0 2))) (sQ 2 q2 3 0)) (fun t => let q := t.here.queue 0 2
      q.ihead == 5 && q.tail == 5 && q.head == 5 && q.shead == 5) = true ∧
    ok (exec (.qdeq (sc (cw 0 2))) (sQ 2 { q2 with head := 14, ihead := 14, tail := 1 } 3 0)) (fun t => (t.here.queue 0 2).ihead == 1) = true := by decide
/-- Chapter 4: the descriptor word of Q2. -/
theorem test_qstat : s4 (exec (.qstat (sc (cw 0 2))) (sQ 2 q2 0 0)) = some 0x105040140402 ∧
    s4 (exec (.qstat (sc (cw 0 0x0A))) (sQ 2 q2 0 0)) = some 2 := by decide

/-! ### Splices (R93 to R99, R105 to R111) -/

/-- What a part leaves waiting on its context. -/
def waitsOn (o : Out) : Bool := ok o (fun t => (t.here.ctx 0).wait.isSome)
def loc (q : Queue) : Queue := { q with tail := q.head, pos := [] }
def prod : Queue := { q2 with role := .producer, partner := 0x1405, pos := [] }
def targ : Queue := { q2 with role := .target, partner := 0x1405 }
/-- The partner word 0x1405 is queue 1 of context 1 of core 5. -/
theorem test_partner_word : (QAddr.mk 5 1 1).word = 0x1405 ∧ QAddr.ofWord 0x1405 = ⟨5, 1, 1⟩ ∧ badPartner 0x8000 = true ∧
    badPartner 640 = true ∧ badPartner 639 = false := by decide +kernel
theorem test_splice_failures :
    s4 (exec (.qsplice (sc (cw 0 3))) (sQ 2 q2 0x1405 0)) = some 0x8000000000000004 ∧
    s4 (exec (.qsplice (sc (cw 0 2))) (sQ 2 targ 0x1405 0)) = some 0x8000000000000009 ∧
    s4 (exec (.qsplice (sc (cw 0 2))) (sQ 2 q2 0x1405 0)) = some 0x8000000000000008 ∧
    s4 (exec (.qsplice (sc (cw 0 2))) (sQ 2 (loc q2) 0x8000 0)) = some 0x800000000000000B ∧
    s4 (exec (.qsplice (sc (cw 0 2))) (sQ 2 (loc q2) 0x2000 0)) = some 0x800000000000000B ∧
    s4 (exec (.qunsplice (sc (cw 0 2))) (sQ 2 q2 0 0)) = some 0x800000000000000A ∧
    s4 (exec (.qunsplice (sc (cw 0 2))) (sQ 2 { prod with frozen := true } 0 0)) = some 0x800000000000000F ∧
    s4 (exec (.qresplice (sc (cw 0 2))) (sQ 2 q2 0 0)) = some 0x800000000000000A ∧
    s4 (exec (.qresplice (sc (cw 0 2))) (sQ 2 prod 0 0)) = some 0x800000000000000C ∧
    s4 (exec (.qresplice (sc (cw 0 2))) (sQ 2 { prod with frozen := true } 640 0)) = some 0x800000000000000B ∧
    s4 (exec (.qsave (sc (cw 0 2))) (sQ 2 targ 0 0)) = some 0x800000000000000C ∧
    s4 (exec (.qrestore (sc (cw 0 2))) (sQ 2 targ 0 0)) = some 0x8000000000000003 := by decide +kernel
theorem test_splice_starts :
    ok (exec (.qsplice (sc (cw 0 2))) (sQ 2 (loc q2) 0x1405 0)) (fun t => t.here.out == [.splice ⟨5, 1, 1⟩ ⟨0, 0, 2⟩ 1 4]) = true ∧
    ok (exec (.qunsplice (sc (cw 0 2))) (sQ 2 prod 0 0)) (fun t => t.here.out == [.unsplice ⟨5, 1, 1⟩ ⟨0, 0, 2⟩]) = true ∧
    ok (exec (.qresplice (sc (cw 0 2))) (sQ 2 { prod with frozen := true } 0x7E7F 0)) (fun t => (t.here.queue 0 2).partner == 0x7E7F) = true ∧
    ok (exec (.qthaw (sc (cw 0 2))) (sQ 2 { targ with frozen := true } 0 0)) (fun t =>
      t.here.out == [.thaw ⟨5, 1, 1⟩ ⟨0, 0, 2⟩ .target 4 5]) = true ∧
    ok (exec (.qsave (sc (cw 0 2))) (sQ 2 prod 0 0)) (fun t => t.here.out == [.marker ⟨5, 1, 1⟩ ⟨0, 0, 2⟩ 5] && (t.here.queue 0 2).freezing) = true ∧
    waitsOn (exec (.qrestore (sc (cw 0 3))) (sQ 2 q2 0 0)) = true := by decide +kernel
theorem test_freeze_thaw :
    s4 (exec (.qfreeze (sc (cw 0 2))) (sQ 2 q2 0 0)) = some 5 ∧ s4 (exec (.qthaw (sc (cw 0 2))) (sQ 2 { q2 with frozen := true } 0 0)) = some 2 ∧
    ok (exec (.qthaw (sc (cw 0 2))) (sQ 2 { q2 with frozen := true } 0 0)) (fun t => !(t.here.queue 0 2).frozen) = true ∧
    s4 (exec (.qfreeze (sc (cw 0 2))) (sQ 2 { targ with frozen := true } 0 0)) = some 5 ∧
    ok (exec (.qfreeze (sc (cw 0 2))) (sQ 2 targ 0 0)) (fun t => t.here.out == [.freezeReq ⟨5, 1, 1⟩ ⟨0, 0, 2⟩]) = true := by decide +kernel
/-- Two cores, queue 2 of context 0 of core 0 spliced with queue 1 of context 1 of core 5, and a message from core `c`. -/
def sEnds (p t : Queue) (c : Nat) (g : Msg) : State :=
  let k := fun (n x qn : Nat) (q : Queue) => { Core.zero with owner := some 1, ctxs := [(x, { Ctx.zero with queues := [(qn, q)] })],
                                                              out := if n = c then [g] else [] }
  ⟨{ State.reset.mach with cores := [(0, k 0 0 2 p), (5, k 5 1 1 t)] }, Mem.zero⟩
def pA : QAddr := ⟨0, 0, 2⟩
def tA : QAddr := ⟨5, 1, 1⟩
def tgt : Queue := { Queue.zero with alloc := true, base := 8, logcap := 2, head := 2, ihead := 2, tail := 5, shead := 2, role := .target, partner := 0x2000,
                                     pos := [(2, ⟨.present, false, 0, none⟩), (3, ⟨.present, false, 0, none⟩), (4, ⟨.void, false, 0, none⟩)] }
theorem test_has_message : (sEnds prod tgt 0 (.head pA 3)).hasMsg 0 0 (.head pA 3) := ⟨by decide, by decide, by decide⟩
theorem test_append_arrives :
    let s := sEnds prod tgt 0 (.append tA pA 5 5 .present 7 false false)
    ((s.took 0 0).core 0).releasedBefore 0 5 = true ∧ (s.took 0 0).isEnd tA pA .target = true ∧
    ((s.took 0 0).queueAt tA).canFill 5 = true ∧
    ok (exec (.spliceAppendArrive 0 0) s) (fun t => (t.mach.queueAt tA).tail == 6 && Tab.get 0 (t.mach.core 5).spad 9 == 7 &&
      Tab.get 0 (t.mach.core 5).lap 9 == 1 && (t.mach.core 0).out == []) = true := by decide +kernel
theorem test_append_dropped :
    let s := sEnds prod { tgt with alloc := false } 0 (.append tA pA 5 5 .present 7 false false)
    (s.took 0 0).isEnd tA pA .target = false ∧
    ok (exec (.spliceAppendArrive 0 0) s) (fun t => (t.mach.core 5).rC 0x74 == 1) = true := by decide +kernel
theorem test_head_advance :
    ok (exec (.headAdvertise 5 0) (sEnds prod tgt 5 (.head pA 4))) (fun t => (t.mach.queueAt pA).shead == 4 && (t.mach.queueAt pA).head == 4) = true ∧
    ok (exec (.headAdvertise 5 0) (sEnds q2 tgt 5 (.head pA 4))) (fun t => t.mach.queueAt pA == q2) = true := by decide +kernel
theorem test_freeze_messages :
    ok (exec (.freezeRequest 5 0) (sEnds prod tgt 5 (.freezeReq pA tA))) (fun t =>
      (t.mach.queueAt pA).freezing && (t.mach.core 0).out == [.marker tA pA 5]) = true ∧
    ok (exec (.freezeMarker 0 0) (sEnds prod tgt 0 (.marker tA pA 5))) (fun t =>
      (t.mach.queueAt tA).frozen && (t.mach.core 5).out == [.ack pA]) = true ∧
    ok (exec (.freezeAck 5 0) (sEnds { prod with freezing := true } tgt 5 (.ack pA))) (fun t => (t.mach.queueAt pA).frozen) = true := by decide +kernel
theorem test_thaw_messages :
    ok (exec (.thawHandshake 5 0) (sEnds { prod with frozen := true } { tgt with frozen := true, head := 4, ihead := 4 } 5
      (.thaw pA tA .target 4 5))) (fun t => (t.mach.queueAt pA).shead == 4 && !(t.mach.queueAt pA).frozen &&
      (t.mach.core 0).out == [.thawReply tA true 4]) = true ∧
    ok (exec (.thawHandshake 5 0) (sEnds prod tgt 5 (.thaw pA tA .target 4 5))) (fun t =>
      t.mach.queueAt pA == prod && (t.mach.core 0).out == [.thawReply tA false 0]) = true ∧
    ok (exec (.thawReply 5 0) (sEnds { prod with frozen := true } tgt 5 (.thawReply pA true 3))) (fun t =>
      (t.mach.queueAt pA).ihead == 3 && !(t.mach.queueAt pA).frozen) = true ∧
    ok (exec (.thawReply 5 0) (sEnds { prod with frozen := true } tgt 5 (.thawReply pA false 0))) (fun t => (t.mach.queueAt pA).frozen) = true := by
  decide +kernel
/-- Core 0 waits for the answer to its QSPLICE. -/
def sAsk (t : Queue) (cap : Nat) : State :=
  let s := sEnds (loc q2) t 0 (.splice tA pA 1 cap)
  s.onCore 0 (fun k => k.upd 0 (fun c => { c with wait := some ⟨.qsplice (sc (cw 0 2)), iss Regs.zero⟩ }))
def tloc : Queue := { tgt with role := .loc, partner := 0 }
theorem test_splice_message :
    ok (exec (.spliceRequest 0 0) (sAsk tloc 4)) (fun t => (t.mach.queueAt tA).role == .target && (t.mach.queueAt pA).tail == 5 &&
      (t.mach.queueAt pA).shead == 2 && (t.mach.queueAt pA).partner == 0x1405 && ((t.mach.core 0).ctx 0).answer == some 5) = true ∧
    ok (exec (.spliceRequest 0 0) (sAsk tloc 8)) (fun t => t.mach.queueAt tA == tloc &&
      ((t.mach.core 0).ctx 0).answer == some 0x800000000000000B) = true := by decide +kernel
theorem test_unsplice_message :
    ok (exec (.unspliceRequest 0 0) (sEnds prod tgt 0 (.unsplice tA pA))) (fun t => (t.mach.queueAt tA).role == .loc &&
      (t.mach.queueAt tA).shead == 2 && (t.mach.queueAt pA).role == .loc && (t.mach.queueAt pA).tail == 0) = true := by decide +kernel
/-- A fill that waited lands; one of a freed queue is dropped; a marked position that has been read is consumed. -/
def sFillQ (q : Queue) : State := st { Core.zero with owner := some 1, fills := [⟨0, 2, 5, .present, 9, none⟩], ctxs := [(0, { Ctx.zero with queues := [(2, q)] })] }
theorem test_fills : q2.dist q2.head 5 < q2.cap ∧
    ok (exec (.fillLand 0 0) (sFillQ q2)) (fun t => Tab.get 0 (t.mach.core 0).spad 9 == 9 && (t.mach.core 0).fills == []) = true ∧
    ok (exec (.fillLand 0 0) (sFillQ Queue.zero)) (fun t => (t.mach.core 0).rC 0x74 == 1 && (t.mach.core 0).fills == []) = true := by decide +kernel
def qRead : Queue := { q2 with ihead := 4, pos := [(2, ⟨.present, true, 0, none⟩), (3, ⟨.void, true, 0, none⟩)] }
theorem test_reads_complete :
    ok (exec (.readComplete 0 0 2 2) (sQ 2 { qRead with ihead := 3 } 0 0)) (fun t => (t.here.queue 0 2).head == 3) = true ∧
    ok (exec (.readComplete 0 0 2 3) (sQ 2 qRead 0 0)) (fun t => (t.here.queue 0 2).head == 2 && ((t.here.queue 0 2).cell 3).st == .consumed) = true := by
  decide +kernel
/-- Waiting operations complete. -/
def sWait (i : Instr) (q : Queue) (a : Option W64) : State :=
  (sQ 2 q 0 0).onCore 0 (fun k => k.upd 0 (fun c => { c with wait := some ⟨i, iss Regs.zero⟩, answer := a }))
theorem test_waits_complete :
    ok (exec (.bundleUnblock 0 0) (sWait (.qfree (sc (cw 0 2))) (loc q2) none)) (fun t => t.here.queue 0 2 == Queue.zero && (t.here.ctx 0).regs.rP 3) = true ∧
    s4 (exec (.bundleUnblock 0 0) (sWait (.qfreeze (sc (cw 0 2))) { targ with frozen := true } none)) = some 5 ∧
    s4 (exec (.bundleUnblock 0 0) (sWait (.qsplice (sc (cw 0 2))) prod (some 5))) = some 5 ∧
    s4 (exec (.bundleUnblock 0 0) (sWait (.qthaw (sc (cw 0 2))) prod (some 0x800000000000000D))) = some 0x800000000000000D ∧
    p3 (exec (.bundleUnblock 0 0) (sWait (.qthaw (sc (cw 0 2))) prod (some 0x800000000000000D))) = some false := by decide +kernel
/-- Chapter 19: the first bytes of Q4's record, here a target end with BASE 32, capacity 8. -/
def q4 : Queue := { Queue.zero with alloc := true, base := 32, logcap := 3, role := .target, frozen := true, head := 2, ihead := 2, tail := 4, shead := 2 }
theorem test_record_word : bitsOf q4.recWord 15 0 = 0x3320 := by decide +kernel

/-! ### Lanes (R179 to R207) -/

/-- Operation inputs of 256 bits. -/
def vin (o : Nat) (f : Fmt) (c : Cw) (a b d : List Nat) : VIn :=
  ⟨o, va 0 c, f, 256, 256, [⟨packElems f.width a, 256⟩, ⟨packElems f.width b, 256⟩, ⟨packElems f.width d, 256⟩], 0, 0, .rne, false, f, 2, 0, 0, 0⟩
/-- The first `n` elements of a result. -/
def firstOf (r : VRes) (n e : Nat) : Option (List Nat) := r.bits.map (fun b => (List.range n).map (fun i => elemAt b i e))
def v0 : Cw := { vaddOk with src2 := nil' }
/-- INT8: 127 + 1 wraps and saturates, the most negative number keeps under VABS, the shifts take the amount modulo 8. -/
theorem test_integer_lanes :
    [0x101, 0x102, 0x103, 0x104, 0x105, 0x106, 0x107, 0x108, 0x109, 0x10A, 0x10B, 0x10C, 0x10D, 0x10E, 0x10F, 0x110, 0x111, 0x112,
      0x113, 0x114].map (fun o => firstOf (vintOp (vin o .int8 v0 [127, 0x80] [1, 9] [3, 3])) 2 8) =
    [some [0x80, 0x89], some [126, 0x77], some [127, 0x80], some [0, 0xFB], some [0, 4], some [1, 0x80], some [127, 9], some [1, 9],
      some [127, 0x80], some [1, 0], some [127, 0x89], some [126, 0x89], some [0xFE, 0], some [63, 0x40], some [63, 0xC0],
      some [127, 0x80], some [0x81, 0x80], some [127, 0x80], some [1, 9], some [0x82, 0x83]] := by decide +kernel
theorem test_saturating_lanes :
    firstOf (vintOp { vin 0x101 .int8 v0 [127, 0x80] [1, 0xFF] [] with sat := true }) 2 8 = some [127, 0x80] ∧
    firstOf (vintOp { vin 0x103 .int64 v0 [2 ^ 62] [2] [] with sat := true }) 1 64 = some [2 ^ 63 - 1] ∧
    firstOf (vintOp { vin 0x102 .uint8 v0 [3, 200] [5, 100] [] with sat := true }) 2 8 = some [0, 100] ∧
    firstOf (vintOp { vin 0x114 .uint8 v0 [16, 2] [16, 3] [0, 4] with sat := true }) 2 8 = some [255, 10] := by decide +kernel
/-- Chapter 8: the mask of 0x3F00_0000 and below keeps elements 0, 2 and 4; count, pack, first; compaction. -/
def scores : List Nat := [0x3F600000, 0x3E800000, 0x3F000000, 0x3F000000 - 1, 0x3F400000, 0, 0, 0]
def msk : List Nat := [0xFFFFFFFF, 0, 0xFFFFFFFF, 0, 0xFFFFFFFF, 0, 0, 0]
theorem test_vfcmple : firstOf (vfcmpOp { vin 0x222 .fp32 v0 (List.replicate 8 0x3F000000) scores [] with p := va 0 { v0 with pdst := 2 } }) 8 32 = some msk ∧
    (vfcmpOp { vin 0x222 .fp32 v0 (List.replicate 8 0x3F000000) scores [] with p := va 0 { v0 with pdst := 2 } }).pred = some true := by decide +kernel
theorem test_mask_lanes : (vmaskOp (vin 0x142 .int32 v0 msk [] [])).bits = some 3 ∧ (vmaskOp (vin 0x142 .int32 { v0 with aux := 1 } msk [] [])).bits = some 0x15 ∧
    (vmaskOp (vin 0x142 .int32 { v0 with aux := 2 } msk [] [])).bits = some 0 ∧ (vmaskOp (vin 0x142 .int32 { v0 with aux := 2 } [] [] [])).bits = some 8 ∧
    firstOf (vmaskOp (vin 0x143 .int32 v0 msk [] [])) 8 32 = some [0, 1, 1, 2, 2, 3, 3, 3] := by decide +kernel
theorem test_compact_expand :
    firstOf (vmaskOp (vin 0x140 .int32 v0 msk [10, 11, 12, 13, 14, 15, 16, 17] [])) 8 32 = some [10, 12, 14, 0, 0, 0, 0, 0] ∧
    firstOf (vmaskOp (vin 0x141 .int32 v0 msk [10, 11, 12, 13, 14, 15, 16, 17] [])) 8 32 = some [10, 0, 11, 0, 12, 0, 0, 0] := by decide +kernel
theorem test_lane_compares : [0x120, 0x121, 0x122, 0x123, 0x124, 0x125].map (fun o => firstOf (vcmpOp (vin o .int16 v0 [0xFFFF, 2] [1, 2] [])) 2 16) =
    [some [0, 0xFFFF], some [0xFFFF, 0], some [0xFFFF, 0], some [0, 0], some [0xFFFF, 0xFFFF], some [0, 0xFFFF]] ∧
    (vcmpOp (vin 0x120 .int16 { v0 with aux := 1 } [0xFFFF] [1] [])).pred = some false ∧ (vcmpOp (vin 0x120 .int16 v0 [0xFFFF] [1] [])).pred = some true := by
  decide +kernel
/-- Reductions into a scalar and into element 0. -/
def sr : Cw := { v0 with dst := .sreg 4 }
theorem test_reductions : [0x130, 0x131, 0x132, 0x133, 0x134].map (fun o => (vredOp (vin o .int64 sr [2 ^ 64 - 5, 3, 9, 1] [] [])).bits) =
    [some 8, some (2 ^ 64 - 5), some 9, some 1, some (2 ^ 64 - 5)] ∧
    [0x130, 0x131, 0x134].map (fun o => (vredOp (vin o .int32 sr [0xFFFFFFFF, 0xFFFFFFFF, 0, 0, 0, 0, 0, 0] [] [])).bits) =
      [some (2 ^ 64 - 2), some (2 ^ 64 - 1), some 0xFFFFFFFF] ∧
    (vredOp (vin 0x130 .int32 v0 [0xFFFFFFFF, 3] [] [])).bits = some 2 := by decide +kernel
/-- Chapter 9: the constants of q = 97 and the products of the worked example. -/
theorem test_modular_helpers : kLow 97 = 11600529778312192253 ∧ kLow 0 = 0 ∧ kFull 97 5 = 190172619316593315 * 2 ^ 64 + 5 ∧
    mulC 5 22 4183797624965052943 97 = 13 ∧ addM 3 13 97 = 16 ∧ subM 3 13 97 = 87 ∧ modRed 880 97 (kLow 97) = 7 ∧
    modRed (96 * 96) 97 (kLow 97) = 1 ∧ modRed (2 ^ 128 - 1) (2 ^ 62 - 1) (kLow (2 ^ 62 - 1)) = (2 ^ 128 - 1) % (2 ^ 62 - 1) ∧
    modRed 5 1 (kLow 1) = 0 ∧ mulC (2 ^ 64 - 1) (2 ^ 62 - 2) ((2 ^ 62 - 2) * 2 ^ 64 / (2 ^ 62 - 1)) (2 ^ 62 - 1) =
      (2 ^ 64 - 1) * (2 ^ 62 - 2) % (2 ^ 62 - 1) ∧ modRed (2 ^ 64 + 3) 0 7 = 3 := by decide +kernel
def tw (w c : Nat) : List Nat := [w, c, w, c]
def m97 (v : VIn) : VIn := { v with m := BitVec.ofNat 1024 (packElems 64 (List.replicate 16 97)), k := BitVec.ofNat 1024 (packElems 64 (List.replicate 16 (kLow 97))) }
theorem test_modular_lanes :
    firstOf (vbflyOp (m97 (vin 0x305 .mod64 v0 [3, 5, 7, 11] (tw 22 4183797624965052943) []))) 4 64 = some [16, 87, 55, 56] ∧
    firstOf (xmoveOp (vin 0x342 .mod64 v0 [16, 87, 55, 56] [] [])) 4 64 = some [55, 56, 16, 87] ∧
    firstOf (vmodOp (m97 (vin 0x303 .mod64 v0 [16, 87, 55, 56] [55, 56, 16, 87] []))) 4 64 = some [7, 22, 7, 22] ∧
    firstOf (vbflyOp (m97 (vin 0x306 .mod64 v0 [7, 22, 7, 22] (tw 75 14262946448744498672) []))) 4 64 = some [29, 39, 29, 39] ∧
    firstOf (vmodOp (m97 (vin 0x304 .mod64 v0 [29, 39, 29, 39] (List.replicate 4 49) (List.replicate 4 9318458346513072465)))) 4 64 =
      some [63, 68, 63, 68] ∧
    firstOf (vmodOp (m97 (vin 0x301 .mod64 v0 [96, 3] [1, 4] []))) 2 64 = some [0, 7] ∧
    firstOf (vmodOp (m97 (vin 0x302 .mod64 v0 [0, 3] [1, 3] []))) 2 64 = some [96, 0] ∧
    firstOf (vresOp (m97 (vin 0x308 .mod64 { v0 with aux := 1 } [100, 2 ^ 64 - 1] [] []))) 2 64 = some [3, 96] ∧
    firstOf (vresOp (m97 (vin 0x309 .mod64 v0 [48, 49] [] []))) 2 64 = some [48, 2 ^ 64 - 48] := by decide +kernel
theorem test_modulus_pairs :
    (vmodsetOp (vin 0x30A .mod64 { v0 with aux := 1 } (List.replicate 4 97) [] [])).pair.map (fun e => (elemAt e.1.toNat 15 64, elemAt e.2.toNat 15 64)) =
      some (97, 11600529778312192253) ∧
    (vmodgetOp (m97 (vin 0x30B .mod64 { sr with aux := 30 } [] [] []))).bits = some 97 := by decide +kernel
/-- R203: PAIR at stage 1 of 8 takes 0, 2, 1, 3, ...; UNPAIR undoes it; bit reversal. -/
theorem test_permutations : (List.range 8).map (permIndex 0 1 8) = [0, 2, 1, 3, 4, 6, 5, 7] ∧ (List.range 8).map (permIndex 0 2 8) = [0, 4, 1, 5, 2, 6, 3, 7] ∧
    (List.range 8).map (permIndex 1 2 8) = [0, 2, 4, 6, 1, 3, 5, 7] ∧ (List.range 8).map (permIndex 2 0 8) = [0, 4, 2, 6, 1, 5, 3, 7] ∧
    firstOf (vpermOp (vin 0x307 .mod64 { v0 with aux := 2 } [1, 2, 3, 4] [] [])) 4 64 = some [1, 3, 2, 4] := by decide +kernel
/-- R193: four elements a, b, c, d and e, f, g, h. -/
theorem test_crossbar_moves :
    firstOf (xmoveOp (vin 0x341 .int64 { v0 with aux := 3 } [1, 2, 3, 4] [5, 6, 7, 8] [])) 4 64 = some [4, 4, 4, 4] ∧
    firstOf (xmoveOp (vin 0x342 .int64 v0 [1, 2, 3, 4] [5, 6, 7, 8] [])) 4 64 = some [3, 4, 1, 2] ∧
    firstOf (xmoveOp (vin 0x343 .int64 { v0 with aux := 1 } [1, 2, 3, 4] [5, 6, 7, 8] [])) 4 64 = some [3, 7, 4, 8] ∧
    firstOf (xmoveOp (vin 0x344 .int64 { v0 with aux := 1 } [1, 2, 3, 4] [5, 6, 7, 8] [])) 4 64 = some [2, 4, 6, 8] ∧
    firstOf (xmoveOp (vin 0x345 .int64 { v0 with aux := 1 } [1, 2, 3, 4] [5, 6, 7, 8] [])) 4 64 = some [1, 3, 2, 4] := by decide +kernel
/-- R194: source 0 to place 3, source 2 to place 0, the others dropped. -/
def pat : Cw := { v0 with src2 := .lit false, lit0 := 0x8080808080808080, lit1 := 0x8080808080008003 }
theorem test_xperm : xpermPattern pat 0 4 = [3, 0x80, 0, 0x80] ∧
    firstOf (xpermOp (vin 0x340 .int64 pat [1, 2, 3, 4] [] [])) 4 64 = some [3, 0, 0, 1] ∧
    firstOf (xpermOp (vin 0x340 .int64 { pat with src3 := .vreg 1 } [1, 2, 3, 4] [] [9, 9, 9, 9])) 4 64 = some [3, 9, 9, 1] := by decide +kernel
theorem test_tapered : (decodeTF 0x20 6).isNan = true ∧ (decodeTF 0x0D 6).toQ.num * 8 = 5 * (decodeTF 0x0D 6).toQ.den := by decide +kernel
/-- A VADD of V1 and V2 starts with its writes computed; a void source, POISON and a lap mismatch; the second part of a split bundle. -/
def vk (st' : PSt) (lap : Nat) : Core :=
  let k := core0 Regs.zero
  let b := { iss Regs.zero with vpool := [(1, 7), (2, 5)], reads := [⟨2, 2, 0, 2, false⟩] }
  { k with issue := some b, vpool := b.vpool, csr := [(0x80, 4)], lap := if lap = 0 then [] else [(10, lap)], spad := [(10, 5)],
           ctxs := [(0, { ctx0 Regs.zero with queues := [(2, { q2 with pos := [(2, ⟨st', false, 1, none⟩)] })] })] }
def vaddRR : Instr := .vadd (va 0 vaddOk)
def vaddQ : Part := va 0 { vaddOk with src2 := .queue 2 0 false, dst := .vreg 3 }
theorem test_lane_starts :
    ok (exec vaddRR (st { vk .present 0 with issue := some { iss Regs.zero with vpool := [(1, 7), (2, 5)] } })) (fun t =>
      t.here.vparts.map (fun v => v.writes) == [[.vreg 3 256 12]]) = true ∧
    ok (exec (.vadd vaddQ) (st (vk .present 0))) (fun t => t.here.vparts.length == 1) = true ∧
    ok (exec (.vadd vaddQ) (st (vk .void 0))) (fun t => t.here.vparts == [] && (t.here.ctx 0).rC 0x55 == 1) = true ∧
    ok (exec (.vadd vaddQ) (st (vk .poison 0))) (fun t => (t.here.ctx 0).waiting.map (fun r => (r.code, r.part)) == [(cQPOISON, 2)]) = true ∧
    ok (exec (.vadd vaddQ) (st (vk .present 3))) (fun t => (t.here.ctx 0).waiting.map (fun r => (r.code, r.part)) == [(cQLAP, 2)]) = true ∧
    ok (exec (.vadd ⟨.vb, 0, false, 0, 0, vaddOk⟩) (st { vk .present 0 with issue := some { iss Regs.zero with split := true } }))
      (fun t => t.here.vparts.map (fun v => v.waiting) == [true]) = true := by decide +kernel
/-- What started is written where its part completes: bits 255:0 of V3. -/
theorem test_part_completes :
    ok (exec (.vectorPartComplete 0 0) (st { core0 Regs.zero with vpool := [(3, 2 ^ 256 + 1)], vparts := [⟨⟨vaddRR, iss Regs.zero⟩, false, [.vreg 3 256 12]⟩] }))
      (fun t => Tab.get 0 (t.mach.core 0).vpool 3 == BitVec.ofNat 1024 (2 ^ 256 + 12) && (t.mach.core 0).vparts == []) = true := by decide +kernel

/-! ### Encoding, reset, a step -/

theorem test_encodes : decodeWords (encode (.add (sc addOk))) = some (.add (sc addOk)) ∧ decodeWords (encode (.vadd (va 2 vaddOk))) = some (.vadd (va 2 vaddOk)) ∧
    decodeWords (encode (.cplin cpOk')) = some (.cplin cpOk') ∧ decodeWords (encode (.br 2 0x7FFFA)) = some (.br 2 0x7FFFA) ∧
    decodeWords (encode (.mcall 3 true 0x81 0x40)) = some (.mcall 3 true 0x81 0x40) ∧ decodeWords (encode (.mzero ⟨2, 0, 0, 0, 0⟩)) = some (.mzero ⟨2, 0, 0, 0, 0⟩) ∧
    decodeWords (encode (.beginBatch hd)) = some (.beginBatch hd) ∧ encode (.dividerComplete 0) = .none := by decide +kernel
theorem test_reset : State.reset.mem.wf = true ∧ State.reset.mach.dieReg 3 0x120 = 0x640 ∧ State.reset.mach.dieReg 3 0x128 = 0 ∧
    State.reset.mach.dieReg 0 0x140 = 0x3FFFFFFFFFFF ∧ State.reset.mem.l2sel 2 51 = 1 := by decide +kernel
/-- With nothing placed the first step is bring-up. -/
theorem test_first_step : (match turn State.reset with
     | .bringUp => true
     | _ => false) = true ∧ ok (step State.reset) (fun t => t.mem == Mem.zero) = true := by decide +kernel
/-- The third and fourth steps of bring-up. -/
def booting (n : Nat) : State := ⟨State.reset.mach.bootstat n false 0 0x5, Mem.zero⟩
theorem test_bring_up : (booting 2).mach.unbooted = true ∧
    ok (step (booting 2)) (fun t => t.mach.portReg 0 0x018 == 0xA003 && t.mem == Mem.zero) = true ∧
    ok (step (booting 3)) (fun t => (t.mach.core 639).rtab == stdTable && (t.mach.core 639).launch == none && t.mach.portReg 1 0x018 == 0xA004 &&
      flag (t.mach.portReg 0 0x408) 16) = true := by decide +kernel
/-- A placed MCALL of a standard routine is the very next step. -/
def sMcall : State := State.reset.withFetchWord 32 0x04400000
theorem test_fetch_word : decodeTableWord 32 0x04400000 = some (.mcall 0 false 0x10 0) ∧
    (match turn sMcall with
     | .issue c x => c == 0 && x == 0
     | _ => false) = true ∧ (nextBun sMcall 0 0).1.skips (nextBun sMcall 0 0).2 = false ∧ (nextBun sMcall 0 0).1.ruling (nextBun sMcall 0 0).2 = .go ∧
    ok (step sMcall) (fun t => ((t.mach.core 0).rq.map (fun (r : Routine) => r.routine) == [0x10]) && ((t.mach.core 0).ctx 0).pc == 0x10) = true := by decide +kernel
/-- The words of one bundle decode to its parts; two parcels, none across bank 0's end. -/
theorem test_look : bundleParcels (Tab.get 0 (readyCore 0x04400000).ispad 0) = some 2 ∧
    (readyCore 0x04400000).look 0 0 = ⟨[.nop 0, .mcall 0 false 0x10 0], none, 16⟩ := by decide +kernel
/-- A sequencer's turn and a packet's turn, and an event of the agenda. -/
def up (k : Core) (t : Nat) : State :=
  let m := (State.reset.mach.setCore 0 k).bootstat 4 false 0 0
  ⟨{ m with tick := t }, Mem.zero⟩
def rou : Routine := ⟨⟨.mcall 0 false 0x81 0, iss Regs.zero⟩, 3, 0x81, 2048, [], 0, [], 0, 0, none, [], none, false, true, false, false⟩
def kSeq (w : W64) : Core :=
  { Core.zero with owner := some 1, rq := [rou], rtab := [(0x81, ⟨true, false, 2048, 1, 0, 0, 0, 0⟩)], ustore := [(2048, w)], ctxs := [(0, { Ctx.zero with acount := 4 })] }
theorem test_micro_turn : (match turn (up (kSeq 0x3400000000000000) 1) with
     | .micro c => c == 0
     | _ => false) = true ∧
    ok (step (up (kSeq 0x3400000000000000) 1)) (fun t => (t.mach.core 0).rq.map (fun (r : Routine) => r.mret) == [true]) = true := by decide +kernel
/-- Host 0's entry of queue 3: a ring of 16 packets of tenant 1, its write index 17 at 0x100. -/
def hMem : Mem := { Mem.zero with h0 := [(96, 0x14), (105, 1), (120, 1), (0x100, 17)] }
def run1 (i : Instr) : RunPkt := ⟨16, 0x10, 1, 16, none, 0, false, i⟩
def sPkt (i : Instr) : State :=
  let s := up Core.zero 2
  { mach := { s.mach with fe := [(feKey 0 3, { FeQueue.zero with tail := 17, ridx := 16, run := [run1 i], live := [] })], tenants := [(1, some 0)] }
    mem := hMem }
theorem test_packet_ok : pktOk hd.host hd.queue (run1 (.beginBatch hd)) (sPkt (.beginBatch hd)) = true := by decide +kernel
theorem test_packet_turn : (match turn (sPkt (.beginBatch hd)) with
     | .packet i => i == .beginBatch hd
     | _ => false) = true ∧ ok (step (sPkt (.beginBatch hd))) (fun t => (t.mach.feq 0 3).run == []) = true := by decide +kernel
def sAgenda : State := { sArr with mach := { sArr.mach with agenda := [.barrierArrive 0 0] } }
theorem test_agenda : isEvent (.barrierArrive 0 0) = true ∧ isEvent (.add (sc addOk)) = false ∧
    ok (step sAgenda) (fun t => t.mach.agenda == [] && (t.mach.core 0).arrivals == []) = true := by decide +kernel
/-- A guard that reads false, and where a bundle closes. -/
theorem test_guard_false : let p : Part := { sc addOk with guard := 5 }
    (iss Regs.zero).pre.rP 5 = false ∧ ok (exec (.add p) (s12 1 2)) (fun t => t.here == (s12 1 2).here) = true ∧ isPart (.add p) = true := by decide +kernel
theorem test_close : let k := (core0 Regs.zero).closeIssue
    k.issue = none ∧ k.seq = 6 ∧ (k.ctx 0).pc = 0x110 := by decide +kernel
theorem test_clusters : clusterOf (160 + 19 + 20 * 7) = 19 ∧ clusterOf 0 = 0 ∧ ((List.range 640).filter (fun c => clusterOf c == 39)).length = 16 ∧
    (match exec (.rlcStep 40) State.reset with
     | .fault .noSuchUnit => true
     | _ => false) = true ∧ (match exec (.trapEnter 640 0) State.reset with
     | .fault .noSuchUnit => true
     | _ => false) = true := by decide +kernel

/-! ### Traps (R301 to R309) -/

/-- Chapter 15: QBEYOND of the part in VA at 0x200, EVEC 0x401. -/
def rec15 : FaultRec := ⟨0x200, 0x208, 4, 0x11, 2, true, 0xA0280000, 0x4000120000, 5, [], false⟩
def kTrap (c : Ctx) : Core := { Core.zero with owner := some 1, launch := some 1, seq := 6, selected := some 0, ctxs := [(0, c)] }
def cTrap (evec : W64) : Ctx := { ctx0 Regs.zero with csr := [(0xF0, evec)], waiting := [rec15] }
theorem test_trap_enters :
    ok (exec (.trapEnter 0 0) (st (kTrap (cTrap 0x401)))) (fun t => let c := (t.mach.core 0).ctx 0
      c.rC 0xF1 == 0xA0280A11 && c.rC 0xF2 == 0x4000120000 && c.rC 0xF3 == 0x200 && c.rC 0xF4 == 0x208 && c.rC 0xF5 == 4 &&
      c.rC 0xF9 == 1 && c.inh && c.pc == 0x400 && c.waiting == []) = true := by decide +kernel
theorem test_no_handler :
    ok (exec (.trapEnter 0 0) (st (kTrap (cTrap 0x400)))) (fun t => (t.mach.core 0).fatal == some (0, 0x31, 0x200)) = true := by decide +kernel
/-- ERET after KIND 1 goes on at ENEXT, after KIND 0 at EPC. -/
def cHand (e : W64) : Ctx := { ctx0 Regs.zero with csr := [(0xF1, e), (0xF3, 0x200), (0xF4, 0x208)], inh := true, handling := some { rec15 with seq := 5 } }
def sHand (e : W64) : State := st { core0 Regs.zero with issue := some { iss Regs.zero with csr := (cHand e).csr }, ctxs := [(0, cHand e)] }
theorem test_eret : (cHand 0xA11).residue 0 = ([], []) ∧ goes (exec (.eret 0) (sHand 0xA11)) = some 0x208 ∧ goes (exec (.eret 0) (sHand 0x211)) = some 0x200 ∧
    ok (exec (.eret 0) (sHand 0xA11)) (fun t => !(t.here.ctx 0).inh) = true := by decide +kernel
/-- The bundle of a TRAP closes into the handler: SWTRAP with its code. -/
theorem test_swtrap : let k := { core0 Regs.zero with issue := some { iss Regs.zero with swtrap := some 9 }, ctxs := [(0, { ctx0 Regs.zero with csr := [(0xF0, 0x401)] })] }
    let c := k.closeIssue.ctx 0
    c.rC 0xF1 = 0x90020 ∧ c.rC 0xF3 = 0x110 ∧ c.pc = 0x400 ∧ c.inh = true := by decide +kernel
theorem test_fatal_stop :
    ok (exec (.fatalFault 0) (st { Core.zero with fatal := some (0, 0x30, 0x200) })) (fun t => (t.mach.core 0).fatal == none) = true := by decide +kernel

/-! ### Waits -/

/-- A context blocked by its fences; with nothing at work they complete. -/
def sFence : State := st { Core.zero with owner := some 1, selected := some 0, ctxs := [(0, { ctx0 Regs.zero with st := .blocked, blk := some .fence, fence := some 2 })] }
def sIfence : State := st { Core.zero with owner := some 1, selected := some 0, ctxs := [(0, { ctx0 Regs.zero with st := .blocked, blk := some .fence, ifence := true })] }
theorem test_fences : (sFence.mach.core 0).fenceDone 0 = true ∧ (sIfence.mach.core 0).copiesOf 0 (fun d => d.fl.isCode) = false ∧ (sIfence.mach.core 0).parkedOf 0 (fun d => d.fl.isCode) = false ∧
    ok (exec (.fenceComplete 0 0) sFence) (fun t => ((t.mach.core 0).ctx 0).st == .issuing && ((t.mach.core 0).ctx 0).fence == none) = true ∧
    ok (exec (.ifenceComplete 0 0) sIfence) (fun t => ((t.mach.core 0).ctx 0).st == .issuing && !((t.mach.core 0).ctx 0).ifence) = true := by decide +kernel
/-- Two contexts of a level-2 domain at a DBAR: the first arrives; when the second has arrived both pass, and PHASE is 1. -/
def cDom (d : Option DbarWait) : Ctx := { ctx0 Regs.zero with dbar := d, domid := [(2, 0x1000005000002)], st := .blocked, blk := some .barrier }
def sDbar (d0 d1 : Option DbarWait) : State := st { Core.zero with owner := some 1, launch := some 1, ctxs := [(0, cDom d0), (1, cDom d1)] }
theorem test_dbar : ((sDbar (some ⟨2, false⟩) none).mach.member 0 0).domain 2 = some (1, 5) ∧ ((sDbar (some ⟨2, false⟩) none).mach.core 0).dbarQuiet 0 = true ∧
    ok (exec (.dbarRelease 0 0) (sDbar (some ⟨2, false⟩) none)) (fun t => ((t.mach.core 0).ctx 0).dbar == some ⟨2, true⟩) = true ∧
    ok (exec (.dbarRelease 0 0) (sDbar (some ⟨2, false⟩) (some ⟨2, true⟩))) (fun t => [0, 1].all (fun x =>
      let c := (t.mach.core 0).ctx x
      c.dbar == none && c.phase 2)) = true := by decide +kernel
theorem test_halt_drained : haltReady ({ core0 Regs.zero with issue := none, ctxs := [(0, { ctx0 Regs.zero with st := .halting })] }) 0 = true ∧
    ok (exec (.haltDrained 0 0) (st { core0 Regs.zero with issue := none, ctxs := [(0, { ctx0 Regs.zero with st := .halting })] })) (fun t =>
      ((t.mach.core 0).ctx 0).st == .idle) = true := by decide +kernel
/-- A bundle whose guards read false is skipped; a blocked one goes on. -/
def kMcall (w : W64) (c : Ctx) : Core := { readyCore 0x04400000 with ispad := numbered 0 (matrixBundle w.toNat), ctxs := [(0, c)], owner := some 1 }
def sSkip : State := up (kMcall 0x24400000 readyCtx) 0
theorem test_nullifier : (nextBun sSkip 0 0).1.skips (nextBun sSkip 0 0).2 = true ∧ (nextBun sSkip 0 0).2.size = 16 ∧
    ok (exec (.nullifierSkip 0 0) sSkip) (fun t => ((t.mach.core 0).ctx 0).pc == 0x10 && ((t.mach.core 0).ctx 0).st == .issuing) = true := by decide +kernel
def sBlocked : State := up (kMcall 0x04400000 { readyCtx with st := .blocked, blk := some .engine }) 0
theorem test_unblock : (nextBun sBlocked 0 0).1.ruling (nextBun sBlocked 0 0).2 = .go ∧
    ok (exec (.bundleUnblock 0 0) sBlocked) (fun t => ((t.mach.core 0).ctx 0).st == .issuing && ((t.mach.core 0).ctx 0).blk == none) = true := by decide +kernel
/-- A split VB starts when lane groups are free. -/
def kSplit : Core := { core0 Regs.zero with issue := none, vparts := [⟨⟨.vadd ⟨.vb, 0, false, 0, 0, vaddOk⟩, { iss Regs.zero with vpool := [(1, 7), (2, 5)] }⟩, true, []⟩] }
theorem test_split_start : splitReady kSplit 0 = true ∧
    ok (exec (.vbSplitStart 0 0) (st kSplit)) (fun t => (t.mach.core 0).vparts.map (fun (v : VPart) => v.writes) == [[.vreg 3 256 12]]) = true := by decide +kernel

/-! ### Routines and micro-ops (R150 to R177) -/

/-- MCALL with its metadata word at MDPC; A7's low bits take the immediate. -/
def rCall : Regs := { Regs.zero with a := [(7, 0x7FFFF)] }
def cCall : Ctx := { ctx0 rCall with csr := [(0x98, 16)] }
def sCall : State := st { core0 rCall with issue := some { iss rCall with csr := [(0x98, 16)] }, ispad := [(2, 0x40)], rtab := [(0x81, ⟨true, false, 2048, 10, 5, 2, 0, 0⟩)], ctxs := [(0, cCall)] }
theorem test_mcall : ok (exec (.mcall 0 false 0x81 0x3F) sCall) (fun t =>
    t.here.rq.map (fun (r : Routine) => (r.upc, r.metaWord, r.mp, Tab.get 0 r.regs 7)) == [(2048, 0x40, 0x40, 0x4003F)] &&
    (t.here.ctx 0).regs.rA 7 == 0x4003F && (t.here.ctx 0).rC 0x98 == 24) = true := by decide +kernel
theorem test_routine_start : ({ kSeq 0 with rq := [{ rou with started := false }] } : Core).running = none ∧
    ok (exec (.routineStart 0) (st { kSeq 0 with rq := [{ rou with started := false }] })) (fun t =>
      (t.mach.core 0).rq.map (fun (r : Routine) => r.started) == [true] && (t.mach.core 0).rC 0x96 == 1) = true := by decide +kernel
def fetch (stage : Option Nat) : Fetch := ⟨3, stage, 5, false, 0, 6, 7, ⟨5, 2, 0, 2, false⟩, false⟩
theorem test_fetch_done :
    ok (exec (.stageFetchDone 0 0) (st { kSeq 0 with fetches := [fetch none] })) (fun t => Tab.get 0 (t.mach.core 0).blocks 5 == 7 &&
      Tab.get 0 (t.mach.core 0).wtags 5 == 0x10006 && (t.mach.core 0).fetches == []) = true ∧
    ok (exec (.stageFetchDone 0 0) (st { kSeq 0 with fetches := [fetch (some 1)] })) (fun t =>
      ((t.mach.core 0).stage 1).tiles == [(7, 6)]) = true ∧
    ok (exec (.stageFetchDone 0 0) (st { kSeq 0 with fetches := [{ fetch none with void := true }] })) (fun t => (t.mach.core 0).blocks == []) = true := by
  decide +kernel
theorem test_routine_retires : ok (exec (.routineRetire 0 0) (st { kSeq 0 with rq := [{ rou with mret := true }] })) (fun t =>
    (t.mach.core 0).rq == []) = true := by decide +kernel
/-- Chapter 19: the header 0x15_00A8_0081; and its image of one MRET, which MSLOAD writes. -/
theorem test_header : msHead (leBytes 0x1500A80081 64) = ⟨0x81, 2048, 10, 5, 2, 0, 0, true⟩ := by decide +kernel
def pMs : Part := sc { cw 0 0 with src1 := .sreg 1 }
def sMsload : State := mm { core0 Regs.zero with issue := none, ctxs := [(0, { ctx0 Regs.zero with st := .issuing, wait := some ⟨.msload pMs, iss (regs [(1, 0x4000)] 0)⟩ })] }
  [(0x4000, 0x81), (0x4002, 0x18), (0x4047, 0x34)]
theorem test_msload : ok (exec (.msload pMs) (s12 0x4000 0)) (fun t => (t.here.ctx 0).wait.isSome) = true ∧
    ok (exec (.bundleUnblock 0 0) sMsload) (fun t => Tab.get REntry.zero (t.mach.core 0).rtab 0x81 == ⟨true, false, 2048, 1, 0, 0, 0, 0⟩ &&
      Tab.get 0 (t.mach.core 0).ustore 2048 == 0x3400000000000000 && ((t.mach.core 0).ctx 0).regs.rS 4 == 2048) = true ∧
    ok (exec (.bundleUnblock 0 0) { sMsload with mem := { sMsload.mem with loc := (0x4000, 0x41) :: (sMsload.mem.loc.drop 1) } }) (fun t =>
      ((t.mach.core 0).ctx 0).regs.rS 4 == 0x8000000000000002) = true := by decide +kernel

/-! ### Micro-ops -/

/-- A routine's queue layout for queue 2, offset 0. -/
def dq : W64 := BitVec.ofNat 64 (encodeDesc (.queue 2 0 false))
/-- A core with the routine `r` running, queue 2 with a tile 7 at its head in an FP32 bank, one block of BF16. -/
def kU (r : Routine) : Core :=
  { Core.zero with owner := some 1, rq := [r], spad := [(10, 7)], csr := [(0x80, 8)], wtags := [(5, 0x10006)],
                   ctxs := [(0, { Ctx.zero with acount := 4, queues := [(2, q2)] })] }
def ru (a b c : W64) : Routine := { rou with regs := [(1, a), (2, b), (3, c)] }
/-- PA names A1, PB A2, PC A3. -/
def u0 : Uop := ⟨1, 2, 3, 0, 0⟩
def sU (a b c : W64) : State := st (kU (ru a b c))
/-- The routine after a micro-op. -/
def rOf (o : Out) (f : Core → Routine → Bool) : Bool := ok o (fun t => match t.here.rq with
  | [r] => f t.here r
  | _ => false)
theorem test_micro_hypotheses : (sU 0 0 0).here.running = some (ru 0 0 0) ∧ (sU 0 0 0).here.poisoned.contains (.micro, 2048) = false ∧
    accField (kU (ru 3 0 0)) (ru 3 0 0) 3 = some 3 ∧ accField (kU (ru 4 0 0)) (ru 4 0 0) 4 = none ∧ queueField dq true = some (2, 0) := by decide +kernel
theorem test_mzero : rOf (exec (.mzero u0) (st { kU (ru 3 0 0) with acc := [(3, 9)] })) (fun k r => Tab.get 0 k.acc 3 == 0 && r.upc == 2049) = true ∧
    ok (exec (.mzero u0) (sU 4 0 0)) (fun t => t.here.rq.length == 0 && (t.here.ctx 0).waiting.map (fun (r : FaultRec) => r.code) == [4]) = true ∧
    rOf (exec (.mpromo u0) (sU 3 0 0)) (fun _ r => r.upc == 2049) = true := by decide +kernel
theorem test_mlda : rOf (exec (.mlda u0) (sU dq 0 0)) (fun k r => k.fetches.map (fun (f : Fetch) => (f.stage, f.data)) == [(some 0, 7)] && r.upc == 2049 &&
    (k.stage 0).tag == 0) = true := by decide +kernel
theorem test_mwbl : rOf (exec (.mwbl u0) (sU dq 0x105 0)) (fun k r => k.fetches.map (fun (f : Fetch) => (f.stage, f.block)) == [(none, 5)] &&
    r.reg 2 == 0x106) = true := by decide +kernel
theorem test_mldb : flag (Core.wtag (kU (ru 5 0 0)) 5) 16 = true ∧ rOf (exec (.mldb u0) (sU 0x105 0 0)) (fun _ r => r.bsel == some ⟨5, 0, 0, 0, []⟩ &&
    r.reg 1 == 0x106) = true := by decide +kernel
/-- A stage of one BF16 tile and the block: the checks that MMAC makes pass. -/
def kMac : Core := { kU { ru 0x20 1 0 with bsel := some ⟨5, 0, 0, 0, []⟩ } with stages := [(0, some ⟨[(7, 6)], 0, false⟩)] }
theorem test_mmac_hypotheses : (kMac.stage 0).tiles = [(7, 6)] ∧ kMac.fetchesInto 0 = [] ∧ intervalOk (fld (1 : W64) 6 0) = true ∧ sparsity 0 = 1 ∧
    pairPath (fmtOf 6) (fmtOf (kMac.wtag 5)) = some false ∧ arrayClass (fmtOf 6) = some (64, 4, 16) ∧ kMac.poisoned = [] := by decide +kernel
/-- R144: 1 and 2 promoted one by one give 3.0; with an interval of 2, at once. R146: 7 + 3 − 5 = 5. -/
theorem test_array_cells : floatCell 1 [Val.ofInt 1, Val.ofInt 2] 0 0 0 = (0x40400000, 0) ∧ floatCell 2 [Val.ofInt 1, Val.ofInt 2] 0 0 0 = (0x40400000, 0) ∧
    (floatCell 4 [Val.ofInt 1, Val.ofInt 2] 0 0 0).1 = 0 ∧ intCell [Val.ofInt 3, Val.ofInt (-5)] 7 = 5 := by decide +kernel
/-- MACC's and MOUT's hypotheses; the tile they write is made element by element: 1.5 in FP32 is 2 in INT32. -/
theorem test_macc_mout_hypotheses : (match uRead (kU (ru 0 dq 0)) (ru 0 dq 0) 0 dq false with
      | .ok v => v.tile == some 7 && fmtOf (v.k.queueFmt 0 v.res.q) == .fp32
      | .error _ => false) = true ∧
    [(⟨5, 2, 5⟩ : DestRes)].find? (fun d => d.q == 2) = some ⟨5, 2, 5⟩ ∧ outFmtOk .fp32 = true ∧
    elemAt (outTile [0x3FC00000] 0 .int32 4).toNat 0 32 = 2 ∧ elemAt (outTile [0x3FC00000] 0x10 .fp32 8).toNat 0 32 = 0x40400000 := by decide +kernel
theorem test_msetk_loops : rOf (exec (.msetk { u0 with imm := 16 }) (sU 0 0 0)) (fun _ r => r.kcount == 16) = true ∧
    rOf (exec (.msetk { u0 with flags := 1 }) (sU 3 0 0)) (fun _ r => r.kcount == 3) = true ∧
    rOf (exec (.mloop { u0 with imm := 9 }) (sU 0 0 0)) (fun _ r => r.loops == [9]) = true ∧
    rOf (exec (.mend { u0 with imm := 2050 }) (st (kU { ru 0 0 0 with loops := [2, 7] }))) (fun _ r => r.loops == [1, 7] && r.upc == 2050) = true ∧
    rOf (exec (.mend { u0 with imm := 2050 }) (st (kU { ru 0 0 0 with loops := [1, 7] }))) (fun _ r => r.loops == [7] && r.upc == 2049) = true := by decide +kernel
theorem test_mbr : [(0, 0), (1, 5), (2, -1), (3, 1)].all (fun (e : BitVec 4 × W64) =>
      rOf (exec (.mbr { u0 with flags := e.1, imm := 2060 }) (sU e.2 0 0)) (fun _ r => r.upc == 2060)) = true ∧
    [(0, 1), (1, 0), (2, 0), (3, 0)].all (fun (e : BitVec 4 × W64) =>
      rOf (exec (.mbr { u0 with flags := e.1, imm := 2060 }) (sU e.2 0 0)) (fun _ r => r.upc == 2049)) = true := by decide +kernel
theorem test_mret : rOf (exec (.mret u0) (st (kU { ru 0 0 0 with resv := [⟨5, 2, 4⟩] }))) (fun k r => r.mret && r.resv == [] &&
    ((k.queue 0 2).cell 4).st == .void) = true := by decide +kernel

/-! ### Copies (R208 to R223, R318, R346) -/

/-- A copy's registers: S2 an address, S3 a length, S9 a further word, S20 the handle of barrier 0. -/
def rCp (a n x : W64) : Regs := regs [(2, a), (3, n), (9, x), (20, h0)] 0
def cpIss (a n x : W64) : Issue := { iss (rCp a n x) with dests := [⟨6, 3, 0⟩] }
def cpy (i : Instr) (b : Issue) (total : Nat) : Copy := ⟨⟨i, b⟩, true, 5, some 0, none, none, false, false, none, [], total, false, none⟩
def q3 : Queue := { Queue.zero with alloc := true, base := 16, logcap := 2, tail := 1, pos := [(0, ⟨.empty, false, 0, none⟩)] }
/-- Core 0 with queue 3 holding one EMPTY position, queue 2 three, and one copy. -/
def kCp (c : Copy) : Core :=
  { Core.zero with owner := some 1, lap := [(10, 0)], spad := [(10, 7)], cq := [c], bars := [(0, { bar0 with armed := true, expb := 8192 })],
                   ctxs := [(0, { ctx0 Regs.zero with queues := [(2, q2), (3, q3)] })] }
def sCp (c : Copy) (bs : Tab Byte) : State := mm (kCp c) bs
def lin : Copy := cpy (.cplin cpOk') (cpIss 0x4000 64 0) 4096
theorem test_copies_issue : [Instr.cplin cpOk', .cplinCode cpOk', .cpstr cpOk', .cpgath cpOk', .cpconv cpOk', .cpver cpOk', .cpcomp cpOk', .cpst cpOk',
    .cpsts cpOk', .cpbank cpOk', .cpwb cpOk', .cpdisc cpOk', .cppref cpOk', .cpcoll cpOk'].all (fun i =>
      ok (exec i (st { core0 (rCp 0x4000 64 0) with issue := some (cpIss 0x4000 64 0) })) (fun t =>
        t.here.cq.map (fun (c : Copy) => (c.active, c.bar, c.fl.i)) == [(false, some 0, i)] && t.here.rC 0xB2 == 1)) = true := by decide +kernel
theorem test_copy_starts : (kCp { lin with active := false }).copyReady false 0 = true ∧
    (match copyRun (sCp { lin with active := false } [(0x4000, 0xAB)]) 0 { lin with active := false } with
     | .fault .. => false
     | _ => true) = true ∧
    ok (exec (.copyStart 0 0) (sCp { lin with active := false } [(0x4000, 0xAB)])) (fun t => (t.mach.core 0).cq == [lin]) = true := by decide +kernel
theorem test_copy_lands : copyRun (sCp lin [(0x4000, 0xAB)]) 0 lin = .ok (0xAB :: leBytes 0 63) 0 0 ∧ (kCp lin).canLand lin = true ∧
    ok (exec (.copyLand 0 0) (sCp lin [(0x4000, 0xAB)])) (fun t => let k := t.mach.core 0
      k.cq == [] && ((k.queue 0 3).cell 0).st == .present && Tab.get 0 k.spad 16 == 0xAB && (k.bar 0).landb == 4096) = true := by decide +kernel
/-- A range with no translation: FAULT on the barrier with the address, POISON in the position. -/
def linBad : Copy := cpy (.cplin cpOk') (cpIss 0x40000000 64 0) 4096
theorem test_copy_faults : copyRun (sCp linBad []) 0 linBad = .fault 0x40000000 false 0 ∧
    ok (exec (.copyLand 0 0) (sCp linBad [])) (fun t => let k := t.mach.core 0
      (k.bar 0).fault && (k.bar 0).faddr == 0x40000000 && ((k.queue 0 3).cell 0).st == .poison) = true := by decide +kernel
/-- CPST of the first 2 bytes of a tile; CPWB of a range; CPVER that sees another version. -/
def stRead (b : Issue) : Issue := { b with reads := [⟨6, 2, 0, 2, false⟩], dests := [] }
def cpStC : Copy := cpy (.cpst { cpOk' with dest := .queue 2 0 false }) (stRead (cpIss 0x4000 2 0)) 2
theorem test_cpst : (kCp cpStC).canLand cpStC = true ∧ lostAt (sCp cpStC []) 0 1 0x4000 2 = none ∧
    ok (exec (.copyLand 0 0) (sCp cpStC [])) (fun t => t.mem.bytes 0 0x4000 2 == [7, 0] && (t.mach.core 0).cq == []) = true := by decide +kernel
def wbC : Copy := cpy (.cpwb { cpOk' with dest := .zero }) { iss (rCp 0x4000 64 0) with dests := [] } 64
theorem test_cpwb : copyRun (sCp wbC []) 0 wbC = .ok [] 0 0 ∧ ok (exec (.copyLand 0 0) (sCp wbC [(0x4000, 5)])) (fun t =>
    t.mem.byte 0 0x4000 == 5 && (t.mach.core 0).cq == []) = true := by decide +kernel
def verC : Copy := cpy (.cpver { cpOk' with auxReg := 9, dest := .queue 2 0 false }) (stRead (cpIss 0x4000 1 0x5000)) 4096
theorem test_cpver : lostAt (sCp verC []) 0 1 0x4000 4096 = none ∧ ok (exec (.cpverCommit 0 0) (sCp verC [])) (fun t => t.mem.loc == (sCp verC []).mem.loc &&
    ((t.mach.core 0).bar 0).vfail == 1 && (t.mach.core 0).cq == []) = true := by decide +kernel

/-! ### Ephemeris (R256 to R264) -/

/-- The binding of a domain of level 0, its table at 0x6000, and a core whose context 0 is its member. -/
def bnd : Binding := ⟨0, 0, 1, some 1, 0, (1024, 0), 0x6000, 2, 0, none, 0, [], [], 0, 0, false⟩
def kEph (m : W64) (pol : W64) : Core :=
  let c := { ctx0 (regs [(1, 0x6000), (2, 2)] 0) with csr := (if pol = 0 then [(0x4F, m)] else [(0x4F, m), (0xD0, pol)]) }
  { core0 (regs [(1, 0x6000), (2, 2)] 0) with issue := some { iss (regs [(1, 0x6000), (2, 2)] 0) with csr := c.csr }, ctxs := [(0, c)] }
/-- A table of two entries: chapter 12's words 0x0000_2000_0001_0000, 0x6_0000, 0x0100_0008_CA00 and 0x10_0001. -/
def ephBytes : Tab Byte := [(0x6002, 1), (0x6005, 0x20), (0x600A, 6), (0x6011, 0xCA), (0x6012, 8), (0x6015, 1), (0x6018, 1), (0x601A, 0x10)]
def sEph (b : List Binding) (m pol : W64) : State :=
  let s := mm (kEph m pol) ephBytes
  { s with mach := { s.mach with bindings := b } }
theorem test_eph_member : ((sEph [bnd] 1 1).mach.member 0 0).domain 0 = some (1024, 0) ∧ (sEph [bnd] 1 1).mach.bindingOf ((sEph [bnd] 1 1).mach.member 0 0) 0 = some bnd := by decide +kernel
theorem test_entry_words : entryOf 0 [0x200000010000, 0x60000, 0x01000008CA00, 0x100001] = ⟨0, 0x200000010000, 0x60000, 0, 0x8CA00, 1, 0, 1, 2, false, false⟩ ∧
    (entryBytes (sEph [bnd] 1 1) bnd 0).toOption = some [0x200000010000, 0x60000, 0x01000008CA00, 0x100001] := by decide +kernel
/-- Mark 1 passes; mark 2 misses entry 0, due at 2: EPHMISS at its address, a stall or a count. -/
theorem test_mark_checks : markCheck 0 0 1 (sEph [{ bnd with count := 1 }] 1 1) = .pass ∧ markCheck 0 0 2 (sEph [bnd] 2 1) = .miss 0 0x6000 ∧
    markCheck 0 0 1 (sEph [{ bnd with err := 1, erridx := 1 }] 1 1) = .err 0 0x6020 := by decide +kernel
theorem test_mark : ok (exec (.mark 0 2) (sEph [bnd] 1 0)) (fun t => (t.here.ctx 0).waiting.map (fun (r : FaultRec) => (r.code, r.eaddr)) == [(0x13, 0x6000)] &&
      (t.here.ctx 0).rC 0x4F == 2) = true ∧
    ok (exec (.mark 0 2) (sEph [bnd] 1 1)) (fun t => (t.here.ctx 0).markWait.isSome) = true ∧
    ok (exec (.mark 0 2) (sEph [bnd] 1 2)) (fun t => (t.here.ctx 0).rC 0xD3 == 1) = true ∧
    ok (exec (.mark 0 1) (sEph [{ bnd with count := 1 }] 0 1)) (fun t => (t.here.ctx 0).rC 0x4F == 1 && (t.here.ctx 0).markWait.isNone) = true := by decide +kernel
def sStall : State :=
  let c := { ctx0 Regs.zero with st := .blocked, blk := some .mark, markWait := some ⟨.mark 0 1, iss Regs.zero⟩ }
  st { core0 Regs.zero with issue := none, ctxs := [(0, c)] }
theorem test_stall_passes : ok (exec (.ephStallPass 0 0) sStall) (fun t => ((t.mach.core 0).ctx 0).st == .issuing &&
    ((t.mach.core 0).ctx 0).markWait.isNone) = true := by decide +kernel
theorem test_ephbind : (sEph [] 0 0).mach.freeBinding 0 = some 0 ∧
    ok (exec (.ephbind (sc (cw 0 0))) (sEph [] 0 0)) (fun t => t.mach.bindings == [bnd] && (t.here.ctx 0).regs.rS 4 == 0) = true := by decide +kernel
theorem test_ephbind_failures : s4 (exec (.ephbind (sc (cw 0 2))) (sEph [] 0 0)) = some 0x8000000000000001 ∧
    s4 (exec (.ephbind (sc (cw 0 0))) (sEph [bnd] 0 0)) = some 0x8000000000000002 ∧
    s4 (exec (.ephbind (sc { cw 0 0 with src1 := .lit false })) (sEph [] 0 0)) = some 0x8000000000000002 ∧
    s4 (exec (.ephbind (sc { cw 0 0 with src1 := .lit false, lit0 := 0x6001 })) (sEph [] 0 0)) = some 0x8000000000000004 ∧
    s4 (exec (.ephbind (sc { cw 0 0 with src2 := .lit false, lit0 := 65537 })) (sEph [] 0 0)) = some 0x8000000000000004 ∧
    s4 (exec (.ephbind (sc (cw 0 0))) (sEph ((List.range 16).map (fun n => { bnd with num := n, dom := (9, 9) })) 0 0)) = some 0x8000000000000003 ∧
    ok (exec (.ephbind (sc { cw 0 0 with src1 := .lit false })) (sEph [bnd] 0 0)) (fun t => t.mach.bindings == []) = true := by decide +kernel
theorem test_ephstat : s4 (exec (.ephstat (sc (cw 0 0))) (sEph [bnd] 0 0)) = some 1 ∧ s4 (exec (.ephstat (sc (cw 0 8))) (sEph [bnd] 7 0)) = some 7 ∧
    s4 (exec (.ephstat (sc (cw 0 16))) (sEph [bnd] 2 0)) = some 0 ∧ s4 (exec (.ephstat (sc (cw 0 0))) (sEph [] 0 0)) = some 0x8000000000000002 ∧
    s4 (exec (.ephstat (sc (cw 0 2))) (sEph [] 0 0)) = some 0x8000000000000001 := by decide +kernel
def ent : EphEntry := ⟨0, 0x4000, 0, 0, 64, 4, 1, 1, 2, false, false⟩
theorem test_entries : ok (exec (.entryRead 0) (sEph [bnd] 0 0)) (fun t => t.mach.bindings.map (fun (b : Binding) => b.err) == [1]) = true ∧
    ok (exec (.entryStart 0) (sEph [{ bnd with read := some ent }] 1 0)) (fun t => t.mach.bindings == [{ bnd with started := [ent], next := 1, prevStart := 1 }]) = true ∧
    ok (exec (.entryStart 0) (sEph [{ bnd with read := some ent }] 0 0)) (fun t => t.mach.bindings == [{ bnd with read := some ent }]) = true ∧
    ok (exec (.entryComplete 0 0) (sEph [{ bnd with started := [ent], next := 1 }] 1 0)) (fun t => t.mach.bindings == [{ bnd with next := 1, dones := [0] }]) = true := by decide +kernel
/-- R256: tenant 5 owns the window and is not pending; with SHARE the next tenant after the last goes. -/
def rq (a u : Nat) : PortReq := ⟨0, 1, a, u, 0, 0⟩
def sPort (e : W64) (l : List PortReq) : State := { State.reset with mach := { State.reset.mach with portReqs := l, slots := [(0, e)], portLast := [(1, 3)] } }
theorem test_port_grants : (sPort 0x30005 [rq 2 1, rq 7 2]).mach.grantee 0 1 = some (rq 7 2) ∧ (sPort 0x10005 [rq 2 1, rq 7 2]).mach.grantee 0 1 = none ∧
    (sPort 0x10002 [rq 7 2, rq 2 1]).mach.grantee 0 1 = some (rq 2 1) ∧
    ok (exec (.portGrant 0 1) (sPort 0 [rq 2 1, rq 7 2])) (fun t => t.mach.portReqs == [rq 2 1, rq 7 1] && Tab.get 0 t.mach.portLast 1 == 7) = true := by decide +kernel
theorem test_window : ok (exec .windowBoundary { State.reset with mach := { State.reset.mach with dieRegs := [(0x808, 0xFF30005)] } }) (fun t =>
    t.mach.usec == 1 && t.mach.slot 0 1 == 0x30005) = true := by decide +kernel

/-! ### Refinement loop controllers (R266 to R279) -/

/-- A sound block: n = 32, LU, start in FP32, LIMIT 4, every action an exit that collects; A at 0x10000, b at 0x20000, x at
0x30000, WORK at 0x40000; TAU 0, RHOS 1, RHOD 2. -/
def blk : List W64 := [0x0000000000040620, 0x10000, 0x20000, 0x30000, 0x40000, 0x3F80000000000000, 0x40000000]
def rlc1 : Rlc := { Rlc.zero with st := 1, core := 0, ctx := 0, asid := 1, blk := 0x50000, words := blk, seq := 5, rung := 1, phase := 1 }
def rlc2 : Rlc := { rlc1 with st := 2, exit := 1, k := 3, q := 0x33000000, hasQ := true }
def sRlc (r : Rlc) (bs : Tab Byte) : State :=
  let s := mm (core0 (regs [(1, 0x50000)] 0)) bs
  { s with mach := { s.mach with rlcs := [(0, r)] } }
def pR : Part := sc (cw 0 0)
theorem test_block : blockBad blk = none ∧ blockBad (0x20 :: blk.drop 1) = some 0 ∧ blockBad (blk.set 1 0x10001) = some 1 ∧ blockBad (blk.set 6 0) = some 6 ∧
    blockBad (blk ++ [1]) = some 7 := by decide +kernel
theorem test_rlc_not_owner : [Instr.rlcwait pR, .rlcstat pR, .rlcabort pR].all (fun i => s4 (exec i (sRlc Rlc.zero [])) == some 0x8000000000000005) = true ∧
    waitsOn (exec (.rlcgo pR) (sRlc Rlc.zero [])) = true := by decide +kernel
/-- The result word: EXITED by CONVERGED at the top rung after 3 steps with q = 0x3300_0000. -/
theorem test_rlc_collect : s4 (exec (.rlcwait pR) (sRlc rlc2 [])) = some 0x33000000000326 ∧ p3 (exec (.rlcwait pR) (sRlc rlc2 [])) = some true ∧
    ok (exec (.rlcwait pR) (sRlc rlc2 [])) (fun t => t.mach.rlc 0 == Rlc.zero) = true ∧
    s4 (exec (.rlcstat pR) (sRlc rlc1 [])) = some 0x21 ∧ p3 (exec (.rlcstat pR) (sRlc rlc1 [])) = some false ∧
    s4 (exec (.rlcabort pR) (sRlc rlc2 [])) = some 0x33000000000326 ∧
    ok (exec (.rlcabort pR) (sRlc rlc1 [])) (fun t => (t.mach.rlc 0).abort && (t.here.ctx 0).wait.isSome) = true ∧
    waitsOn (exec (.rlcwait pR) (sRlc rlc1 [])) = true := by decide +kernel
theorem test_rlcexit : ok (exec (.rlcwait pR) (sRlc { rlc2 with exit := 2, trappend := true } [])) (fun t =>
    (t.here.ctx 0).waiting.map (fun (r : FaultRec) => (r.code, r.eaddr)) == [(0x12, 0x50000)] && !(t.mach.rlc 0).trappend) = true := by decide +kernel
/-- RLCGO reads its block and starts. -/
def blkBytes : Tab Byte := [(0x50000, 0x20), (0x50001, 6), (0x50002, 4), (0x5000A, 1), (0x50012, 2), (0x5001A, 3), (0x50022, 4), (0x5002E, 0x80), (0x5002F, 0x3F), (0x50033, 0x40)]
def sGo : State :=
  let s := sRlc Rlc.zero blkBytes
  let k := { core0 Regs.zero with issue := none, ctxs := [(0, { ctx0 Regs.zero with wait := some ⟨.rlcgo pR, iss (regs [(1, 0x50000)] 0)⟩ })] }
  { s with mach := { s.mach with cores := ((List.range 640).filter (fun c => clusterOf c == 0)).map (fun c => (c, if c = 0 then k else { Core.zero with owner := some 1 })) } }
theorem test_rlcgo : sGo.mach.clusterOwned 0 1 = true ∧ (sGo.mach.core 0).runFree 0 32 = true ∧
    ok (exec (.bundleUnblock 0 0) sGo) (fun t => (t.mach.rlc 0).st == 1 && (t.mach.core 0).rlcSlots == some 0 && ((t.mach.core 0).ctx 0).regs.rS 4 == 0) = true := by decide +kernel
/-- An aborted run exits with 6; one whose matrix has no translation with 7. -/
theorem test_rlc_stops : (rlcStop 0 6 { rlc1 with abort := true } (sRlc { rlc1 with abort := true } [])).mach.rlc 0 = { rlc1 with st := 2, exit := 6 } ∧
    (rlcData (sRlc { rlc1 with words := blk.set 1 0x40000000 } []) { rlc1 with words := blk.set 1 0x40000000 }).toOption.isNone = true := by decide +kernel
/-- A of zeros: no pivot, exit 5; the first residual of b = 1 goes on with q = 1, of b = 0 it is an exit 1. -/
def zeros : Mat := List.replicate 32 (List.replicate 32 (Val.zero false))
def toOf (t : RlcTo) : Option Nat × Option Nat :=
  match t with
  | .go r => (none, some r.q)
  | .exit e r => (some e, if r.hasQ then some r.q else none)
theorem test_rlc_advance : toOf (rlcAdvance { rlc1 with phase := 0 } ⟨zeros, [], []⟩) = (some 5, none) ∧
    toOf (rlcAdvance rlc1 ⟨zeros, [Val.ofInt 1], [Val.zero false]⟩) = (none, some 0x3F800000) ∧
    toOf (rlcAdvance rlc1 ⟨zeros, [Val.zero false], [Val.zero false]⟩) = (some 1, some 0) ∧ rlc1.action 5 = 0 ∧ Rlc.n rlc1 = 32 := by decide +kernel
/-- The tenant's one page of `tables` maps every address below 1 GiB on itself. -/
def onePage (s : State) : Bool :=
  s.mach.tlb == [] && s.mach.ownNo == none && Tab.get none s.mach.tenants 1 == some 0 && flag (s.mach.dieReg 0 0x300) 0 &&
    fld (s.mach.dieReg 0 0x300) 41 16 * 65536 == 0x10000 && s.mem.poison == [] &&
    s.mem.read 0 0x10010 8 == 0x20001 && s.mem.read 0 0x20000 8 == 0x30001 && s.mem.read 0 0x30000 8 == 0x1F
theorem test_page (s : State) (hs : onePage s = true) (g va : Nat) (h : va < 2 ^ 30) (hd : agentDie g = 0 := by decide) :
    Machine.translate s g 1 va accRead = .ok 0 va true := by
  simp only [onePage, Bool.and_eq_true, beq_iff_eq] at hs
  obtain ⟨⟨⟨⟨⟨⟨⟨⟨hz, ho⟩, ht⟩, hf⟩, hc⟩, hp⟩, re⟩, r3⟩, r2⟩ := hs
  have hp : ∀ a, s.mem.poisoned 0 a = false := fun a => by rw [Mem.poisoned, hp]; rfl
  have hw : walk s.mem s.softReason 0x20000 va 4 = .ok (0x1F#64, 2 ^ 30) := by
    have e3 : lvlIndex va 3 = 0 := by simp only [lvlIndex, bitsOf, Nat.shiftRight_eq_div_pow]; omega
    have e2 : lvlIndex va 2 = 0 := by simp only [lvlIndex, bitsOf, Nat.shiftRight_eq_div_pow]; omega
    have t3 : (0x30001 : W64).toNat / 256 % 2 ^ 44 * 256 = 0x30000 := by decide
    have f3 : flag (0x30001 : W64) 0 = true ∧ pteBad 0x30001 3 = false ∧ flag (0x30001 : W64) 1 = false := by decide
    have f2 : flag 0x1F#64 0 = true ∧ pteBad 0x1F#64 2 = false ∧ flag 0x1F#64 1 = true := by decide
    have r3 : BitVec.ofNat 64 (s.mem.read 0 (0x20000 + 8 * 0) 8) = 0x30001 := congrArg _ r3
    have r2 : BitVec.ofNat 64 (s.mem.read 0 (0x30000 + 8 * 0) 8) = 0x1F#64 := congrArg _ r2
    rw [walk, e3, r3]
    simp only [f3, t3, hp, Bool.not_true, Bool.false_eq_true, if_false]
    rw [walk, e2, r2]
    simp only [f2, hp, Bool.not_true, Bool.false_eq_true, if_false, if_true]
    rfl
  have hl : leafCheck 0x1F#64 (2 ^ 30) va accRead (some 0) none = .ok 0 va true := by
    have e : localMapped va = true := by simp only [localMapped, Bool.or_eq_true, decide_eq_true_eq]; omega
    have m : va % 1073741824 = va := Nat.mod_eq_of_lt h
    have hd : fld 0x1F#64 6 5 = 0 ∧ (0x1F#64).toNat / 256 % 2 ^ 44 * 256 = 0 ∧ flag 0x1F#64 2 = true ∧ flag 0x1F#64 4 = true := by decide
    simp [leafCheck, hd, accRead, m, e]
  have hv : ¬ va ≥ 2 ^ 56 := by omega
  have h1 : flag (BitVec.ofNat 64 0x20001) 0 = true ∧ fld (BitVec.ofNat 64 0x20001) 41 16 * 65536 = 0x20000 := by decide
  unfold Machine.translate Machine.translate.walked
  simp only [hz, List.find?_nil, if_neg hv, hd, hf, hc, re, hp, h1, hw, ho, ht, Bool.not_true, Bool.false_eq_true, if_false]
  exact hl
/-- Its operands are read. -/
def rlc0 : Rlc := { rlc1 with phase := 0 }
def sRlc0 : State := sRlc rlc0 []
theorem test_rlc_page : onePage sRlc0 = true := by decide +kernel
theorem test_reads (va : Nat) : ∀ n i, va + n + i ≤ 2 ^ 30 → ∃ bs, readVa.go sRlc0 0 1 va accRead n i = .ok bs
  | 0, _, _ => ⟨[], rfl⟩
  | n + 1, i, h => by
    have hv : (va + i) % 2 ^ 64 < 2 ^ 30 := by omega
    obtain ⟨bs, hb⟩ := test_reads va n (i + 1) (by omega)
    exact ⟨_, by rw [readVa.go]; simp only [test_page _ test_rlc_page 0 _ hv, hb]; rfl⟩
theorem test_no_soft (s : State) (hs : onePage s = true) (va n : Nat) (h : va + n + 65536 ≤ 2 ^ 30) : softAt s 0 1 [(va, n)] = none := by
  have h0 : ∀ a, s.mem.poisoned 0 a = false := fun a => by
    simp only [onePage, Bool.and_eq_true, beq_iff_eq] at hs
    obtain ⟨⟨⟨⟨-, hp⟩, -⟩, -⟩, -⟩ := hs
    rw [Mem.poisoned, hp]; rfl
  have hd : agentOf 0 = 0 := rfl
  have hp : firstPoison s 0 1 va n = none := by
    simp only [firstPoison, List.findSome?_eq_none_iff, List.mem_range]
    intro i hi
    rw [test_page _ hs 0 _ (by omega)]
    simp only [h0]
    rfl
  have hl : lostAt s 0 1 va n = none := by
    simp only [lostAt, pageRuns, List.findSome?_eq_none_iff, List.mem_map, List.mem_range, hd]
    rintro x ⟨i, hi, rfl⟩
    have : (if i = 0 then va else va / 65536 * 65536 + 65536 * i) % 2 ^ 64 < 2 ^ 30 := by split <;> omega
    simp only [test_page _ hs 0 _ this]
    rfl
  simp only [softAt, List.findSome?_cons, List.findSome?_nil, hd, hp, hl]
theorem test_runs : rlc0.runs = [(0x10000, 4096)] := by decide +kernel
theorem test_mapped : firstUnmapped sRlc0 (agentOf rlc0.core) rlc0.asid 0x10000 4096 accRead = none ∧
    firstUnmapped sRlc0 (agentOf rlc0.core) rlc0.asid rlc0.work rlc0.workLen accWrite = none := by decide +kernel
theorem test_rlc_reads : ∃ d, rlcData sRlc0 rlc0 = .ok d := by
  have hb : rlcBad sRlc0 rlc0 [(0x10000, 4096)] = none := by
    have hs : softAt sRlc0 rlc0.core rlc0.asid [(0x10000, 4096)] = none := test_no_soft _ test_rlc_page 0x10000 4096 (by omega)
    simp only [rlcBad, List.findSome?_cons, List.findSome?_nil, test_mapped.1, hs]
  unfold rlcData
  simp only [test_runs, test_mapped.2, hb]
  exact ⟨_, rfl⟩
/-- The run at a boundary; with a plan of one routine call and one vector run; the call at work, then over. -/
def sProg (n : Nat) (l : List (Bool × Nat)) : State := sRlc { rlc0 with prog := n, steps := l } []
theorem test_rlc_owner : (sProg 0 []).mach.rlc 0 = rlc0 ∧ ((sProg 0 []).mach.core 0).beforeDone 0 5 = true ∧ (sProg 0 []).mach.saving 0 = false ∧
    (sProg 0 []).mayMove 0 1 (rlcHolder 0) 0 rlc0.moves := by
  unfold State.mayMove State.portsOpen; decide +kernel
def kFree : Core := { core0 (regs [(1, 0x50000)] 0) with issue := none }
def sStep (n : Nat) (l : List (Bool × Nat)) : State := { sProg n l with mach := { (sProg n l).mach with cores := [(0, kFree)] } }
theorem test_rlc_steps :
    ok (exec (.rlcStep 0) (sStep 0 [])) (fun t => (t.mach.rlc 0).prog == 1 && t.mem == (sStep 0 []).mem) = true ∧
    ok (exec (.rlcStep 0) (sStep 1 [(true, 2)])) (fun t => (t.mach.core 0).rlcVec == some (false, 3)) = true ∧
    ok (exec (.rlcStep 0) (sStep 2 [(true, 2)])) (fun t => (t.mach.core 0).rlcVec == some (true, 3) && (t.mach.rlc 0).prog == 3) = true ∧
    ok (exec (.rlcStep 0) (sStep 2 [(false, 2)])) (fun t => (t.mach.core 0).rq.map (fun (r : Routine) => (r.routine, r.ctrl)) == [(0x42, true)]) = true ∧
    ok (exec (.rlcStep 0) (sStep 3 [(false, 2), (true, 1)])) (fun t => (t.mach.rlc 0).steps == [(true, 1)]) = true ∧
    (rlc0.atBoundary kFree = true ∧ Rlc.atBoundary { rlc0 with prog := 3 } kFree = false) := by decide +kernel

/-! ### Reduction windows (R330, R331) -/

/-- Window 0 of port 0: tenant 1, INT64, CONTRIB 2, two MiB from 0. -/
def sWin : State :=
  let s := sAmo (.amoadd opAmo) 0
  { s with mach := { s.mach with portRegs := [(0x300, 0x200010015), (0x308, 1)] } }
theorem test_window_merge : sWin.mach.window 1 0x2000 0x60 8 = some 0 ∧ sWin.mach.window 1 0x2000 0x68 8 = none ∧
    ok (exec (.atomicComplete 0 0) sWin) (fun t => t.mach.contribs.map (fun (c : Contrib) => (c.win, c.count, c.addr, c.opc, c.len, c.val)) == [(0, 2, 0x2000, 0, 8, 10)] &&
      t.mem.read 0 0x2000 8 == 6 && (t.mach.core 0).atomics.length == 1) = true := by decide +kernel

/-! ### Packets (R280 to R288) -/

/-- Host 0's queue 3: table at 0x1000, ring of 16 at 0x8000, write index at 0x9000, read index at 0x9100, tenant 1. The packet
`i` is at its head, another behind it. -/
def feTable : Tab Byte := [(0x1060, 0x14), (0x1061, 0x80), (0x1069, 0x90), (0x1071, 0x91), (0x1078, 1)]
def pk (n : Nat) (i : Instr) : RunPkt := ⟨n, 0x10, 1, 16, none, 0, false, i⟩
def fq (i : Instr) : FeQueue := { FeQueue.zero with tail := 18, ridx := 16, run := [pk 16 i, pk 17 (.pktNop hd)] }
def sFe (f : FeQueue) (bs : Tab Byte) : State :=
  let s := mm Core.zero bs
  { mach := { s.mach with portRegs := [(0x400, 0x1001), (0x408, 0x10000)], fe := [(3, f)] }
    mem := { s.mem with h0 := feTable ++ (if f.tail = 0 then [] else [(0x9000, BitVec.ofNat 8 f.tail)]) } }
theorem test_packet_hypotheses : pktOk 0 3 (pk 16 (.pktNop hd)) (sFe (fq (.pktNop hd)) []) = true ∧ (fq (.pktNop hd)).mayBegin (.pktNop hd) = true ∧
    headOf 0 3 (sFe (fq (.commitBatch hd)) []) = some (pk 16 (.commitBatch hd)) := by decide +kernel
/-- The head leaves; the read index 17 is in host memory and PKTDONE has counted. -/
def popped (o : Out) : Bool := ok o (fun t => (t.mach.feq 0 3).run.map (fun (p : RunPkt) => p.idx) == [17] && (t.mach.feq 0 3).ridx == 17 &&
  t.mem.read 2 0x9100 8 == 17 && t.mach.portReg 0 0x418 == 1)
theorem test_simple_packets : [Instr.pktNop hd, .beginBatch hd, .commitBatch hd, .writePkt hd 0x4000 2 7 9 0 0, .signalPkt hd 0x4000 3 false true 5].all
      (fun i => popped (exec i (sFe (fq i) []))) = true ∧
    ok (exec (.writePkt hd 0x4000 2 7 9 0 0) (sFe (fq (.writePkt hd 0x4000 2 7 9 0 0)) [])) (fun t => t.mem.read 0 0x4000 8 == 7 && t.mem.read 0 0x4008 8 == 9) = true ∧
    ok (exec (.signalPkt hd 0x4000 3 false true 5) (sFe (fq (.signalPkt hd 0x4000 3 false true 5)) [(0x4000, 4)])) (fun t =>
      t.mem.read 0 0x4000 8 == 7 && t.mach.msix == [(0, 5)]) = true := by decide +kernel
def wm : Instr := .waitmemPkt hd 0x4000 0xFF 4 2 9
theorem test_waitmem : waitHolds (sFe (fq wm) [(0x4000, 4), (0x4001, 1)]) 1 0x4000 0xFF 4 2 = true ∧ waitHolds (sFe (fq wm) []) 1 0x4000 0xFF 4 2 = false ∧
    popped (exec wm (sFe (fq wm) [(0x4000, 4)])) = true ∧ ok (exec wm (sFe (fq wm) [])) (fun t => (t.mach.feq 0 3).since == some 0) = true := by decide +kernel
/-- Nine µs after it began: error 10 WAITTIME with its index, and its batch is dropped. -/
theorem test_waitmem_timeout :
    let s := sFe { fq wm with since := some 1 } []
    ok (exec (.waitmemTimeout 0 3) { s with mach := { s.mach with usec := 10 } }) (fun t => (t.mach.feq 0 3).run == [] && t.mach.portReg 0 0x410 == 8 &&
      t.mem.read 2 0x9108 8 == 16 && t.mem.read 2 0x9110 8 / 65536 == 10) = true := by decide +kernel
def lp : Instr := .pktLoop hd 1 3
def ind : Instr := .indirectPkt hd 0x4000 1
theorem test_loop_indirect : ok (exec lp (sFe (fq lp) [])) (fun t => (t.mach.feq 0 3).run.map (fun (p : RunPkt) => p.idx) == [17, 17, 17]) = true ∧
    ok (exec ind (sFe { fq ind with bufs := [(16, 0x4000, 1, [.pktNop hd])] } [])) (fun t =>
      (t.mach.feq 0 3).run.map (fun (p : RunPkt) => (p.i, p.buf)) == [(.pktNop hd, some (0x4000, 0)), (.pktNop hd, none)]) = true := by decide +kernel
/-- A launch of context 0 of core 0, and a graph of one such node. -/
def rec0 : CtxRec := ⟨true, true, 1, 0x40, 8, 2, [0x1000005, 0, 0, 0], 0, [9, 0, 0, 0, 0, 0, 0, 4]⟩
def imgD : List W64 := [0x2, 0x4000, 8, 0x4000, 0x4000, 0, 0x4000, 0]
def plan0 : Plan := ⟨1, 0x5000, 0x200000, imgD, [], [⟨0, [rec0]⟩]⟩
def lpk : Instr := .launchPkt hd 0x100 0 0
def gpk : Instr := .graphPkt hd 0x100 0 0
theorem test_launch_graph_packets :
    ok (exec lpk (sFe { fq lpk with plans := [(16, 0x100, plan0)] } [])) (fun t => t.mach.launches == [newLaunch 0 1 0 3 16 none plan0 0 0] &&
      (t.mach.feq 0 3).live == [16] && (t.mach.feq 0 3).holds == some 0) = true ∧
    ok (exec gpk (sFe { fq gpk with graphs := [(16, 0x100, ⟨[⟨plan0, 0, []⟩], 0, 4, 0x6000⟩)] } [])) (fun t =>
      t.mach.graphs.map (fun (g : Graph) => (g.id, g.runs)) == [(0, 1)] && t.mach.launches == [newLaunch 1 1 0 3 16 (some 0) plan0 0 0]) = true := by decide +kernel
/-- FETCHFENCE drops the later batch. -/
def ff : Instr := .fetchFence hd
theorem test_fetch_fence : (fq ff).mayBegin ff = true ∧ ok (exec ff (sFe { fq ff with run := [pk 16 ff, ⟨17, 0x10, 1, 17, none, 0, false, .pktNop hd⟩] } [])) (fun t =>
    (t.mach.feq 0 3).run == [] && (t.mach.feq 0 3).tail == 17 && (t.mach.feq 0 3).ridx == 17) = true := by decide +kernel
/-- A slot that is not polled, one whose entry names another's tenant, and one with one NOP packet in its ring. -/
def hostOf (s : State) (bs : Tab Byte) : State := { s with mem := { s.mem with h0 := bs } }
theorem test_poll : polled (sFe FeQueue.zero []) 0 3 = true ∧ polled (sFe FeQueue.zero []) 0 2 = false ∧
    entryDisabled (sFe FeQueue.zero []) 0 3 (qEntry (sFe FeQueue.zero []) 0 3) = false ∧
    ok (exec (.pollSlot 0 3) (hostOf (sFe FeQueue.zero []) (feTable ++ [(0x107A, 1)]))) (fun t => t.mach.portReg 0 0x410 == 8) = true ∧
    ok (exec (.pollSlot 0 3) (hostOf (sFe FeQueue.zero []) (feTable ++ [(0x8002, 5), (0x9000, 1)]))) (fun t => (t.mach.feq 0 3).tail == 1 &&
      (t.mach.feq 0 3).run.map (fun (p : RunPkt) => (p.i, p.batch)) == [(.pktNop ⟨0, 3, false, 5⟩, 0)]) = true := by decide +kernel

/-! ### Launches and graphs (R289 to R293, R300) -/

def ln : Launch := newLaunch 0 1 0 3 16 none plan0 0 0
def sLn (k : Core) (l : Launch) (gs : List Graph) : State :=
  let s := sFe { FeQueue.zero with tail := 17, ridx := 16, live := [16], holds := some 0 } []
  { s with mach := { s.mach with cores := [(0, k)], launches := [l], graphs := gs, nextId := 5 } }
def kOwn : Core := { Core.zero with owner := some 1 }
theorem test_launch_binds : ({ sLn kOwn ln [] with mach := (sLn kOwn ln []).mach.demand ln } : State).canBind ln = true ∧ (ln.plan.cores.map (fun (c : LCore) => c.core)).Nodup ∧
    ok (exec (.launchBind 0) (sLn kOwn ln [])) (fun t =>
      let k := t.mach.core 0
      let c := k.ctx 0
      k.launch == some 0 && k.lastUser == some 1 && (c.st == .issuing || c.st == .ready) && c.pc == 0x40 && c.vcount == 8 && c.acount == 2 && c.regs.rS 8 == 9 &&
      c.regs.rS 15 == 4 && (k.ctx 1).st == .unbound && Tab.get 0 c.domid 2 == 0x1000005000001 && (t.mach.feq 0 3).holds == none) = true := by decide +kernel
/-- A core of another tenant: the launch waits. -/
theorem test_launch_waits : ok (exec (.launchBind 0) (sLn { kOwn with owner := some 2 } ln [])) (fun t =>
    t.mach.launches == [ln]) = true := by decide +kernel
def kIdle : Core := { kOwn with launch := some 0, ctxs := [(0, { ctx0 Regs.zero with st := .idle })] }
def lnB : Launch := { ln with stat := .bound }
theorem test_core_ends : kIdle.mayEnd = true ∧ ok (exec (.launchEndCore 0) (sLn kIdle lnB [])) (fun t => (t.mach.core 0).launch == none &&
    (t.mach.core 0).ctxs == [] && t.mach.launches == [{ lnB with ended := [0] }]) = true := by decide +kernel
/-- R292: FATAL of context 2 of core 5 with ECAUSE 0x31 and EPC 0x68. -/
theorem test_record : (({ ln with status := 1, fcause := 0x31, fcore := 5, fctx := 2, fepc := 0x68 } : Launch).record.take 8) = leBytes 0x08053101 8 ∧
    ln.record.length = 64 ∧ (ln.record.take 8) = leBytes 0 8 := by decide +kernel
theorem test_launch_completes : ({ lnB with ended := [0] } : Launch).allEnded = true ∧
    ok (exec (.launchComplete 0) (sLn kOwn { lnB with ended := [0], status := 2 } [])) (fun t => t.mach.launches == [] &&
      t.mem.bytes 0 0x5000 2 == [2, 0] && t.mach.portReg 0 0x418 == 1 && (t.mach.feq 0 3).live == []) = true ∧
    ok (exec (.launchComplete 0) (sLn kOwn { lnB with ended := [0], graph := some 7 } [])) (fun t =>
      t.mach.launches.map (fun (l : Launch) => l.stat) == [.done]) = true := by decide +kernel
theorem test_abort : lnB.stat ≠ .done ∧ ok (exec (.launchAbort 0) (sLn { kIdle with ctxs := [(0, ctx0 Regs.zero)] } lnB [])) (fun t =>
    t.mach.launches == [{ lnB with status := 2 }] && ((t.mach.core 0).ctx 0).st == .idle) = true := by decide +kernel
/-- A graph of two nodes: the branch word chooses node 1, a word beyond the successors ends it, so does the last node. -/
def gp0 : GPlan := ⟨[⟨plan0, 0x7000, [1]⟩, ⟨plan0, 0, []⟩], 0, 2, 0x6000⟩
def gr (n : Nat) : Graph := ⟨9, 1, 0, 3, 16, gp0, n, 1, 0, 0⟩
def sGr (n : Nat) (bs : Tab Byte) : State :=
  let s := sLn kOwn { ln with graph := some 9, stat := .done } [gr n]
  { s with mem := { s.mem with loc := tables ++ bs } }
theorem test_graph_steps : graphNext (sGr 0 []) (gr 0) ln = .inl 1 ∧ graphNext (sGr 0 [(0x7000, 1)]) (gr 0) ln = .inr 1 ∧
    graphNext (sGr 1 []) (gr 1) ln = .inr 0 ∧ graphNext (sGr 0 []) { gr 0 with runs := 2 } ln = .inr 2 ∧
    graphNext (sGr 0 []) (gr 0) { ln with status := 2 } = .inr 3 := by decide +kernel
theorem test_graph_node_end :
    ok (exec (.graphNodeEnd 9) (sGr 0 [])) (fun t => t.mach.graphs == [{ gr 1 with runs := 2 }] && t.mach.launches == [newLaunch 5 1 0 3 16 (some 9) plan0 0 0]) = true ∧
    ok (exec (.graphNodeEnd 9) (sGr 1 [])) (fun t => t.mach.graphs == [] && t.mem.read 0 0x6000 8 == 0x10100) = true := by decide +kernel
/-- R341's example: with RLC masked image 2 is chosen, on stepping 1 image 3, with RLC unmasked image 0. -/
def imgsEx : List (List W64) := [[0x03FF0102], [0x01FF0002], [0x01000102], [0x01FF0102]]
def mImg (fm : W64) (stp : BitVec 8) : Mach := { State.reset.mach with portRegs := [(0, 2), (0x60, fm)], stepping := stp }
theorem test_choose_image : chooseImg (mImg 2 0) imgsEx = some [0x01000102] ∧ chooseImg (mImg 2 1) imgsEx = some [0x01FF0102] ∧
    chooseImg (mImg 0 0) imgsEx = some [0x03FF0102] := by decide +kernel

/-! ### Pre-emption and errors (R295 to R300, R310 to R312) -/

def sSave (r : SaveReq) : State :=
  let s := sLn { kIdle with vpool := [(3, 9)] } lnB []
  { s with mach := { s.mach with saves := [r] } }
theorem test_save_hypotheses : (sSave ⟨0, true, false, false⟩).mach.saveReq 0 = some ⟨0, true, false, false⟩ ∧
    (sSave ⟨0, true, false, false⟩).mach.launchOn 0 = some lnB ∧ saveHole (sSave ⟨0, true, false, false⟩) 0 lnB = none ∧
    ((sSave ⟨0, true, true, false⟩).mach.core 0).saveReady = true := by decide +kernel
theorem test_save : [Instr.preemptSave 0, .saveAreaCheck 0].all (fun i => ok (exec i (sSave ⟨0, true, false, false⟩)) (fun t =>
      t.mach.saves == [⟨0, true, true, false⟩] && t.mach.stopped 0)) = true := by decide +kernel
theorem test_save_may_finish : (sSave ⟨0, true, true, false⟩).mach.rlcRests 0 = true ∧
    (sSave ⟨0, true, true, false⟩).mayMove 0 1 (saveHolder 0) 0 [(.write, [(lnB.area 0, 0x200000)])] ∧ saveHole (sSave ⟨0, true, true, false⟩) 0 lnB = none := by
  unfold State.mayMove State.portsOpen; decide +kernel
/-- Of its image: the first word's VERSION, STEPPING and CORE (R297), and a vector register. -/
theorem test_save_image : ((saveImage (sSave ⟨0, true, true, false⟩).mach 0).head?.map (fun p => (p.1, p.2.take 4))) = some (0, [2, 0, 0, 0]) ∧
    (saveImage (sSave ⟨0, true, true, false⟩).mach 0).any (fun p => p.1 == 0x6A000 + 128 * 3 && p.2.take 2 == [9, 0]) = true := by decide +kernel
/-- A save area outside the tenant's pages: FVFLAG.SAVEAREA is reported once, and the core goes on. -/
theorem test_save_area_hole :
    let s := sSave ⟨0, true, false, false⟩
    let s := { s with mach := { s.mach with launches := [{ lnB with plan := { plan0 with save := 0x40000000 } }] } }
    ok (exec (.preemptSave 0) s) (fun t => t.mach.saves == [⟨0, true, false, true⟩] && !t.mach.stopped 0) = true := by decide +kernel
/-- A saved core whose area's first word names core 1, stepping 0. -/
def sv : Saved := ⟨{ kIdle with vpool := [(3, 9)], ctxs := [(0, { ctx0 (regs [(5, 7)] 0) with st := .ready })] }, 0, 0, 0, 3, false, none, false⟩
def sRes (b : Byte) : State :=
  let s := sLn kOwn lnB []
  { mach := { s.mach with saved := [sv], cores := [(0, kOwn), (1, kOwn)] }, mem := { s.mem with loc := tables ++ [(0x200000, b), (0x200002, 1)] } }
theorem test_restore_hypotheses : restoreHole (sRes 2) lnB sv = none ∧ areaWord (sRes 2) lnB sv 0 = 0x10002 ∧ (sRes 2).mach.dieRuns 0 = true ∧
    (sRes 2).restoreYields sv 1 = false := by decide +kernel
theorem test_restore_moves : areaUnsound (sRes 2) lnB sv = false ∧ (sRes 2).mayMove 0 1 restoreHolder sv.order [(.read 0, [(lnB.area 0, 0x200000)])] := by
  unfold State.mayMove State.portsOpen; decide +kernel
theorem test_restore_page : onePage (sRes 2) = true := by decide +kernel
/-- The area is zeros from its second word on. -/
theorem test_area_zero (a : Nat) (h : 0x200003 ≤ a) : (sRes 2).mem.byte 0 a = 0 := by
  have : (sRes 2).mem.tab 0 = [(0x10010, 1), (0x10012, 2), (0x20000, 1), (0x20002, 3), (0x30000, 0x1F), (0x200000, 2), (0x200002, 1)] := rfl
  have n : ∀ k, k < 0x200003 → (k = a) = False := fun k hk => by simp only [eq_iff_iff, iff_false]; omega
  rw [Mem.byte, this]; simp [Tab.get, n]
theorem test_area_read (va : Nat) : ∀ n i, 0x200003 ≤ va + i → va + n + i ≤ 2 ^ 30 → readVa.go (sRes 2) feAgent 1 va accRead n i = .ok (List.replicate n 0)
  | 0, _, _, _ => rfl
  | n + 1, i, h, h' => by
    have hv : (va + i) % 2 ^ 64 = va + i := by omega
    rw [readVa.go]
    simp only [hv, test_page _ test_restore_page feAgent _ (show va + i < 2 ^ 30 by omega), test_area_read va n (i + 1) (by omega) (by omega), test_area_zero _ h]
    rfl
theorem test_area_bytes (o n : Nat) (h : 3 ≤ o) (h' : o + n ≤ 0x200000) : areaBytes (sRes 2) lnB sv o n = List.replicate n 0 := by
  have e : lnB.area sv.lindex = 0x200000 := rfl
  have a : lnB.asid = 1 := rfl
  simp only [areaBytes, readVa, e, a, test_area_read (0x200000 + o) n 0 (by omega) (by omega)]
theorem test_area_word (o : Nat) (h : 3 ≤ o) (h' : o + 8 ≤ 0x200000) : areaWord (sRes 2) lnB sv o = 0 := by
  have e : lnB.area sv.lindex = 0x200000 := rfl
  have a : lnB.asid = 1 := rfl
  simp only [areaWord, wordVa, readVa, e, a, test_area_read (0x200000 + o) 8 0 (by omega) (by omega)]
  rfl
theorem test_area_bars : ((List.range 64).map (fun n => (n, savedBar (sRes 2) lnB sv n))).any (fun e => e.2.isNone) = false := by
  simp only [List.any_eq_false, List.mem_map, List.mem_range]
  rintro x ⟨n, h, rfl⟩
  have b : savedBar (sRes 2) lnB sv n = Barrier.ofSaved (List.replicate 32 0) 0 := by
    rw [savedBar, test_area_bytes _ _ (by omega) (by omega), test_area_word _ (by omega) (by omega)]; rfl
  rw [b]
  exact (by decide : ¬ (Barrier.ofSaved (List.replicate 32 0) 0).isNone = true)
theorem test_area_entries : (List.range 128).any (fun i => !entryLoads (sRes 2) lnB sv i) = false := by
  simp only [List.any_eq_false, List.mem_range]
  intro i h
  have z : (0 : W64) = BitVec.ofNat 64 (REntry.ofSaved (0 : W64).toNat).saved ∧ (REntry.ofSaved (0 : W64).toNat).valid = false := by decide
  have e : entryLoads (sRes 2) lnB sv i = true := by
    simp only [entryLoads, savedEntry, test_area_word (0x400 + 8 * i) (by omega) (by omega), z.2, Bool.not_false, Bool.true_or, Bool.and_true,
      decide_eq_true_eq]
    exact z.1
  rw [e]; decide
theorem test_area_records (e : Nat × Nat) (h : e.1 < 4 ∧ e.2 < 8) : recordAt (sRes 2) lnB sv e.1 e.2 = 0 := by
  rw [recordAt, test_area_word _ (by omega) (by omega)]; rfl
theorem test_area_rlc : savedRlc (sRes 2) lnB sv 1 = some Rlc.zero := by
  have : (List.range 8).all (fun i => decide (areaWord (sRes 2) lnB sv (0x200 + 8 * i) = 0)) = true := by
    simp only [List.all_eq_true, List.mem_range]
    intro i h
    exact decide_eq_true (test_area_word (0x200 + 8 * i) (by omega) (by omega))
  simp only [savedRlc, this, if_true]
theorem test_area_queues : ∀ l : List (Nat × Nat), (∀ e ∈ l, e.1 < 4 ∧ e.2 < 8) → ∀ k, allOf (rebuildQueue (sRes 2) lnB sv) l k = some k
  | [], _, _ => rfl
  | x :: t, h, k => by
    simp only [allOf, rebuildQueue, test_area_records x (h x (by simp)), if_true, Option.bind_some]
    exact test_area_queues t (fun e he => h e (by simp [he])) k
theorem test_rebuild (s : State) (l : Launch) (v : Saved) (c : Nat) : ∃ k, rebuild s l v c =
    if ((List.range 64).map (fun n => (n, savedBar s l v n))).any (fun e => e.2.isNone) || (List.range 128).any (fun i => !entryLoads s l v i) then none
    else allOf (rebuildQueue s l v) queueNos k := by
  unfold rebuild
  exact ⟨_, rfl⟩
theorem test_restored_of (s : State) (l : Launch) (v : Saved) (c : Nat) (k : Core) (hk : rebuild s l v c = some k) (hr : savedRlc s l v c = some Rlc.zero) :
    (restored s l v c).isSome = true := by
  unfold restored
  rw [hk, hr]
  rfl
/-- So it can be loaded. -/
theorem test_restored : (restored (sRes 2) lnB sv 1).isSome = true := by
  obtain ⟨k, hk⟩ := test_rebuild (sRes 2) lnB sv 1
  rw [test_area_bars, test_area_entries, if_neg (by decide), test_area_queues queueNos (by decide +kernel)] at hk
  exact test_restored_of _ _ _ _ k hk test_area_rlc
theorem test_restore : ok (exec (.restore 0) (sRes 3)) (fun t => t.mach.launches.map (fun (l : Launch) => (l.status, l.fcause)) == [(1, 0)] &&
    t.mach.saved == []) = true := by decide +kernel
/-- SOFTERR of a line of near DRAM of die 1 counts there; of VREG 5 it names the register. -/
theorem test_softerr : localMapped 0x800000040 = true ∧ ok (exec (.softerr .memLine 0 0x800000047) (mm Core.zero [])) (fun t => t.mem.poisoned 0 0x800000040 &&
      !t.mem.poisoned 0 0x800000080 && t.mach.dieReg 1 0x328 == 1) = true ∧
    [ErrPlace.vreg, .acc, .aStage, .wblock, .micro].all (fun p => errHas p 1 && ok (exec (.softerr p 0 1) (mm Core.zero [])) (fun t =>
      (t.mach.core 0).poisoned == [(p, 1)])) = true := by decide +kernel
theorem test_scrub : ok (exec (.scrubDie 2) (mm Core.zero [])) (fun t => t.mem == (mm Core.zero []).mem && t.mach.tick == 1) = true := by decide +kernel

/-! ### Tenants, replays (R318, R325) -/

/-- Every die's tables enabled with the context table at 0x1_0000; tenant 1 of host 0; core 0 as given; TNARG. -/
def sTn (k : Core) (arg : W64) : State :=
  let s := sFe FeQueue.zero []
  { s with mach := { s.mach with cores := [(0, k)], portRegs := [(0, 2), (0x48, arg)], dieRegs := [(0x300, 0x10001), (0x1300, 0x10001), (0x2300, 0x10001), (0x3300, 0x10001)] } }
def rOp (o : Out) : Option Nat :=
  match o with
  | .next t => some (fld (t.mach.portReg 0 0x040) 23 21)
  | _ => none
theorem test_create : (sTn kOwn 0x50000).mach.isMgmt 0 = true ∧
    ok (exec (.createTenant 0 2) (sTn kOwn 0x50000)) (fun t => Tab.get none t.mach.tenants 2 == some 0 && t.mem.read 0 0x10020 16 == 0x50001 &&
      t.mach.portReg 0 0x040 == 2) = true ∧ rOp (exec (.createTenant 0 0) (sTn kOwn 0)) = some 1 ∧ rOp (exec (.createTenant 0 1) (sTn kOwn 0)) = some 1 := by decide +kernel
theorem test_destroy : hasQueue 0 1 (sTn Core.zero 0) = false ∧ ok (exec (.destroyTenant 0 1) (sTn Core.zero 0)) (fun t => t.mach.tenants == [] &&
    t.mem.read 0 0x10010 8 == 0) = true ∧ rOp (exec (.destroyTenant 0 1) (sTn kOwn 0)) = some 3 := by decide +kernel
theorem test_cores : (sTn kOwn 0).mach.holds 0 = false ∧
    ok (exec (.givecore 0 1) (sTn Core.zero 0)) (fun t => (t.mach.core 0).owner == some 1) = true ∧ rOp (exec (.givecore 0 1) (sTn kOwn 0)) = some 3 ∧
    rOp (exec (.givecore 0 1) (sTn kOwn 640)) = some 4 ∧ ok (exec (.takecore 0 1) (sTn kOwn 0)) (fun t => (t.mach.core 0).owner == none) = true ∧
    rOp (exec (.takecore 0 1) (sTn kIdle 0)) = some 3 := by decide +kernel
theorem test_quota_badop : ok (exec (.setQuota 0 1) (sTn kOwn 0x70002)) (fun t => Tab.get 0 t.mach.quotas 0x20001 == 7 && t.mach.portReg 0 0x040 == 0x40001) = true ∧
    rOp (exec (.badop 0 1) (sTn kOwn 0)) = some 5 ∧ [Instr.destroyTenant 1 1, .givecore 1 1, .takecore 1 1, .setQuota 1 1, .preemptCore 1 1, .releaseCore 1 1].all
      (fun i => ok (exec i (sTn kOwn 0)) (fun t => fld (t.mach.portReg 1 0x040) 23 21 == 2)) = true := by decide +kernel
theorem test_preempt_release : ok (exec (.preemptCore 0 1) (sTn kIdle 0)) (fun t => t.mach.saves == [⟨0, true, false, false⟩]) = true ∧
    rOp (exec (.preemptCore 0 1) (sTn kOwn 0)) = some 3 ∧
    ok (exec (.releaseCore 0 1) { sTn kOwn 0 with mach := { (sTn kOwn 0).mach with saved := [{ sv with held := true }] } }) (fun t => t.mach.saved == [sv]) = true := by decide +kernel
/-- A copy parked in slot 2 of core 0. -/
def kPark : Core := { kCp lin with cq := [], parked := [(2, some lin)] }
theorem test_replay : ok (exec (.replayCopy 0 0 2) (sCp lin [])) (fun t => (t.mach.core 0).cq == [lin]) = true ∧
    ok (exec (.replayCopy 0 0 2) (mm kPark [])) (fun t => (t.mach.core 0).cq.map (fun (c : Copy) => (c.active, c.rerun)) == [(false, true)] &&
      (t.mach.core 0).parked == []) = true ∧
    ok (exec (.declineCopy 0 0 2) (mm kPark [])) (fun t => (t.mach.core 0).cq == [] && (t.mach.core 0).parked == [] &&
      ((t.mach.core 0).bar 0).landb == 4096) = true := by decide +kernel

/-! ### Host registers (R251 to R253, R317, R323, R339, R348, R349) -/

/-- Port 0 with the management plane, and registers of die 0. -/
def sHost (ps ds : Tab W64) : State :=
  let s := mm Core.zero []
  { s with mach := { s.mach with portRegs := (0, 2) :: ps, dieRegs := ds } }
theorem test_txinv : ok (exec (.txinv 1 0 0x50001) (sHost [] [])) (fun t => t.mach.dieReg 0 0x308 == 0x90001) = true ∧
    ok (exec (.txinv 1 0 0x70001) (sHost [] [])) (fun t => !flag (t.mach.dieReg 0 0x308) 19) = true ∧
    (sHost [] [(0x308, 0x90001)]).mach.invQuiet 0 = true ∧
    ok (exec (.txinvDone 0) { sHost [] [(0x308, 0x90001)] with mach := { (sHost [] [(0x308, 0x90001)]).mach with tlb := [⟨0, 1, 0, 65536, 0⟩, ⟨0, 2, 0, 65536, 0⟩] } }) (fun t =>
      t.mach.dieReg 0 0x308 == 0x10001 && t.mach.tlb == [⟨0, 2, 0, 65536, 0⟩]) = true := by decide +kernel
theorem test_refused : (sHost [] []).mach.isMgmt 1 = false ∧ [Instr.l2Commit 1 2 1, .pwrctlWrite 1 2 1].all (fun i => ok (exec i (sHost [] [])) (fun t =>
    t.mach.dieRegs == [] && t.mach.portReg 1 0x008 == 1)) = true := by decide +kernel
/-- The reset registers pass R252; a commit ends with the shadow in effect; without a domain it is refused. -/
theorem test_l2_commit : l2Bad (State.reset.mach.dieReg 0) = false ∧ ok (exec (.l2Commit 0 0 1) State.reset) (fun t => t.mach.dieReg 0 0x198 == 2) = true ∧
    ok (exec (.l2CommitDone 0) { State.reset with mach := State.reset.mach.setDieReg 0 0x198 2 }) (fun t => t.mach.dieReg 0 0x198 == 0) = true ∧
    ok (exec (.l2Commit 0 0 1) { State.reset with mach := State.reset.mach.setDieReg 0 0x100 0 }) (fun t => t.mach.dieReg 0 0x198 == 4) = true := by decide +kernel
/-- R348: TARGET OFFSR of an idle die, its change; a die in use refuses. -/
theorem test_power : (sHost [] []).mach.dieBusy 0 = false ∧ ok (exec (.pwrctlWrite 0 0 3) (sHost [] [])) (fun t => t.mach.dieReg 0 0x080 == 0x13) = true ∧
    ok (exec (.powerChangeDone 0) (sHost [] [(0x80, 0x13)])) (fun t => t.mach.dieReg 0 0x080 == 0xF) = true ∧
    ok (exec (.powerChangeDone 0) (sHost [] [(0x80, 0x1C)])) (fun t => t.mach.dieReg 0 0x080 == 0 && (t.mach.core 0).owner == none) = true ∧
    ok (exec (.pwrctlWrite 0 0 1) { sHost [] [] with mach := { (sHost [] []).mach with cores := [(0, kIdle)] } }) (fun t => t.mach.dieReg 0 0x080 == 0x20) = true := by decide +kernel
theorem test_thermal : ok (exec (.thermalTrip 0) (sHost [] [])) (fun t => t.mach.dieReg 0 0x080 == 0x40 && t.mach.msix == [(0, 0)] && t.mach.stopped 5) = true ∧
    ok (exec (.thermalResume 0) { sHost [] [] with mach := { (sHost [] []).mach with tripped := [(0, true)] } }) (fun t => !t.mach.stopped 5) = true := by decide +kernel
theorem test_masks : ok (exec (.featmaskWrite 0 0xF) (sHost [] [])) (fun t => t.mach.featMask == 7) = true ∧
    ok (exec (.iopwrWrite 0 0x7FF) (sHost [(0x200, 3)] [])) (fun t => t.mach.portReg 0 0x068 == 0x3FF && !t.mach.uliUp 0) = true ∧
    ok (exec (.redwinWrite 0 2 1 0xFF00000000600C01) (sHost [] [])) (fun t => t.mach.redwin 2 1 == 0x600001) = true ∧
    ok (exec (.redwinWrite 0 2 0 0x200010001) (sHost [] [])) (fun t => t.mach.redwin 2 0 == 0x200010001) = true ∧
    ok (exec (.redwinWrite 0 2 0 0x20001000D) (sHost [] [])) (fun t => t.mach.redwin 2 0 == 0x20001000C) = true ∧
    ok (exec (.redwinWrite 0 2 0 0x200020001) (sHost [] [])) (fun t => t.mach.redwin 2 0 == 0x200020000) = true := by decide +kernel
theorem test_attest : ok (exec (.attestGo 0 0x5000) (sHost [] [])) (fun t => t.mach.portReg 0 0x070 == 0x5000) = true ∧ flag (0x5001 : W64) 0 = true ∧
    ok (exec (.attestGo 0 0x5001) (sHost [] [])) (fun t => t.mach.portReg 0 0x070 == 0x5000) = true := by decide +kernel
theorem test_register_write : ok (exec (.registerWrite 0 0 0x048 9) (sHost [] [])) (fun t => t.mach.portReg 0 0x048 == 9) = true ∧
    ok (exec (.registerWrite 0 1 0x300 (-1)) (sHost [] [])) (fun t => t.mach.dieReg 0 0x300 == 0x3FFFFFF0001) = true ∧
    (match exec (.registerWrite 0 5 0 0) (sHost [] []) with
     | .fault .noSuchUnit => true
     | _ => false) = true ∧ ok (exec (.registerWrite 0 0 0x410 8) (sHost [(0x410, 12)] [])) (fun t => t.mach.portReg 0 0x410 == 4) = true := by decide +kernel

/-! ### Apertures (R246, R326) -/

/-- Aperture 0 of port 0: open, writable, tenant 1; aperture 1 physical, inside a window of one GiB from 0; 2 closed. -/
def sAp (bs : Tab Byte) : State :=
  let s := mm Core.zero bs
  { s with mach := { s.mach with portRegs := [(0, 2), (0x20, 1), (0x80, 0x10003), (0x88, 3)] } }
theorem test_aperture_hypotheses : apReached (sAp []) 0 0 0x4000 2 accRead = true ∧ apReached (sAp []) 0 1 0x4000 2 accWrite = true ∧
    apReached (sAp []) 0 2 0x4000 2 accRead = false ∧ apReached (sAp []) 0 2 0x4000 2 accWrite = false ∧ apReached (sAp []) 0 1 0x40000000 2 accRead = false ∧
    apWaits (sAp []) 0 0 0x4000 2 accRead = false ∧ apWaits (sAp []) 0 0 0x4000 2 accWrite = false ∧
    apPlace (sAp []) 0 ((sAp []).mach.apctl 0 0) 0x4000 ⟨true, true, true, false⟩ = .ok 0 0x4000 true ∧ hostSizeOk .cas 16 = true ∧ (sAp []).mach.asleep 0 0x4000 = false := by decide +kernel
theorem test_apertures : ok (exec (.hostApertureRead 0 0 0x4000 2) (sAp [(0x4000, 5), (0x4001, 6)])) (fun t => t.mach.hostData == [5, 6]) = true ∧
    ok (exec (.hostApertureRead 0 2 0x4000 2) (sAp [])) (fun t => t.mach.hostData == [0xFF, 0xFF] && t.mach.portReg 0 0x008 == 1 && t.mach.portReg 0 0x010 == 0x200004000) = true ∧
    ok (exec (.hostApertureWrite 0 1 0x403F [7, 8]) (sAp [])) (fun t => t.mem.bytes 0 0x403E 4 == [0, 7, 8, 0]) = true ∧
    ok (exec (.hostApertureWrite 0 2 0 [7]) (sAp [])) (fun t => t.mach.portReg 0 0x008 == 1 && t.mem == (sAp []).mem) = true := by decide +kernel
theorem test_host_atomics : [(HostOp.fetchAdd, 3, 0, 9), (.swap, 3, 0, 3), (.cas, 6, 8, 8), (.cas, 5, 8, 6)].all (fun e =>
    ok (exec (.hostAtomic 0 0 0x4000 e.1 8 (.ofNat 128 e.2.1) (.ofNat 128 e.2.2.1)) (sAp [(0x4000, 6)])) (fun t => t.mem.read 0 0x4000 8 == e.2.2.2 && t.mach.hostData == leBytes 6 8)) = true := by decide +kernel

/-! ### Fabric, bring-up, collectives (R327 to R337, R347) -/

theorem test_uli : uliOff ((mm Core.zero []).mach.portReg 0 0x068) 1 = false ∧
    ok (exec (.uliTrain 5 true) (sHost [(0x200, 3)] [])) (fun t => t.mach.portReg 0 0x228 == 5 && t.mach.portReg 1 0x228 == 5 && t.mach.uliUp 5) = true ∧
    ok (exec (.uliTrain 5 true) (sHost [(0x068, 8)] [])) (fun t => !t.mach.uliUp 5) = true ∧
    ok (exec (.uliDown 0) (sHost [(0x200, 3)] [])) (fun t => !t.mach.uliUp 0) = true := by decide +kernel
theorem test_remote : localMapped 0x4000 = true ∧ (mm Core.zero []).mach.asleep 0 0x4000 = false ∧
    ok (exec (.remoteRequest 7 1 0x4000 (.read 2)) (mm Core.zero [(0x4000, 5)])) (fun t => t.mach.hostData == [5, 0]) = true ∧
    ok (exec (.remoteRequest 7 1 0x4000 (.write [8, 9])) (mm Core.zero [])) (fun t => t.mem.bytes 0 0x3FFF 4 == [0, 8, 9, 0]) = true ∧
    ok (exec (.remoteRequest 7 1 0x4000 (.amo 9 8 7 5)) (mm Core.zero [(0x4000, 5)])) (fun t => t.mem.read 0 0x4000 8 == 7 && t.mach.hostData == leBytes 5 8) = true ∧
    ok (exec (.remoteRequest 7 1 0x4000 (.merged 5 false 8 9)) (mm Core.zero [(0x4000, 5)])) (fun t => t.mem.read 0 0x4000 8 == 9) = true ∧
    ok (exec (.remoteRequest 7 1 0x4000 (.contribution 0 0 3 2 1)) (mm Core.zero [])) (fun t => t.mach.contribs.map (fun (c : Contrib) => (c.dev, c.core, c.ctx, c.val)) == [(7, 2, 1, 3)]) = true := by
  decide +kernel
theorem test_power_good : State.reset.mach.unbooted = true ∧
    ok (exec (.powerGood 0 5) (booting 3)) (fun t => t.mach.cores.length == 640 && t.mem == Mem.zero) = true ∧
    ok (exec (.powerGood 1 0) State.reset) (fun t => t.mach.portReg 1 0x018 == 0x30) = true ∧
    ok (exec (.powerGood 3 0) (booting 2)) (fun t => t.mach.portReg 0 0x018 == 0xA072) = true ∧
    ok (exec (.powerGood 0 0) { booting 1 with mem := (mm Core.zero []).mem }) (fun t => t.mach.portReg 0 0x018 == 0xA002 && t.mem.loc == []) = true := by decide +kernel
theorem test_device_reset : ok (exec .deviceReset (mm kOwn [])) (fun t => t.mach.cores == [] && t.mach.dieRegs == State.reset.mach.dieRegs &&
    t.mem == (mm kOwn []).mem) = true := by decide +kernel
/-- Two members sum INT32: 64 bytes each, to 0x5000; the one of core 0 is a copy that runs. -/
def cDesc : List W64 := [0x800, 0x4000, 0x5000, 64, 0, 0, 0, 0]
def mem0 (c : Nat) (v : Byte) : CollMember := ⟨0, c, 0, none, 0, 5, cDesc, v :: leBytes 0 63, false⟩
def coll0 : Coll := ⟨4, 1, 4, 5, false, 0, 2, [mem0 1 3, mem0 0 250], false⟩
def collC : Copy := { cpy (.cpcoll { cpOk' with dest := .zero }) { iss (rCp 0x4000 64 0) with dests := [] } 64 with coll := some (4, 1) }
def sColl : State :=
  let s := sCp collC []
  { s with mach := { s.mach with colls := [coll0] } }
theorem test_collective : sColl.mach.collOn = true ∧ coll0.mismatched = false ∧
    ok (exec (.collectiveComplete 0) sColl) (fun t => t.mem.bytes 0 0x5000 2 == [253, 0] && (t.mach.core 0).cq == [] && t.mach.portReg 0 0x4C0 == 1 &&
      t.mach.portReg 1 0x4C0 == 1 && t.mach.colls == []) = true ∧ { sColl.mach with cores := [] }.membersOf 4 = [] := by decide +kernel
/-- Members that differ: nobody's result is written, and 0x4D8 counts. -/
theorem test_collective_mismatch : ({ coll0 with members := [{ mem0 1 3 with desc := cDesc.set 3 128 }, mem0 0 250] } : Coll).mismatched = true ∧
    ok (exec (.collectiveComplete 0) { sColl with mach := { sColl.mach with colls := [{ coll0 with members := [{ mem0 1 3 with bad := true }, mem0 0 250] }] } }) (fun t =>
      t.mem == sColl.mem && t.mach.portReg 0 0x4D8 == 1 && ((t.mach.core 0).bar 0).fault) = true := by decide +kernel
/-- Three FP32 contributions 1, 2^-24 and 2^-24 to a location of 0: in rank order 0x3F80_0000. -/
def con (ord : Bool) (core : Nat) (v : W64) : Contrib := ⟨none, false, 0, ord, true, 3, 0, core, 0, 0, 0x6000, 0, 4, v⟩
def sCon (ord : Bool) : State :=
  let s := mm Core.zero []
  { s with mach := { s.mach with contribs := [con ord 0 0x3F800000], rounds := [con ord 1 0x33800000, con ord 2 0x33800000] } }
theorem test_rounds : (sCon true).mach.rounds.all (fun r => r.meets (con true 0 0) && r.rank != (con true 0 0).rank) = true ∧
    ok (exec (.contribArrive 0) (sCon true)) (fun t => t.mach.contribs == [] && t.mach.rounds == [] && t.mem.read 0 0x6000 4 == 0x3F800000) = true ∧
    ok (exec (.contribArrive 0) (sCon false)) (fun t => t.mem.read 0 0x6000 4 == 0x3F800001) = true ∧
    ok (exec (.contribArrive 0) { sCon true with mach := { (sCon true).mach with rounds := [con true 1 0x33800000] } }) (fun t => t.mach.rounds.length == 2 && t.mem == (sCon true).mem) = true := by
  decide +kernel
/-! ### Further witnesses -/

/-- The ports let through what a launch reads, and what its end and a graph's write. -/
theorem test_launch_moves : (sLn kOwn ln []).mayMove 0 1 launchHolder 0 [(.read 0, ln.binds (sLn kOwn ln []))] ∧ (sLn kIdle lnB []).mach.rlcRests 0 = true ∧
    ((sLn kOwn lnB []).mem.framesOf 0).any (fun g => (sLn kOwn lnB []).mach.asleep 0 (g.page * 65536)) = false ∧
    (sLn kOwn lnB []).mayMove 0 1 launchHolder 1 (endMoves lnB.plan.comp 64 0x4000) ((sLn kOwn lnB []).mem.frameReqs 0 launchHolder 1) ∧
    (sGr 0 []).mayMove 0 1 launchHolder 38 [(.read 0, [(0x7000, 8)])] ∧
    (sGr 1 []).mayMove 0 1 launchHolder 38 ((.read 0, []) :: endMoves 0x6000 8 0) := by
  unfold State.mayMove State.portsOpen; decide +kernel
/-- A port without the management plane changes none of what R323 reserves, and each refusal counts. -/
theorem test_other_port : [(Instr.featmaskWrite 1 7, (0x060 : Nat)), (.iopwrWrite 1 0, 0x068), (.registerWrite 1 0 0x020 1, 0x020), (.registerWrite 1 0 0x028 1, 0x028),
    (.registerWrite 1 1 0x300 1, 0x10300)].all (fun e => ok (exec e.1 (sHost [] [])) (fun t => t.mach.portReg 1 0x008 == 1 && t.mach.portReg 1 0x010 == .ofNat 64 e.2 &&
      t.mach.portReg 0 e.2 == 0)) = true := by decide +kernel
/-- A COMMIT while one is at work is ignored; its end installs the values it took. -/
theorem test_l2_busy : ok (exec (.l2Commit 0 0 1) (sHost [] [(0x198, 2)])) (fun t => t.mach.dieReg 0 0x198 == 2 && t.mach.l2next == []) = true ∧
    ok (exec (.l2CommitDone 0) { sHost [] [(0x198, 2), (0x100, 9)] with mach := { (sHost [] [(0x198, 2), (0x100, 9)]).mach with l2next := [(0x100, 5)] } }) (fun t =>
      t.mem.l2reg 0 0x100 == 5) = true := by decide +kernel
/-- Requests from outside: a poisoned line is not returned, one whose home die does not serve waits, an unmapped address faults. -/
def sPois : State :=
  let s := mm Core.zero []
  { s with mem := s.mem.setPoison 0 0x4000 true }
theorem test_remote_stops : sPois.mem.poisoned 0 0x4000 = true ∧ reqOk 0x4000 (.read 2) = true ∧
    ok (exec (.remoteRequest 7 1 0x4000 (.read 2)) sPois) (fun t => t.mach.hostData == []) = true ∧
    (sHost [] [(0x80, 0xC)]).mach.asleep 0 0x4000 = true ∧
    ok (exec (.remoteRequest 7 1 0x4000 (.read 2)) (sHost [] [(0x80, 0xC)])) (fun t => t == sHost [] [(0x80, 0xC)]) = true ∧
    (match exec (.remoteRequest 7 1 0x4000 (.read 0)) sPois with
     | .fault .noSuchUnit => true
     | _ => false) = true ∧ (List.range 16).all (fun q => !(sHost [] []).mach.uliUp q) = true := by decide +kernel
theorem test_contribution_hypotheses : (sCon true).mach.asleep 0 0x6000 = false ∧ (sCon true).mach.homeMerged (con true 0 0) = false ∧
    (sWin.mach.homeMerged (con true 0 0) = true ∧ sWin.mach.collOn = true ∧ sWin.mach.buffersFull (con true 0 0) = false) := by decide +kernel

/-! ### Witnesses of further clauses -/

/-- The other operations merge in a window as AMOADD does; with a trained port an in-switch contribution has one to take. -/
def sWinOf (i : Instr) (r : W64) : State :=
  let s := sAmo i 0
  { s with mach := { s.mach with portRegs := [(0x300, r), (0x308, 1), (0x200, 1)] } }
theorem test_window_operations : [(Instr.amoand opAmo, 1), (.amoor opAmo, 2), (.amoxor opAmo, 3), (.amomin opAmo, 4), (.amomax opAmo, 5), (.amominu opAmo, 6),
    (.amomaxu opAmo, 7)].all (fun e => ok (exec (.atomicComplete 0 0) (sWinOf e.1 0x200010015)) (fun t =>
      t.mach.contribs.map (fun (c : Contrib) => (c.opc, c.val)) == [(e.2, 10)] && t.mem.read 0 0x2000 8 == 6)) = true ∧
    (sWinOf (.amoadd opAmo) 0x200010005).mach.window 1 0x2000 0x60 8 = some 0 ∧
    (sWinOf (.amoadd opAmo) 0x200010005).mach.fabricPorts 0 = [0] := by decide +kernel
/-- A thaw that the producer starts: the target is thawed, answers its HEAD and advertises it; the answer at either end; failure. -/
theorem test_producer_thaw :
    ok (exec (.thawHandshake 0 0) (sEnds { prod with frozen := true } { tgt with frozen := true } 0 (.thaw tA pA .producer 4 5))) (fun t =>
      !(t.mach.queueAt tA).frozen && (t.mach.core 5).out == [.thawReply pA true 2, .head pA 2]) = true ∧
    ok (exec (.thawHandshake 0 0) (sEnds { prod with frozen := true } tgt 0 (.thaw tA pA .producer 4 5))) (fun t =>
      t.mach.queueAt tA == tgt && (t.mach.core 5).out == [.thawReply pA false 0]) = true ∧
    ok (exec (.thawReply 0 0) (sEnds prod { tgt with frozen := true } 0 (.thawReply tA true 2))) (fun t =>
      !(t.mach.queueAt tA).frozen && (t.mach.core 5).out == [.head pA 2]) = true ∧
    (let s := sEnds { prod with frozen := true } tgt 5 (.thawReply pA false 0)
     ok (exec (.thawReply 5 0) { s with mach := { s.mach with tenants := [(1, some 1)] } }) (fun t => t.mach.reports == [(1, pA)])) = true ∧
    (let s := (sEnds { prod with frozen := true } tgt 5 (.thawReply pA false 0)).onCore 0 (fun k =>
       k.upd 0 (fun c => { c with wait := some ⟨.qthaw (sc (cw 0 2)), iss Regs.zero⟩ }))
     ok (exec (.thawReply 5 0) s) (fun t => ((t.mach.core 0).ctx 0).answer == some 0x800000000000000D)) = true := by decide +kernel
/-- A splice that reaches a core whose save has stopped it: the new ends start to freeze. One whose partner is saved waits. -/
theorem test_splice_saving :
    let s := sAsk tloc 4
    s.mach.awaySaved pA tA = false ∧ s.mach.saving 5 = false ∧ s.mach.saving 0 = false ∧
    (let s' := { s with mach := { s.mach with saves := [⟨5, true, true, false⟩] } }
     s'.mach.saving 5 = true ∧ ok (exec (.spliceRequest 0 0) s') (fun t => (t.mach.queueAt tA).role == .target && (t.mach.queueAt tA).freezing &&
       (t.mach.queueAt tA).pfrz) = true) ∧
    (let v : Saved := { sv with launch := 9, num := 5, core := { Core.zero with ctxs := [(1, { Ctx.zero with queues := [(1, tloc)] })] } }
     let s' := { s.onCore 0 (fun k => { k with launch := some 9 }) with mach := { (s.onCore 0 (fun k => { k with launch := some 9 })).mach with saved := [v] } }
     s'.mach.awaySaved pA tA = true ∧ ok (exec (.spliceRequest 0 0) s') (fun t => t == s') = true) := by decide +kernel
/-- QSAVE of chapter 19's empty FROZEN target end: 256 bytes, the first two 0x3320. QRESTORE of the record gives the queue back. -/
def q4' : Queue := { q4 with tail := 2 }
def sRec (i : Instr) (q : Queue) (bs : Tab Byte) : State :=
  mm { core0 Regs.zero with issue := none, ctxs := [(0, { ctx0 Regs.zero with queues := [(2, q)], wait := some ⟨i, iss (regs [(1, 0x4000)] 0)⟩ })] } bs
def recBytes : Tab Byte := (List.range 8).map (fun i => (0x4000 + i, (leBytes q4'.recWord 8).getD i 0))
theorem test_qsave_finishes :
    let s := sRec (.qsave (sc (cw 0 2))) q4' []
    s.here.queueDrained 0 2 = true ∧ (s.here.queueRecord 0 2).length = 256 ∧ translate s 0 1 0x4000 accWrite = .ok 0 0x4000 true ∧
    ok (exec (.bundleUnblock 0 0) s) (fun t => t.mem.read 0 0x4000 2 == 0x3320 && (t.here.ctx 0).regs.rS 4 == 256 && (t.here.ctx 0).regs.rP 3 &&
      (t.here.ctx 0).wait.isNone) = true := by decide +kernel
theorem test_record_moves : (sRec (.qsave (sc (cw 0 2))) q4' []).mayMove 0 1 (waitHolder 0) 5 [(.write, [(0x4000, 256)])] ∧
    (sRec (.qrestore (sc (cw 0 2))) Queue.zero recBytes).mayMove 0 1 (waitHolder 0) 5 [(.read 0, [(0x4000, 256)])] := by
  unfold State.mayMove State.portsOpen; decide +kernel
/-- The bytes of a run within the tenant's page are those of memory. -/
theorem test_read_bytes (s : State) (hs : onePage s = true) (va : Nat) : ∀ n i, va + n + i ≤ 2 ^ 30 →
    readVa.go s 0 1 va accRead n i = .ok ((List.range' (va + i) n).map (s.mem.byte 0))
  | 0, _, _ => rfl
  | n + 1, i, h => by
    have hv : (va + i) % 2 ^ 64 = va + i := by omega
    have ih := test_read_bytes s hs va n (i + 1) (by omega)
    rw [readVa.go]
    simp only [hv, test_page s hs 0 _ (show va + i < 2 ^ 30 by omega), ih]
    rfl
theorem test_record_sound (s : State) (h : onePage s = true) : softAt s 0 1 [(0x4000, 256)] = none := test_no_soft s h _ _ (by omega)
def sRest (bs : Tab Byte) : State := sRec (.qrestore (sc (cw 0 2))) Queue.zero bs
theorem test_qrestore_reads (bs : Tab Byte) (h : onePage (sRest bs) = true) :
    readVa (sRest bs) 0 1 0x4000 256 accRead = .ok ((List.range' 0x4000 256).map ((sRest bs).mem.byte 0)) :=
  test_read_bytes _ h _ _ _ (by omega)
theorem test_qrestore_finishes : onePage (sRest recBytes) = true ∧ onePage (sRest []) = true ∧
    (let r := SaveRec.ofBytes ((List.range' 0x4000 256).map ((sRest recBytes).mem.byte 0))
     r.bad false = false ∧ r.nblk = 0 ∧ (match (sRest recBytes).here.findBase false r.queue.cap r.queue.base.toNat with
       | .ok b => b == 32
       | .error _ => false) = true ∧ (match (sRest recBytes).here.findBase true 128 0 with
       | .ok b => b == 0
       | .error _ => false) = true) ∧
    (SaveRec.ofBytes ((List.range' 0x4000 256).map ((sRest []).mem.byte 0))).bad false = true := by decide +kernel
/-- Float lanes by hand: 1 + 2 and 3 × 0.5 in BF16, 1 × 2 + 3 in FP32; +∞ is not below itself; a tree of 1, 2, 3, 4; rounding. -/
theorem test_float_lanes :
    firstOf (vfloatOp (vin 0x201 .bf16 v0 [0x3F80] [0x4000] [])) 1 16 = some [0x4040] ∧
    firstOf (vfloatOp (vin 0x203 .bf16 v0 [0x4040] [0x3F00] [])) 1 16 = some [0x3FC0] ∧
    firstOf (vfloatOp (vin 0x204 .fp32 v0 [0x3F800000] [0x40000000] [0x40400000])) 1 32 = some [0x40A00000] ∧
    firstOf (vfloatOp (vin 0x20A .fp16 v0 [0x3C00] [] [])) 1 16 = some [0xBC00] ∧
    firstOf (vfcmpOp (vin 0x221 .fp32 v0 [0x7F800000, 0x3F800000] [0x7F800000, 0x7F800000] [])) 2 32 = some [0, 0xFFFFFFFF] ∧
    (vfredOp (vin 0x230 .fp32 v0 [0x3F800000, 0x40000000, 0x40400000, 0x40800000, 0, 0, 0, 0] [] [])).bits = some 0x41200000 ∧
    (vfredOp (vin 0x232 .fp32 v0 [0x3F800000, 0x7FC00000, 0x40400000, 0, 0, 0, 0, 0] [] [])).bits = some 0x40400000 ∧
    firstOf (vfroundOp (vin 0x241 .fp32 v0 [0x40200000, 0xBE800000] [] [])) 2 32 = some [0x40000000, 0x80000000] ∧
    firstOf (vcvtOp { vin 0x240 .int32 v0 [0x40200000] [] [] with sfmt := .fp32 }) 1 32 = some [2] := by decide +kernel
/-- 100 × 3 with a shift of 2 is 75; 1.5 × 2 in BF16 is 3. -/
theorem test_requantise :
    firstOf (vreqOp { vin 0x150 .int8 { v0 with aux := 2 } [] [] [] with srcs := [⟨100, 256⟩, ⟨3, 256⟩, ⟨0, 256⟩] }) 1 8 = some [75] ∧
    firstOf (vfreqOp { vin 0x242 .bf16 v0 [] [] [] with srcs := [⟨0x3FC00000, 256⟩, ⟨0x40000000, 256⟩, ⟨0, 256⟩] }) 1 16 = some [0x4040] := by decide +kernel
/-- VMRED of a plain element, VMODSET of both of a pair, VMODGET of a whole register; PAIR and UNPAIR at stage 1 of four. -/
theorem test_more_modular :
    firstOf (vresOp (m97 (vin 0x308 .mod64 v0 [100, 97] [] []))) 2 64 = some [3, 0] ∧
    (vmodsetOp (vin 0x30A .mod64 v0 [97, 98, 99, 100] [5, 6, 7, 8] [])).pair.map (fun e => (elemAt e.1.toNat 5 64, elemAt e.2.toNat 14 64)) = some (98, 7) ∧
    firstOf (vmodgetOp (m97 (vin 0x30B .mod64 v0 [] [] []))) 2 64 = some [97, 97] ∧
    firstOf (vpermOp (vin 0x307 .mod64 { v0 with aux := 4 } [1, 2, 3, 4] [] [])) 4 64 = some [1, 3, 2, 4] ∧
    firstOf (vpermOp (vin 0x307 .mod64 { v0 with aux := 0 } [1, 2, 3, 4] [] [])) 4 64 = some [1, 2, 3, 4] ∧
    firstOf (vpermOp (vin 0x307 .mod64 { v0 with aux := 5 } [1, 3, 2, 4] [] [])) 4 64 = some [1, 2, 3, 4] := by decide +kernel
/-- Each of the eleven packets has eight words that decode to it. -/
def allPkts : List Instr := [.pktNop hd, .beginBatch hd, .commitBatch hd, .fetchFence hd, .launchPkt hd 0x1000 0 0, .graphPkt hd 0x1000 8 1,
  .writePkt hd 0x40 2 7 9 0 0, .waitmemPkt hd 0x40 1 2 3 4, .pktLoop hd 2 3, .indirectPkt hd 0x40 3, .signalPkt hd 0x40 3 true true 5]
theorem test_packets_encode : allPkts.all (fun i => wellFormed i && (match encode i with
    | .packet q n ws => ws.length == 8 && (match decodePkt q n ws with
        | .ok j => i == j
        | .error _ => false)
    | _ => false)) = true := by decide +kernel
/-- Checks of R43 that trap: a reserved template, a reserved MX parcel, the last without a handler fatal with NOVEC. -/
def sBad (ws : List W64) : State := up { kMcall 0x04400000 { readyCtx with csr := [(0xF0, 0x401)] } with ispad := numbered 0 ws } 0
def trapOf (r : Ruling) : Option (Nat × Nat) :=
  match r with
  | .trap t => some (t.code, t.part)
  | _ => none
theorem test_issue_traps :
    trapOf ((nextBun (sBad [0x4000000006000600]) 0 0).1.ruling (nextBun (sBad [0x4000000006000600]) 0 0).2) = some (1, 0) ∧
    trapOf ((nextBun (sBad (matrixBundle 1)) 0 0).1.ruling (nextBun (sBad (matrixBundle 1)) 0 0).2) = some (2, 5) ∧
    ((nextBun (sBad (matrixBundle 1)) 0 0).1.k.held 0 = false ∧ (nextBun (sBad (matrixBundle 1)) 0 0).1.ctx.markWait = none) ∧
    ok (step (sBad [0x4000000006000600])) (fun t => let c := (t.mach.core 0).ctx 0
      c.inh && c.pc == 0x400 && c.rC 0xF1 == 1 && c.rC 0xF3 == 0) = true ∧
    ok (step (up (kMcall 0x01 readyCtx) 0)) (fun t => (t.mach.core 0).fatal == some (0, 0x31, 0)) = true := by decide +kernel
/-- Of a LD at an odd address ALIGN, of one beyond the tenant's pages XLATE; a SPAWN of the spawner. -/
def bunOf (a : W64) : Bun := (nextBun (mm { readyCore 0x04400000 with owner := some 1, ctxs := [(0, { readyCtx with regs := regs [(1, a)] 0 })] } []) 0 0).1
theorem test_access_checks : ((bunOf 0x1001).chk9 (.ld opLd)).map (fun t => (t.code, t.eaddr)) = some (0x09, 0x1003) ∧
    ((bunOf 0x40000000).chk9 (.ld opLd)).map (fun t => (t.code, t.eaddr)) = some (0x0A, 0x40000002) ∧ (bunOf 0x1000).chk9 (.ld opLd) = none ∧
    ((bunOf 0).chk10 (.spawn 0 4 0)).map (fun t => t.code) = some 0x0B ∧ ((bunOf 0).chk10 (.spawn 0 4 1)).map (fun t => t.code) = some 0x0B := by decide +kernel
/-- MSLOAD's and RLCGO's images move at once from near DRAM; so do the packets' ranges. -/
theorem test_moves : sMsload.mayMove 0 1 (waitHolder 0) 5 [(.read 0, [(0x4000, 72)])] ∧ sGo.mayMove 0 1 (waitHolder 0) 5 [(.read 0, [(0x50000, 256)])] ∧
    (sFe (fq (.writePkt hd 0x4000 2 7 9 0 0)) []).mayMove 0 1 (queueHolder (feKey 0 3)) 1
      (pktMoves (sFe (fq (.writePkt hd 0x4000 2 7 9 0 0)) []) 0 3 (pk 16 (.writePkt hd 0x4000 2 7 9 0 0))) ∧
    (sFe (fq wm) []).mayMove 0 1 (queueHolder (feKey 0 3)) 1 (pktMoves (sFe (fq wm) []) 0 3 (pk 16 wm)) ∧
    (sAp []).mayMove 0 1 (hostHolder 0) 0x4000 [(.read 0, [(0x4000, 8)])] ∧ (sAp []).mayMove 0 1 (hostHolder 0) 0x4000 [(.write, [(0x4000, 8)])] := by
  unfold State.mayMove State.portsOpen; decide +kernel
/-- A sparse MLDB takes its masks, two of four kept, at the metadata address; a codebook one its part. -/
def kSp (tag : W64) (a : W64) : Core :=
  { kU { ru a 0 0 with mp := 0x400 } with ispad := (List.range 64).map (fun i => (0x80 + i, 0x5555555555555555)), wtags := [(5, tag)] }
theorem test_mldb_masks : masksOk ((List.range 512).map (fun i =>
    BitVec.ofNat 8 (elemAt (Tab.get 0 (kSp 0x10006 5).ispad ((0x400 + i) / 8)).toNat ((0x400 + i) % 8) 8))) 2 = true := by
  have h : ∀ i ∈ List.range 512, BitVec.ofNat 8 (elemAt (Tab.get 0 (kSp 0x10006 5).ispad ((0x400 + i) / 8)).toNat ((0x400 + i) % 8) 8) = 0x55 := by
    have : (List.range 512).all (fun i => BitVec.ofNat 8 (elemAt (Tab.get 0 (kSp 0x10006 5).ispad ((0x400 + i) / 8)).toNat ((0x400 + i) % 8) 8) == 0x55) = true := by
      decide +kernel
    simpa using this
  rw [List.map_congr_left h, List.map_const', List.length_range]
  simp only [masksOk, maskNibble, List.length_replicate, List.all_eq_true, List.mem_range]
  intro n hn
  have e : (List.replicate 512 (0x55 : Byte)).getD (n / 2) 0 = 0x55 := by
    rw [List.getD_eq_getElem?_getD, List.getElem?_replicate, if_pos (by omega)]; rfl
  rw [e]
  split <;> decide
theorem test_mldb_forms : arrayClass (fmtOf ((kSp 0x10006 5).wtag 5)) = some (64, 4, 16) ∧ flag ((kSp 0x10006 5).wtag 5) 16 = true ∧
    fld (ru 5 0 0).metaWord 63 18 = 0 ∧
    rOf (exec (.mldb { u0 with flags := 4 }) (st (kSp 0x10001 0x45))) (fun _ r => r.bsel == some ⟨5, 1, 0, 1, []⟩) = true ∧
    rOf (exec (.mldb u0) (st { kSp 0 0x105 with rq := [{ ru 0x105 0 0 with void := true }] })) (fun _ r => r.bsel == none && r.reg 1 == 0x106) = true := by decide +kernel
/-- CPSTS of two rows of two bytes, 64 apart. -/
def rSts : Issue := { iss (regs [(2, 0x4000), (3, 0x200000002), (9, 0x40), (20, h0)] 0) with reads := [⟨6, 2, 0, 2, false⟩] }
def stsC : Copy := cpy (.cpsts { cpOk' with auxReg := 9, dest := .queue 2 0 false }) rSts 4
theorem test_cpsts : (kCp stsC).canLand stsC = true ∧ badOut (kCp stsC) stsC = [] ∧
    ok (exec (.copyLand 0 0) (sCp stsC [])) (fun t => (t.mach.core 0).cq == []) = true := by decide +kernel
/-- A CPCOLL: it starts; takes its number; joins; a descriptor of one level-4 domain of two members. -/
def dBytes : Tab Byte := [(0x6001, 8), (0x6009, 0x40), (0x6011, 0x50), (0x6018, 64)]
def collP : Instr := .cpcoll { cpOk' with dest := .zero }
def collI (t : Option Nat) : Copy := { cpy collP { iss (rCp 0x6000 0 0) with dests := [] } 0 with turn := t }
def sJoin (c : Copy) : State :=
  let k := { kCp c with ctxs := [(0, { ctx0 Regs.zero with domid := [(4, 0x1000005000002)] })] }
  mm k dBytes
def sNoColl (c : Copy) : State := { sJoin c with mach := { (sJoin c).mach with portRegs := [(0x068, 0x200), (0x1068, 0x200)] } }
theorem test_collective_starts : (sNoColl (collI none)).mach.collOn = false ∧ (kCp { collI none with active := false }).copyReady false 0 = true ∧
    ok (exec (.copyStart 0 0) (sNoColl { collI none with active := false })) (fun t => (t.mach.core 0).cq.map (fun (c : Copy) => c.active) == [true]) = true ∧
    portsDone (sJoin (collI none)).mach 0 5 = true ∧ ((sJoin (collI none)).mach.core 0).turnWaits (collI none) = false ∧
    rangesHeld (sJoin (collI none)) 0 (collI none).fl accRead [(0x6000, 64)] = false ∧ softAt (sJoin (collI none)) 0 1 [(0x6000, 64)] = none := by decide +kernel
theorem test_collective_turn : (readVa (sJoin (collI none)) 0 1 0x6000 64 accRead).toOption.map (fun bs => wordsOf bs 8) = some [0x800, 0x4000, 0x5000, 64, 0, 0, 0, 0] ∧
    dLevel [0x800, 0x4000, 0x5000, 64, 0, 0, 0, 0] = 4 ∧ dBad [0x800, 0x4000, 0x5000, 64, 0, 0, 0, 0] 2 = false ∧
    ok (exec (.copyLand 0 0) (sJoin (collI none))) (fun t => (t.mach.core 0).cq == [collI (some 0)] && Tab.get 0 ((t.mach.core 0).ctx 0).collSeq 4 == 1) = true ∧
    ok (exec (.copyLand 0 0) (sJoin (collI (some 0)))) (fun t => t.mach.colls.map (fun (q : Coll) => (q.level, q.k, q.count, q.members.length)) == [(4, 0, 2, 1)] &&
      (t.mach.core 0).cq.map (fun (c : Copy) => c.coll.isSome) == [true]) = true := by decide +kernel
/-- A dropped fabric port grants nothing; a trained one its window's tenant. -/
theorem test_dropped_port : let s := { sPort 0x10005 [⟨0, 13, 5, 2, 0, 0⟩] with mach := { (sPort 0x10005 [⟨0, 13, 5, 2, 0, 0⟩]).mach with portRegs := [(0x200, 1)] } }
    (sPort 0x10005 [⟨0, 13, 5, 2, 0, 0⟩]).mach.uliUp 0 = false ∧ ok (exec (.portGrant 0 13) (sPort 0x10005 [⟨0, 13, 5, 2, 0, 0⟩])) (fun t =>
      t == sPort 0x10005 [⟨0, 13, 5, 2, 0, 0⟩]) = true ∧ s.mach.uliUp 0 = true ∧ s.mach.grantee 0 13 = some ⟨0, 13, 5, 2, 0, 0⟩ := by decide +kernel
/-- An abort at a boundary ends the run with exit 6. -/
theorem test_rlc_abort : let s := { sStep 0 [] with mach := { (sStep 0 []).mach with rlcs := [(0, { rlc0 with abort := true })] } }
    (s.mach.rlc 0).atBoundary (s.mach.core 0) = true ∧ (s.mach.rlc 0).abort = true := by decide +kernel
/-- With nothing to fold a contribution to a poisoned line is dropped with its round; one of three, of a full round. -/
theorem test_poisoned_round : let s := { sCon true with mem := (sCon true).mem.setPoison 0 0x6000 true }
    ok (exec (.contribArrive 0) s) (fun t => t.mach.rounds == [] && t.mem == s.mem) = true ∧
    mergedValue [con true 0 0x3F800000, con true 1 0x33800000, con true 2 0x33800000] = some 0x3F800000 := by decide +kernel
/-- What another device asks of near DRAM waits for no port of this one where none is trained. -/
theorem test_remote_ready : (mm Core.zero []).portsOpen (remoteHolder 7) 0x4000 (remotePorts (mm Core.zero []) 7 1 0x4000 (.read 2)) ∧
    (mm Core.zero []).portsOpen (remoteHolder 7) 0x4000 (remotePorts (mm Core.zero []) 7 1 0x4000 (.write [8, 9])) ∧
    (sEph [bnd] 0 0).portsOpen bnd.holder bnd.readTag (portNeeds (sEph [bnd] 0 0) bnd.agent 1 bnd.holder bnd.readTag true (.read 0) [(0x6000, 32)]) := by
  unfold State.portsOpen; decide +kernel

end Sys2Proof.Tests
end

section
/-! SUPPORT. Elements of packed words, and how many bits the numbers of each format take. -/
namespace Sys2Proof.NumberFormats
open Sys2Proof Sys2Proof.Machine

/-- A bound on both branches bounds the choice. -/
theorem ite_lt_of {p : Prop} [Decidable p] {a b c : Nat} (ha : a < c) (hb : ¬p → b < c) : (if p then a else b) < c :=
  iteInduction (motive := (· < c)) (fun _ => ha) hb

/-! ### Elements (R57, R129) -/

theorem elemAt_lt (v i e : Nat) : elemAt v i e < 2 ^ e := Nat.mod_lt _ (Nat.two_pow_pos e)
/-- Element `i` of a packed list is the `i`-th of the list, cut to the width; past the end there are zeros. -/
theorem elemAt_packElems (e : Nat) (l : List Nat) (i : Nat) : elemAt (packElems e l) i e = l.getD i 0 % 2 ^ e := by
  induction l generalizing i with
  | nil => rw [packElems, elemAt, Nat.zero_shiftRight, List.getD_nil]
  | cons x t ih =>
    have hlow : x % 2 ^ e < 2 ^ e := Nat.mod_lt _ (Nat.two_pow_pos e)
    cases i with
    | zero =>
      rw [elemAt, packElems, Nat.mul_zero, Nat.shiftRight_zero, Nat.shiftLeft_eq, Nat.add_mul_mod_self_right, Nat.mod_mod,
        List.getD_cons_zero]
    | succ i =>
      have hshift : packElems e (x :: t) >>> e = packElems e t := by
        rw [packElems, Nat.shiftLeft_eq, Nat.shiftRight_eq_div_pow, Nat.add_mul_div_right _ _ (Nat.two_pow_pos e),
          Nat.div_eq_of_lt hlow, Nat.zero_add]
      rw [List.getD_cons_succ, ← ih, elemAt, elemAt, Nat.mul_succ, Nat.add_comm, Nat.shiftRight_add, hshift]

/-! ### The kinds of formats: no integer format is a float or a tapered one -/

theorem isFloat_eq_false_of_isInt {f : Fmt} (hf : f.isInt = true) : f.isFloat = false := by
  match f, hf with
  | .int8, _ | .uint8, _ | .int16, _ | .int32, _ | .int64, _ => rfl
theorem isInt_eq_false_of_isFloat {f : Fmt} (hf : f.isFloat = true) : f.isInt = false := by
  match f, hf with
  | .bf16, _ | .fp16, _ | .fp32, _ => rfl
theorem isInt_eq_false_of_isTapered {f : Fmt} (hf : f.isTapered = true) : f.isInt = false := by
  match f, hf with
  | .tf8, _ | .tf6, _ => rfl

theorem ne_mod64_of_notMem {f : Fmt} (hf : f ∉ [Fmt.raw, .mod64]) : f ≠ .mod64 :=
  fun h => hf (h ▸ List.mem_cons_of_mem _ (List.mem_singleton_self _))

/-! ### Integers (R12, R57, R137, R138) -/

/-- The model's wrapping is the two's complement reading of Lean's bit vectors. -/
theorem wrapTo_eq_toNat_ofInt (t : Int) (w : Nat) : wrapTo t w = (BitVec.ofInt w t).toNat := by
  rw [wrapTo, BitVec.toNat_ofInt]
theorem wrapTo_lt (t : Int) (w : Nat) : wrapTo t w < 2 ^ w := by
  rw [wrapTo_eq_toNat_ofInt]; exact BitVec.isLt _
/-- The model's sign extension is the signed reading of Lean's bit vectors. -/
theorem sext_eq_toInt_ofNat (x w : Nat) : sext x w = (BitVec.ofNat w x).toInt := by
  rw [BitVec.toInt_eq_msb_cond, BitVec.msb_eq_decide, BitVec.toNat_ofNat, sext]
  by_cases hw : w = 0
  · subst hw
    rw [Nat.pow_zero, Nat.mod_one]
    rfl
  · simp only [ne_eq, hw, not_false_eq_true, true_and, decide_eq_true_eq, ge_iff_le]
/-- A binary fraction plus an integer stays over the same power of two. -/
theorem add_ofInt_two_pow (x z : Int) (sh : Nat) :
    (⟨x, 2 ^ sh⟩ : Q).add (Q.ofInt z) = ⟨x + z * (2 ^ sh : Nat), 2 ^ sh⟩ := by
  by_cases h : 2 ^ sh = 1
  · simp only [Q.add, Q.ofInt, h, if_true, Int.natCast_one, Int.mul_one]
  · simp only [Q.add, Q.ofInt, h, Nat.mod_one, Nat.div_one, if_true, if_false]
theorem cvtToInt_lt (v : Val) (f : Fmt) (rnd : Rnd) : cvtToInt v f rnd < 2 ^ f.width := by
  cases v with
  | nan => exact Nat.two_pow_pos _
  | inf s => exact wrapTo_lt _ _
  | zero s => exact Nat.two_pow_pos _
  | fin q => exact wrapTo_lt _ _

/-! ### IEEE formats (R130, R137) -/

/-- A float element is a sign bit over the exponent and fraction. -/
theorem width_of_isFloat {f : Fmt} (hf : f.isFloat = true) : f.width = f.fracBits + f.expBits + 1 := by
  match f, hf with
  | .bf16, _ | .fp16, _ | .fp32, _ => rfl
theorem nanBits_lt {f : Fmt} (hf : f.isFloat = true) : f.nanBits < 2 ^ f.width := by
  match f, hf with
  | .bf16, _ | .fp16, _ | .fp32, _ => decide
/-- The code of infinity, without a sign. -/
theorem infBits_lt (f : Fmt) : (2 ^ f.expBits - 1) * 2 ^ f.fracBits < 2 ^ (f.fracBits + f.expBits) := by
  rw [Nat.add_comm, Nat.pow_add]
  exact Nat.mul_lt_mul_of_pos_right (Nat.sub_lt (Nat.two_pow_pos _) Nat.one_pos) (Nat.two_pow_pos _)
theorem signBits_add_lt {f : Fmt} (hf : f.isFloat = true) (neg : Bool) {m : Nat} (hm : m < 2 ^ (f.fracBits + f.expBits)) :
    signBits f neg + m < 2 ^ f.width := by
  rw [width_of_isFloat hf, Nat.pow_succ, signBits]
  split <;> omega
theorem signBits_lt {f : Fmt} (hf : f.isFloat = true) (neg : Bool) : signBits f neg < 2 ^ f.width :=
  signBits_add_lt hf neg (Nat.two_pow_pos _)
theorem overflowBits_lt {f : Fmt} (hf : f.isFloat = true) (rnd : Rnd) (sat neg : Bool) :
    overflowBits f rnd sat neg < 2 ^ f.width := by
  have hinf := infBits_lt f
  exact signBits_add_lt hf neg (ite_lt_of (Nat.lt_of_le_of_lt (Nat.sub_le _ 1) hinf) (fun _ => hinf))
/-- Rounding into a float format gives an element of that format. -/
theorem roundIeee_lt {f : Fmt} (hf : f.isFloat = true) (v : Val) (rnd : Rnd) (sat : Bool) :
    roundIeee v f rnd sat < 2 ^ f.width := by
  have hinf := infBits_lt f
  cases v with
  | nan => exact nanBits_lt hf
  | inf s => exact signBits_add_lt hf s hinf
  | zero s => exact signBits_lt hf s
  | fin q =>
    exact ite_lt_of (overflowBits_lt hf rnd sat _)
      (fun hcode => signBits_add_lt hf _ (Nat.lt_trans (Nat.lt_of_not_le hcode) hinf))

/-! ### Tapered formats (R133 to R136) -/

theorem tfFloor_le (a : Q) (n c : Nat) : tfFloor a n c ≤ c := by
  induction c with
  | zero => exact Nat.le_refl 0
  | succ c ih =>
    rw [tfFloor]
    split <;> omega
/-- Below the magnitude of code `c` the greatest code lies below `c`. -/
theorem tfFloor_lt {a : Q} {n c : Nat} (hc : 0 < c) (h : (tfG c n).le a = false) : tfFloor a n c < c := by
  cases c with
  | zero => exact absurd hc (Nat.lt_irrefl 0)
  | succ c =>
    rw [tfFloor, if_neg (by rw [h]; decide)]
    exact Nat.lt_succ_of_le (tfFloor_le a n c)
/-- A number's tapered code is a sign bit over a magnitude code, which rounding up never carries out of. -/
theorem exists_encodeTF_fin {n : Nat} (hn : 1 < n) (q : Q) (rnd : Rnd) : ∃ c, c ≤ 2 ^ (n - 1) - 1 ∧
    encodeTF (.fin q) n rnd = if c = 0 then 0 else (if q.isNeg then 2 ^ (n - 1) else 0) + c := by
  have htop : 0 < 2 ^ (n - 1) - 1 := Nat.sub_pos_of_lt (Nat.one_lt_two_pow (by omega))
  refine ⟨_, ?_, rfl⟩
  split
  · exact Nat.le_refl _
  · next hbelow =>
    have hlt := tfFloor_lt htop (Bool.eq_false_iff.mpr hbelow)
    dsimp only
    refine iteInduction (motive := (· ≤ 2 ^ (n - 1) - 1)) (fun _ => Nat.le_of_lt hlt) (fun _ => ?_)
    cases rnd with
    | rz => exact Nat.le_of_lt hlt
    | _ => dsimp only; split <;> omega
/-- Encoding into `n` bits gives `n` bits. -/
theorem encodeTF_lt {n : Nat} (hn : 1 < n) (v : Val) (rnd : Rnd) : encodeTF v n rnd < 2 ^ n := by
  have hpow : 2 ^ n = 2 ^ (n - 1) + 2 ^ (n - 1) := by
    rw [← Nat.two_mul, ← Nat.pow_succ', Nat.succ_eq_add_one, Nat.sub_add_cancel (Nat.le_of_lt hn)]
  have hpos := Nat.two_pow_pos (n - 1)
  cases v with
  | nan | inf s => simp only [encodeTF]; omega
  | zero s => exact Nat.two_pow_pos n
  | fin q =>
    obtain ⟨c, hc, he⟩ := exists_encodeTF_fin hn q rnd
    rw [he]
    split
    · exact Nat.two_pow_pos n
    · split <;> omega
/-- `Round` into a float format. -/
theorem roundVal_of_isFloat {f : Fmt} (hf : f.isFloat = true) (v : Val) (rnd : Rnd) (sat : Bool) (b : Int) :
    roundVal v f rnd sat b = roundIeee v f rnd sat := by
  match f, hf with
  | .bf16, _ | .fp16, _ | .fp32, _ => rfl
/-- `Round` into a tapered format divides by the bank's scale. -/
theorem roundVal_of_isTapered {f : Fmt} (hf : f.isTapered = true) (v : Val) (rnd : Rnd) (sat : Bool) (b : Int) :
    roundVal v f rnd sat b = encodeTF (v.scale (-b)) f.width rnd := by
  match f, hf with
  | .tf8, _ | .tf6, _ => rfl
/-- `Round` into a format gives an element of that format, an integer one too. -/
theorem roundVal_lt {f : Fmt} (hf : f ∉ [Fmt.raw, .mod64]) (v : Val) (rnd : Rnd) (sat : Bool) (b : Int) :
    roundVal v f rnd sat b < 2 ^ f.width := by
  match f, hf with
  | .bf16, _ | .fp16, _ | .fp32, _ => exact roundIeee_lt rfl v rnd sat
  | .tf8, _ | .tf6, _ => exact encodeTF_lt (by decide) _ rnd
  | .int8, _ | .uint8, _ | .int16, _ | .int32, _ | .int64, _ => exact cvtToInt_lt v _ rnd

/-! ### Approximations (R147, R148): every helper gives 32 bits -/

theorem fp32Inf_lt (neg : Bool) : signBits .fp32 neg + 0x7F800000 < 2 ^ 32 := signBits_add_lt rfl neg (by decide)
theorem fp32Zero_lt (neg : Bool) : signBits .fp32 neg < 2 ^ 32 := signBits_lt rfl neg
theorem fp32Nan_lt : Fmt.nanBits .fp32 < 2 ^ 32 := nanBits_lt rfl
theorem flushRound_lt (q : Q) (p : Nat) : flushRound q p < 2 ^ 32 := by
  unfold flushRound
  split
  · decide
  · refine ite_lt_of (fp32Zero_lt _) (fun _ => ?_)
    exact ite_lt_of (fp32Inf_lt _) (fun _ => roundIeee_lt rfl _ _ _)
theorem stepRound_lt (q : Q) (a x : Nat) (neg : Bool) : stepRound q a x neg < 2 ^ 32 :=
  ite_lt_of (fp32Zero_lt _) (fun _ => flushRound_lt _ _)
theorem rcpApprox_lt (x : Nat) : rcpApprox x < 2 ^ 32 := by
  unfold rcpApprox
  split
  · exact fp32Nan_lt
  · exact fp32Zero_lt _
  · exact fp32Inf_lt _
  · exact flushRound_lt _ _
theorem rsqApprox_lt (x : Nat) : rsqApprox x < 2 ^ 32 := by
  unfold rsqApprox
  split
  · exact fp32Nan_lt
  · split <;> decide
  · exact fp32Inf_lt _
  · split
    · exact fp32Nan_lt
    · exact flushRound_lt _ _
theorem rcpStep_lt (a x : Nat) : rcpStep a x < 2 ^ 32 := by
  unfold rcpStep
  split
  · exact fp32Nan_lt
  · exact fp32Nan_lt
  · exact fp32Zero_lt _
  · exact fp32Inf_lt _
  · exact fp32Inf_lt _
  · exact stepRound_lt _ _ _ _
theorem rsqStep_lt (a x : Nat) : rsqStep a x < 2 ^ 32 := by
  unfold rsqStep
  split
  · exact fp32Nan_lt
  · exact fp32Nan_lt
  · exact fp32Zero_lt _
  · exact fp32Inf_lt _
  · exact fp32Inf_lt _
  · exact stepRound_lt _ _ _ _
theorem exp2Approx_lt (x : Nat) : exp2Approx x < 2 ^ 32 := by
  unfold exp2Approx
  split
  · exact fp32Nan_lt
  · split <;> decide
  · decide
  · dsimp only
    exact ite_lt_of (by decide) (fun _ => ite_lt_of (by decide) (fun _ => ite_lt_of (by decide) (fun _ =>
      ite_lt_of (by decide) (fun _ => ite_lt_of (by decide) (fun _ => roundIeee_lt rfl _ _ _)))))

end Sys2Proof.NumberFormats
end

section
/-! SUPPORT. The lanes of a vector or crossbar result: element `i` of what each shared shape of operation gives. -/
namespace Sys2Proof.NumberFormats
open Sys2Proof Sys2Proof.Machine

/-- An element of a source fits its width. -/
theorem srcElem_lt (s : Src) (i e : Nat) : s.elem i e < 2 ^ e := elemAt_lt _ _ _
theorem at_mod (v : VIn) (s i : Nat) : v.at s i % 2 ^ v.f.width = v.at s i :=
  Nat.mod_eq_of_lt (srcElem_lt _ _ _)

/-- A result made element by element: lane `i` holds the `i`-th, cut to the width. -/
theorem each_lane (v : VIn) (g : Nat → Nat) {i : Nat} (hi : i < v.n) :
    ∃ bits, (v.each g).bits = some bits ∧ elemAt bits i v.f.width = g i % 2 ^ v.f.width :=
  ⟨_, rfl, by rw [VIn.e, elemAt_packElems, List.getD_eq_getElem?_getD, List.getElem?_map, List.getElem?_range hi,
    Option.map_some, Option.getD_some]⟩
/-- The same where the element fits its width. -/
theorem each_lane_of_lt (v : VIn) (g : Nat → Nat) {i : Nat} (hi : i < v.n) (hg : g i < 2 ^ v.f.width) :
    ∃ bits, (v.each g).bits = some bits ∧ elemAt bits i v.f.width = g i := by
  obtain ⟨bits, hbits, hlane⟩ := each_lane v g hi
  exact ⟨bits, hbits, hlane.trans (Nat.mod_eq_of_lt hg)⟩
/-- The narrowing rule of R190: past the last source element there are zeros. -/
theorem narrow_lane (v : VIn) (es : Nat) (g : Nat → Nat) {i : Nat} (hi : i < v.n) :
    ∃ bits, (v.narrow es g).bits = some bits ∧ elemAt bits i v.f.width = if i < v.c / es then g i % 2 ^ v.f.width else 0 := by
  obtain ⟨bits, hbits, hlane⟩ := each_lane v (fun i => if i < v.c / es then g i else 0) hi
  exact ⟨bits, hbits, by rw [hlane, apply_ite (· % 2 ^ v.f.width), Nat.zero_mod]⟩
/-- At an integer type a crossbar result is its elements, with no NaN to write anew (R193). -/
theorem pieces_lane (v : VIn) (g : Nat → Nat → Nat → Nat) {i : Nat} (hi : i < v.n) (hf : v.f.isInt = true) :
    ∃ bits, (v.pieces g).bits = some bits ∧ elemAt bits i v.f.width =
      g (v.w / v.f.width) (i / (v.w / v.f.width) * (v.w / v.f.width)) (i % (v.w / v.f.width)) % 2 ^ v.f.width := by
  obtain ⟨bits, hbits, hlane⟩ := each_lane v
    (fun i => canonNan (g (v.w / v.f.width) (i / (v.w / v.f.width) * (v.w / v.f.width)) (i % (v.w / v.f.width))) v.f) hi
  have hnan : ∀ x, ¬(v.f.isFloat = true ∧ (decodeIeee x v.f).isNan = true) := fun _ h =>
    Bool.noConfusion ((isFloat_eq_false_of_isInt hf).symm.trans h.1)
  exact ⟨bits, hbits, by rw [hlane, canonNan, if_neg (hnan _), Nat.mod_mod]⟩

/-! ### The pattern of XPERM (R194) -/

theorem length_xpermPattern (c : Cw) (bank : Tile) (n : Nat) : (xpermPattern c bank n).length = n := by
  rw [xpermPattern, List.length_map, List.length_range]
/-- The pattern is made of bytes. -/
theorem lt_of_mem_xpermPattern {c : Cw} {bank : Tile} {n b : Nat} (hb : b ∈ xpermPattern c bank n) : b < 256 := by
  obtain ⟨i, -, rfl⟩ := List.mem_map.mp hb
  cases c.src2 <;> exact Nat.mod_lt _ (by decide)
/-- A pattern byte sends its element to place `j` when it is `j`: bit 7 drops the element, the rest is the place. -/
theorem sends_iff {b j : Nat} (hb : b < 256) (hj : j < 128) :
    (!bitAt b 7 && decide (bitsOf b 6 0 = j)) = true ↔ b = j := by
  have hdrop : bitAt b 7 = decide (b / 128 % 2 = 1) := Nat.testBit_eq_decide_div_mod_eq
  have hplace : bitsOf b 6 0 = b % 128 := rfl
  rw [hdrop, hplace, Bool.and_eq_true, Bool.not_eq_true', decide_eq_true_eq, decide_eq_false_iff_not]
  omega
/-- Byte `k` of a pattern of bytes sends element `k` to place `j` when it is `j`. -/
theorem sends_getD_iff {pat : List Nat} (hpat : ∀ b ∈ pat, b < 256) {j k : Nat} (hj : j < 128) (hk : k < pat.length) :
    (!bitAt (pat.getD k 0x80) 7 && decide (bitsOf (pat.getD k 0x80) 6 0 = j)) = true ↔ pat[k]? = some j := by
  rw [List.getD_eq_getElem?_getD, List.getElem?_eq_getElem hk, Option.getD_some, Option.some_inj]
  exact sends_iff (hpat _ (List.getElem_mem hk)) hj
/-- The element sent to a place is the first whose byte names it. -/
theorem sentTo_eq_some {pat : List Nat} (hpat : ∀ b ∈ pat, b < 256) {j k : Nat} (hj : j < 128) (hk : pat[k]? = some j)
    (hfirst : ∀ l, l < k → pat[l]? ≠ some j) : sentTo pat j = some k := by
  have hlen : k < pat.length := (List.getElem?_eq_some_iff.mp hk).1
  rw [sentTo, List.find?_range_eq_some]
  refine ⟨(sends_getD_iff hpat hj hlen).mpr hk, List.mem_range.mpr hlen, fun l hl => ?_⟩
  rw [Bool.not_eq_true', Bool.eq_false_iff, ne_eq, sends_getD_iff hpat hj (Nat.lt_trans hl hlen)]
  exact hfirst l hl
/-- No element is sent to a place that no byte names. -/
theorem sentTo_eq_none {pat : List Nat} (hpat : ∀ b ∈ pat, b < 256) {j : Nat} (hj : j < 128)
    (hnone : ∀ k, k < pat.length → pat[k]? ≠ some j) : sentTo pat j = none := by
  rw [sentTo, List.find?_range_eq_none]
  intro k hk
  rw [Bool.not_eq_true', Bool.eq_false_iff, ne_eq, sends_getD_iff hpat hj hk]
  exact hnone k hk

/-- Settles O39: each move's source index is its definition's; the pattern of XPERM is made of bytes, so the byte that sends
an element to place `j` is the one that equals `j`. -/
theorem crossbarMoves : Obligations.CrossbarMoves := by
  intro v i hf hi n _ base j a
  refine ⟨?_, ?_⟩
  · obtain ⟨bits, hbits, hlane⟩ := pieces_lane v _ hi hf
    refine ⟨bits, hbits, fun ho => ?_, fun ho => ?_, fun ho => ?_, fun ho => ?_, fun ho => ?_⟩ <;>
      simp only [hlane, ho]
    case refine_4 => split <;> exact at_mod v _ _
    all_goals exact at_mod v _ _
  · obtain ⟨bits, hbits, hlane⟩ := pieces_lane v _ hi hf
    have hpat : ∀ b ∈ xpermPattern v.p.cw v.bank (v.w / v.f.width), b < 256 := fun _ => lt_of_mem_xpermPattern
    refine ⟨bits, hbits, fun k _ hk hj hfirst => ?_, fun hnone hj => ?_⟩
    · have hsent : sentTo (xpermPattern v.p.cw v.bank (v.w / v.f.width)) (i % (v.w / v.f.width)) = some k :=
        sentTo_eq_some hpat hj hk hfirst
      simp only [hlane, VIn.e, hsent]
      exact at_mod v _ _
    · have hsent : sentTo (xpermPattern v.p.cw v.bank (v.w / v.f.width)) (i % (v.w / v.f.width)) = none :=
        sentTo_eq_none hpat hj (by rwa [length_xpermPattern])
      simp only [hlane, VIn.e, hsent]
      split
      · exact Nat.zero_mod _
      · exact at_mod v _ _

end Sys2Proof.NumberFormats
end

section
/-! SUPPORT. Tapered values, and the lanes of the conversions, roundings, requantizations and special functions. -/
namespace Sys2Proof.NumberFormats
open Sys2Proof Sys2Proof.Machine

/-! ### Conversion (R138, R139, R190) -/

/-- One integer format into another: the source's value, clamped where asked, cut to the width. -/
theorem cvtElem_int_int {sf f : Fmt} (hf : f.isInt = true) (hsf : sf.isInt = true) (sb db : Int) (rnd : Rnd) (sat : Bool)
    (x : Nat) : cvtElem sf f sb db rnd sat x =
      let t : Int := if sf = .uint8 then x else (BitVec.ofNat sf.width x).toInt
      (BitVec.ofInt f.width (if sat then clampInt t f else t)).toNat := by
  have hmod : f ≠ .mod64 := by rintro rfl; cases hf
  simp only [cvtElem, hmod, hf, hsf, false_and, if_false, and_self, if_true, roundInt, wrapTo_eq_toNat_ofInt,
    sext_eq_toInt_ofNat]
/-- Between other formats: the source's value into an integer by `CvtToInt`, into the rest by `Round`. -/
theorem cvtElem_of_not_int {sf f : Fmt} (hmod : f ≠ .mod64) (h : ¬(f.isInt = true ∧ sf.isInt = true)) (sb db : Int) (rnd : Rnd)
    (sat : Bool) (x : Nat) : cvtElem sf f sb db rnd sat x =
      if f.isInt then cvtToInt (valueOf x sf sb) f rnd else roundVal (valueOf x sf sb) f rnd sat db := by
  simp only [cvtElem, hmod, h, false_and, if_false]
theorem cvtElem_lt {sf f : Fmt} (hf : f ∉ [Fmt.raw, .mod64]) (sb db : Int) (rnd : Rnd) (sat : Bool) (x : Nat) :
    cvtElem sf f sb db rnd sat x < 2 ^ f.width := by
  have hmod := ne_mod64_of_notMem hf
  by_cases h : f.isInt = true ∧ sf.isInt = true
  · rw [cvtElem_int_int h.1 h.2]
    exact BitVec.isLt _
  · rw [cvtElem_of_not_int hmod h]
    split
    · exact cvtToInt_lt _ _ _
    · exact roundVal_lt hf _ _ _ _
/-- Element `i` of VCVT. -/
theorem vcvtOp_lane {v : VIn} (hf : v.f ∉ [Fmt.raw, .mod64]) {i : Nat} (hi : i < v.n) :
    ∃ bits, (vcvtOp v).bits = some bits ∧ elemAt bits i v.f.width =
      if v.c / v.sfmt.width ≤ v.p.cw.aux.toNat / 16 * v.n + i then 0
      else cvtElem v.sfmt v.f v.sscale v.dscale v.rnd v.sat
        ((srcAt v.srcs 0).elem (v.p.cw.aux.toNat / 16 * v.n + i) v.sfmt.width) :=
  each_lane_of_lt v _ hi (ite_lt_of (Nat.two_pow_pos _) (fun _ => cvtElem_lt hf _ _ _ _ _))
/-- Element `i` of VFROUND. -/
theorem vfroundOp_lane {v : VIn} (hf : v.f.isFloat = true) {i : Nat} (hi : i < v.n) :
    ∃ bits, (vfroundOp v).bits = some bits ∧ elemAt bits i v.f.width = match valueOf (v.at 0 i) v.f 0 with
      | .fin q => roundIeee (Val.ofQ ⟨roundToInteger q v.rnd, 1⟩ (decide (q.num < 0))) v.f .rne false
      | x => roundIeee x v.f .rne false := by
  obtain ⟨bits, hbits, hlane⟩ := each_lane v _ hi
  refine ⟨bits, hbits, hlane.trans ?_⟩
  simp only [VIn.val]
  cases valueOf (v.at 0 i) v.f 0 <;> dsimp only <;> rw [roundVal_of_isFloat hf] <;>
    exact Nat.mod_eq_of_lt (roundIeee_lt hf _ _ _)

/-! ### Requantization (R191) -/

/-- Element `i` of VREQ and VREQ8. -/
theorem vreqOp_lane (v : VIn) {i : Nat} (hi : i < v.n) : ∃ bits, (vreqOp v).bits = some bits ∧
    let x := fun (n : Nat) => (BitVec.ofNat 32 ((srcAt v.srcs n).elem i 32)).toInt
    let z : Int := if v.p.cw.src3 = Desc.zero then 0 else x 2
    let sh := v.p.cw.aux.toNat % 64
    let r := roundToInteger ⟨x 0 * x 1 + z * (2 ^ sh : Nat), 2 ^ sh⟩ (if v.o = 0x151 then .rne else v.rnd)
    elemAt bits i v.f.width = if i < v.c / 32 then
        (BitVec.ofInt v.f.width (if v.o = 0x151 ∨ v.sat = true then clampInt r v.f else r)).toNat
      else 0 := by
  obtain ⟨bits, hbits, hlane⟩ := narrow_lane v 32 _ hi
  refine ⟨bits, hbits, ?_⟩
  simp only [hlane, roundInt, toNat_mod, add_ofInt_two_pow, sext_eq_toInt_ofNat, wrapTo_eq_toNat_ofInt, Bool.or_eq_true,
    decide_eq_true_eq]
/-- Element `i` of VFREQ. -/
theorem vfreqOp_lane {v : VIn} (hf : v.f ∉ [Fmt.raw, .mod64]) {i : Nat} (hi : i < v.n) :
    ∃ bits, (vfreqOp v).bits = some bits ∧
    let x := fun (n : Nat) => decodeIeee ((srcAt v.srcs n).elem i 32) .fp32
    let y := ((x 0).mul (x 1)).add (if v.p.cw.src3 = Desc.zero then .zero false else x 2) v.rnd
    elemAt bits i v.f.width = if v.c / 32 ≤ i then 0
      else if v.f.isInt then cvtToInt y v.f v.rnd else roundVal y v.f v.rnd v.sat v.dscale := by
  obtain ⟨bits, hbits, hlane⟩ := narrow_lane v 32 _ hi
  refine ⟨bits, hbits, hlane.trans ?_⟩
  by_cases h : i < v.c / 32
  · rw [if_pos h, if_neg (Nat.not_le.mpr h)]
    exact Nat.mod_eq_of_lt (ite_lt_of (cvtToInt_lt _ _ _)
      (fun _ => roundVal_lt hf _ _ _ _))
  · rw [if_neg h, if_pos (Nat.not_lt.mp h)]

/-! ### Special functions (R192) -/

/-- Element `i` of VRCP to VEXP2. -/
theorem vspecOp_lane {v : VIn} (hf : v.f = .fp32) {i : Nat} (hi : i < v.n) : ∃ bits, (vspecOp v).bits = some bits ∧
    ∀ o r, (o, r) ∈ [(0x250, rcpApprox (v.at 0 i)), (0x251, rsqApprox (v.at 0 i)), (0x252, rcpStep (v.at 0 i) (v.at 1 i)),
      (0x253, rsqStep (v.at 0 i) (v.at 1 i)), (0x254, exp2Approx (v.at 0 i))] → v.o = o → elemAt bits i 32 = r := by
  obtain ⟨bits, hbits, hlane⟩ := each_lane v _ hi
  rw [hf] at hlane
  refine ⟨bits, hbits, fun o r hr ho => hlane.trans ?_⟩
  simp only [List.mem_cons, Prod.mk.injEq, List.not_mem_nil, or_false] at hr
  rcases hr with ⟨rfl, rfl⟩ | ⟨rfl, rfl⟩ | ⟨rfl, rfl⟩ | ⟨rfl, rfl⟩ | ⟨rfl, rfl⟩ <;> simp only [ho]
  · exact Nat.mod_eq_of_lt (rcpApprox_lt _)
  · exact Nat.mod_eq_of_lt (rsqApprox_lt _)
  · exact Nat.mod_eq_of_lt (rcpStep_lt _ _)
  · exact Nat.mod_eq_of_lt (rsqStep_lt _ _)
  · exact Nat.mod_eq_of_lt (exp2Approx_lt _)

/-- Settles O40: the two tables are decoded code by code; the lanes are the lemmas above, each element fitting its width. -/
theorem taperedValues : Obligations.TaperedValues := by
  refine ⟨fun c num den h => ⟨(decodeTF c 6).toQ, ?_⟩, fun c num den h => ⟨_, rfl, ?_⟩, rfl, ?_⟩
  · exact (show ∀ r ∈ (_ : List (Nat × Int × Nat)), decodeTF r.1 6 = .fin (decodeTF r.1 6).toQ ∧
      (decodeTF r.1 6).toQ.num * r.2.2 = r.2.1 * (decodeTF r.1 6).toQ.den ∧ 0 < (decodeTF r.1 6).toQ.den by decide +kernel) _ h
  · exact (show ∀ r ∈ (_ : List (Nat × Int × Nat)), (decodeTF r.1 8).toQ.num * r.2.2 = r.2.1 * (decodeTF r.1 8).toQ.den ∧
      0 < (decodeTF r.1 8).toQ.den ∧ (decodeTF r.1 8).isNan = false by decide +kernel) _ h
  rintro v i e hi rfl
  refine ⟨fun hf _ => ?_, fun hf => vfroundOp_lane hf hi, fun _ _ => vreqOp_lane v hi, fun hf => vfreqOp_lane hf hi,
    fun hf => vspecOp_lane hf hi⟩
  obtain ⟨bits, hbits, hlane⟩ := vcvtOp_lane hf hi
  refine ⟨bits, hbits, fun hpast => hlane.trans (if_pos hpast), fun hsrc => ?_⟩
  rw [if_neg (Nat.not_le.mpr hsrc)] at hlane
  have hmod := ne_mod64_of_notMem hf
  refine ⟨fun hint hsint => ?_, fun hint hsint => ?_, fun hfloat => ?_, fun htf => ?_⟩
  · rw [hlane, cvtElem_int_int hint hsint]
  · rw [hlane, cvtElem_of_not_int hmod (by rw [hsint]; exact fun h => Bool.noConfusion h.2), if_pos hint]
  · have hint := Bool.eq_false_iff.mp (isInt_eq_false_of_isFloat hfloat)
    rw [hlane, cvtElem_of_not_int hmod (fun h => hint h.1), if_neg hint, roundVal_of_isFloat hfloat]
  · have hint := Bool.eq_false_iff.mp (isInt_eq_false_of_isTapered htf)
    rw [hlane, cvtElem_of_not_int hmod (fun h => hint h.1), if_neg hint, roundVal_of_isTapered htf]

end Sys2Proof.NumberFormats
end

section
/-! SUPPORT. The helpers of R197, and when their results are exact residues (R198). -/
namespace Sys2Proof.ModularArithmetic
open Sys2Proof Sys2Proof.Machine Sys2Proof.NumberFormats

/-! ### Wrapping to 64 bits -/

theorem wrapTo_natCast (n w : Nat) : wrapTo (n : Int) w = n % 2 ^ w := by
  rw [wrapTo, ← Int.natCast_emod, Int.toNat_natCast]
theorem wrapTo_natCast_of_lt {n w : Nat} (h : n < 2 ^ w) : wrapTo (n : Int) w = n := by
  rw [wrapTo_natCast, Nat.mod_eq_of_lt h]
/-- The model writes its modulus as a cast, the rule's formulas as an integer. -/
theorem wrapTo_64 (t : Int) : wrapTo t 64 = (t % 2 ^ 64).toNat := rfl

theorem addM_lt (a b q : Nat) : addM a b q < 2 ^ 64 := wrapTo_lt _ _
theorem subM_lt (a b q : Nat) : subM a b q < 2 ^ 64 := wrapTo_lt _ _
theorem modRed_lt (t q k : Nat) : modRed t q k < 2 ^ 64 := wrapTo_lt _ _

/-! ### The conditional subtraction -/

/-- Below twice the modulus one subtraction reduces. -/
theorem ite_sub_eq_mod {s q : Nat} (h : s < 2 * q) : (if s ≥ q then s - q else s) = s % q := by
  split
  · next hge => rw [Nat.mod_eq_sub_mod hge, Nat.mod_eq_of_lt (by omega)]
  · next hlt => rw [Nat.mod_eq_of_lt (Nat.lt_of_not_le hlt)]
theorem subIf_natCast (s q : Nat) : subIf (s : Int) q = ((if s ≥ q then s - q else s : Nat) : Int) := by
  simp only [subIf, ge_iff_le, Int.ofNat_le]
  split
  · next hge => rw [Int.ofNat_sub hge]
  · rfl
theorem subIf_eq_mod {s q : Nat} (h : s < 2 * q) : subIf (s : Int) q = ((s % q : Nat) : Int) := by
  rw [subIf_natCast, ite_sub_eq_mod h]
/-- What is reduced already is not reduced again. -/
theorem subIf_subIf_eq_mod {s q : Nat} (h : s < 2 * q) : subIf (subIf (s : Int) q) q = ((s % q : Nat) : Int) := by
  have hlt : s % q < q := Nat.mod_lt _ (by omega)
  rw [subIf_eq_mod h, subIf_eq_mod (by omega), Nat.mod_mod]

/-! ### The quotient estimate -/

/-- Multiplying by the companion `w * M / q` of `w` and dividing by `M` estimates `a * w / q` from below, with a remainder
under `2 * q`. MulC has `M` = 2^64 (Shoup); ModRed is the case `w` = 1, `M` = 2^128 (Barrett). -/
theorem exists_remainder {a w q M : Nat} (hq : 0 < q) (ha : a < M) :
    ∃ s, s < 2 * q ∧ a * w = a * (w * M / q) / M * q + s := by
  have hM : 0 < M := Nat.zero_lt_of_lt ha
  generalize hc : w * M / q = c
  generalize hh : a * c / M = h
  have hclo : c * q ≤ w * M := hc ▸ Nat.div_mul_le_self _ _
  have hchi : w * M < (c + 1) * q := hc ▸ Nat.lt_mul_of_div_lt (Nat.lt_succ_self _) hq
  have hhlo : h * M ≤ a * c := hh ▸ Nat.div_mul_le_self _ _
  have hhhi : a * c < (h + 1) * M := hh ▸ Nat.lt_mul_of_div_lt (Nat.lt_succ_self _) hM
  have hlow : h * q ≤ a * w := Nat.le_of_mul_le_mul_right (by
    calc h * q * M = h * M * q := Nat.mul_right_comm _ _ _
      _ ≤ a * c * q := Nat.mul_le_mul_right q hhlo
      _ = a * (c * q) := Nat.mul_assoc _ _ _
      _ ≤ a * (w * M) := Nat.mul_le_mul_left a hclo
      _ = a * w * M := (Nat.mul_assoc _ _ _).symm) hM
  have hhigh : a * w < h * q + 2 * q := Nat.lt_of_mul_lt_mul_right (a := M) (by
    calc a * w * M = a * (w * M) := Nat.mul_assoc _ _ _
      _ ≤ a * ((c + 1) * q) := Nat.mul_le_mul_left a (Nat.le_of_lt hchi)
      _ = a * c * q + a * q := by rw [Nat.add_mul, Nat.one_mul, Nat.mul_add, Nat.mul_assoc]
      _ < (h + 1) * M * q + M * q := Nat.add_lt_add (Nat.mul_lt_mul_of_pos_right hhhi hq) (Nat.mul_lt_mul_of_pos_right ha hq)
      _ = (h * q + 2 * q) * M := by rw [← Nat.add_mul, ← Nat.succ_mul, ← Nat.add_mul, Nat.mul_right_comm])
  exact ⟨a * w - h * q, by omega, by omega⟩
/-- The two halves of the Barrett constant make it up. -/
theorem kFull_kLow {q : Nat} (hq : 0 < q) : kFull q (kLow q) = 2 ^ 128 / q := by
  have hhi : 2 ^ 64 / q = 2 ^ 128 / q / 2 ^ 64 := by
    rw [Nat.div_div_eq_div_mul, Nat.mul_comm, ← Nat.div_div_eq_div_mul, Nat.pow_div (by decide) (by decide)]
  rw [kFull, kLow, if_neg (Nat.ne_of_gt hq), if_neg (Nat.ne_of_gt hq), hhi, Nat.mul_comm, Nat.div_add_mod]

/-! ### Exact residues -/

theorem modRed_kLow {t q : Nat} (hq : 0 < q) (hq62 : q < 2 ^ 62) (ht : t < 2 ^ 128) : modRed t q (kLow q) = t % q := by
  obtain ⟨s, hs, hrem⟩ := exists_remainder (w := 1) hq ht
  rw [Nat.mul_one, Nat.one_mul, ← kFull_kLow hq] at hrem
  have hr : (t : Int) - ((t * kFull q (kLow q) / 2 ^ 128 * q : Nat) : Int) = (s : Int) := by omega
  have hmod : s % q = t % q := by rw [hrem, Nat.mul_add_mod_self_right]
  have hlt : t % q < q := Nat.mod_lt t hq
  rw [modRed, hr, subIf_subIf_eq_mod hs, hmod, wrapTo_natCast_of_lt (by omega)]
theorem mulC_companion {a w q : Nat} (hq : 0 < q) (hq62 : q < 2 ^ 62) (ha : a < 2 ^ 64) :
    mulC a w (w * 2 ^ 64 / q) q = a * w % q := by
  obtain ⟨s, hs, hrem⟩ := exists_remainder (w := w) hq ha
  have hr : ((a * w : Nat) : Int) - ((a * (w * 2 ^ 64 / q) / 2 ^ 64 * q : Nat) : Int) = (s : Int) := by omega
  have hmod : s % q = a * w % q := by rw [hrem, Nat.mul_add_mod_self_right]
  rw [mulC, hr, wrapTo_natCast_of_lt (by omega), ite_sub_eq_mod hs, hmod]
theorem addM_of_lt {a b q : Nat} (ha : a < q) (hb : b < q) (hq : q < 2 ^ 64) : addM a b q = (a + b) % q := by
  have hlt : (a + b) % q < q := Nat.mod_lt _ (Nat.zero_lt_of_lt ha)
  rw [addM, subIf_eq_mod (by omega), wrapTo_natCast_of_lt (by omega)]
theorem subM_of_lt {a b q : Nat} (ha : a < q) (hb : b < q) (hq : q < 2 ^ 64) : subM a b q = (a + q - b) % q := by
  rw [subM]
  by_cases hab : a < b
  · have hr : (a : Int) - b + q = ((a + q - b : Nat) : Int) := by omega
    rw [if_pos (by omega), hr, wrapTo_natCast_of_lt (by omega), Nat.mod_eq_of_lt (by omega)]
  · have hr : (a : Int) - b = ((a - b : Nat) : Int) := by omega
    have hsub : a + q - b = a - b + q := by omega
    rw [if_neg (by omega), hr, wrapTo_natCast_of_lt (by omega), hsub, Nat.add_mod_right, Nat.mod_eq_of_lt (by omega)]
theorem modRed_zero (t k : Nat) : modRed t 0 k = t % 2 ^ 64 := by
  have hsub : subIf (t : Int) 0 = t := by rw [subIf_natCast, Nat.sub_zero, ite_self]
  rw [modRed, Nat.mul_zero, Int.natCast_zero, Int.sub_zero, hsub, hsub, wrapTo_natCast]

/-- Settles O35: each helper is the rule's formula with its wrapping named; KFull and KLow split on a modulus of 0. -/
theorem modularHelpers : Obligations.ModularHelpers := by
  intro t q k a b w wc low
  refine ⟨fun hq => ?_, fun hq => ?_, rfl, ?_, rfl, rfl⟩
  · rw [kFull, kLow, if_pos hq, if_pos hq, Nat.zero_mul, Nat.zero_add]
    exact ⟨rfl, rfl⟩
  · rw [kFull, kLow, if_neg hq, if_neg hq]
    exact ⟨rfl, rfl⟩
  · rw [mulC, wrapTo_64, Int.natCast_mul, Int.natCast_mul]

/-- Settles O36: the quotient estimate leaves less than twice the modulus, which the conditional subtractions reduce. -/
theorem modularResultsExact : Obligations.ModularResultsExact :=
  ⟨fun _ _ hq hq62 ht => modRed_kLow hq hq62 ht,
    fun _ _ _ hw hq62 ha => mulC_companion (Nat.zero_lt_of_lt hw) hq62 ha,
    fun _ _ _ ha hb hq => ⟨addM_of_lt ha hb hq, subM_of_lt ha hb hq⟩,
    modRed_zero⟩

end Sys2Proof.ModularArithmetic
end

section
/-! SUPPORT. The lanes of the modular operations, and the modulus pairs (R196, R200 to R205). -/
namespace Sys2Proof.ModularArithmetic
open Sys2Proof Sys2Proof.Machine Sys2Proof.NumberFormats

/-- All lanes of a result made element by element. -/
theorem each_lanes (v : VIn) (g : Nat → Nat) : ∃ bits, (v.each g).bits = some bits ∧
    ∀ i, i < v.n → elemAt bits i v.f.width = g i % 2 ^ v.f.width := by
  refine ⟨_, rfl, fun i hi => ?_⟩
  obtain ⟨bits, hbits, hlane⟩ := each_lane v g hi
  cases hbits
  exact hlane

/-- The model reads a flag of AUX off its number. -/
theorem bitAt_toNat {n : Nat} (x : BitVec n) (i : Nat) : bitAt x.toNat i = x.getLsbD i := rfl

/-! ### Add, subtract, multiply and butterflies (R200 to R202) -/

/-- Element `i` of VMADM, VMSBM, VMULM and VMULMC. -/
theorem vmodOp_lane {v : VIn} (hf : v.f = .mod64) {i : Nat} (hi : i < v.n) : ∃ bits, (vmodOp v).bits = some bits ∧
    (v.o = 0x301 → elemAt bits i 64 = addM (v.at 0 i) (v.at 1 i) (v.q i)) ∧
    (v.o = 0x302 → elemAt bits i 64 = subM (v.at 0 i) (v.at 1 i) (v.q i)) ∧
    (v.o = 0x303 → elemAt bits i 64 = modRed (v.at 0 i * v.at 1 i) (v.q i) (v.kc i)) ∧
    (v.o = 0x304 → elemAt bits i 64 = mulC (v.at 0 i) (v.at 1 i) (v.at 2 i) (v.q i) % 2 ^ 64) := by
  obtain ⟨bits, hbits, hlane⟩ := each_lane v _ hi
  rw [hf] at hlane
  refine ⟨bits, hbits, fun ho => hlane.trans ?_, fun ho => hlane.trans ?_, fun ho => hlane.trans ?_,
    fun ho => hlane.trans ?_⟩ <;>
    simp only [ho]
  · exact Nat.mod_eq_of_lt (addM_lt _ _ _)
  · exact Nat.mod_eq_of_lt (subM_lt _ _ _)
  · exact Nat.mod_eq_of_lt (modRed_lt _ _ _)
  · rfl
/-- The pair at an even element `i` of VBFLY and VIBFLY. -/
theorem vbflyOp_pair {v : VIn} (hf : v.f = .mod64) {i : Nat} (heven : i % 2 = 0) (hi : i + 1 < v.n) :
    ∃ bits, (vbflyOp v).bits = some bits ∧
    let tw := fun (a : Nat) => mulC a (v.at 1 i) (v.at 1 (i + 1)) (v.q i)
    (v.o = 0x305 → elemAt bits i 64 = addM (v.at 0 i) (tw (v.at 0 (i + 1))) (v.q i) ∧
      elemAt bits (i + 1) 64 = subM (v.at 0 i) (tw (v.at 0 (i + 1))) (v.q i)) ∧
    (v.o = 0x306 → elemAt bits i 64 = addM (v.at 0 i) (v.at 0 (i + 1)) (v.q i) ∧
      elemAt bits (i + 1) 64 = tw (subM (v.at 0 i) (v.at 0 (i + 1)) (v.q i)) % 2 ^ 64) := by
  obtain ⟨bits, hbits, hlanes⟩ := each_lanes v _
  refine ⟨bits, hbits, ?_⟩
  rw [hf] at hlanes
  have hlow := hlanes i (by omega)
  have hhigh := hlanes (i + 1) hi
  have hpair : i / 2 * 2 = i := by omega
  have hpair' : (i + 1) / 2 * 2 = i := by omega
  have hodd : (i + 1) % 2 ≠ 0 := by omega
  simp only [hpair, heven, if_true] at hlow
  simp only [hpair', hodd, if_false] at hhigh
  refine ⟨fun ho => ?_, fun ho => ?_⟩
  · rw [if_pos ho] at hlow hhigh
    exact ⟨hlow.trans (Nat.mod_eq_of_lt (addM_lt _ _ _)), hhigh.trans (Nat.mod_eq_of_lt (subM_lt _ _ _))⟩
  · rw [if_neg (by omega)] at hlow hhigh
    exact ⟨hlow.trans (Nat.mod_eq_of_lt (addM_lt _ _ _)), hhigh⟩

/-! ### Integers and residues (R204) -/

/-- A doubleword with its top bit set reads as its value less 2^64. -/
theorem toInt_ofNat_64 {x : Nat} (hx : x < 2 ^ 64) :
    (BitVec.ofNat 64 x).toInt = if x < 2 ^ 63 then (x : Int) else (x : Int) - 2 ^ 64 := by
  rw [BitVec.toInt_eq_toNat_cond, BitVec.toNat_ofNat, Nat.mod_eq_of_lt hx]
  simp only [show 2 * x < 2 ^ 64 ↔ x < 2 ^ 63 by omega]
  rfl
/-- Element `i` of VMRED and VMCENT. -/
theorem vresOp_lane {v : VIn} (hf : v.f = .mod64 ∨ v.f = .int64) {i : Nat} (hi : i < v.n) (hx : v.at 0 i < 2 ^ 64) :
    ∃ bits, (vresOp v).bits = some bits ∧
    (v.o = 0x308 → v.p.cw.aux.getLsbD 0 = false → elemAt bits i 64 = modRed (v.at 0 i) (v.q i) (v.kc i)) ∧
    (v.o = 0x308 → v.p.cw.aux.getLsbD 0 = true →
      let s := (BitVec.ofNat 64 (v.at 0 i)).toInt
      let r := modRed (-s).toNat (v.q i) (v.kc i)
      elemAt bits i 64 = if 0 ≤ s then modRed s.toNat (v.q i) (v.kc i)
        else if r = 0 then 0 else (BitVec.ofInt 64 ((v.q i : Int) - r)).toNat) ∧
    (v.o = 0x309 → elemAt bits i 64 =
      if v.at 0 i > v.q i / 2 then (BitVec.ofInt 64 ((v.at 0 i : Int) - v.q i)).toNat else v.at 0 i) := by
  obtain ⟨bits, hbits, hlane⟩ := each_lane v _ hi
  have hwidth : v.f.width = 64 := by rcases hf with hf | hf <;> rw [hf] <;> rfl
  rw [hwidth] at hlane
  refine ⟨bits, hbits, fun ho haux => hlane.trans ?_, fun ho haux => ?_, fun ho => hlane.trans ?_⟩
  · rw [if_neg (by omega), bitAt_toNat, if_pos (Or.inl haux)]
    exact Nat.mod_eq_of_lt (modRed_lt _ _ _)
  · intro s r
    refine hlane.trans ?_
    have hs : s = _ := toInt_ofNat_64 hx
    rw [if_neg (by omega), bitAt_toNat, haux]
    by_cases hpos : v.at 0 i < 2 ^ 63
    · have hnat : s.toNat = v.at 0 i := by omega
      rw [if_pos (Or.inr hpos), if_pos (by omega), hnat]
      exact Nat.mod_eq_of_lt (modRed_lt _ _ _)
    · have hneg : ¬0 ≤ s := by omega
      have hnat : (-s).toNat = 2 ^ 64 - v.at 0 i := by omega
      rw [if_neg (not_or.mpr ⟨Bool.noConfusion, hpos⟩), if_neg hneg]
      simp only [r, hnat, wrapTo_eq_toNat_ofInt]
      exact Nat.mod_eq_of_lt (ite_lt_of (Nat.two_pow_pos _) (fun _ => BitVec.isLt _))
  · rw [if_pos ho, wrapTo_eq_toNat_ofInt]
    exact Nat.mod_eq_of_lt (ite_lt_of (BitVec.isLt _) (fun _ => hx))

/-! ### The pairs (R205) -/

/-- A register keeps the lanes it has. -/
theorem elemAt_ofNat_1024 (x : Nat) {l : Nat} (hl : l < 16) : elemAt (BitVec.ofNat 1024 x).toNat l 64 = elemAt x l 64 := by
  rw [BitVec.toNat_ofNat, elemAt, elemAt, Nat.shiftRight_eq_div_pow, Nat.shiftRight_eq_div_pow]
  have hsplit : 1024 = 64 * l + 64 * (16 - l) := by omega
  rw [hsplit, Nat.pow_add, Nat.mod_mul_right_div_self, Nat.mod_mod_of_dvd _ (Nat.pow_dvd_pow 2 (by omega))]
/-- A lane of a register made lane by lane. -/
theorem elemAt_ofNat_packElems (g : Nat → Nat) {l : Nat} (hl : l < 16) :
    elemAt (BitVec.ofNat 1024 (packElems 64 ((List.range 16).map g))).toNat l 64 = g l % 2 ^ 64 := by
  rw [elemAt_ofNat_1024 _ hl, elemAt_packElems, List.getD_eq_getElem?_getD, List.getElem?_map, List.getElem?_range hl,
    Option.map_some, Option.getD_some]
/-- What VMODSET gives each lane. -/
theorem vmodsetOp_lanes (v : VIn) : ∃ m k, (vmodsetOp v).pair = some (m, k) ∧ ∀ l, l < 16 →
    elemAt m.toNat l 64 = v.at 0 (l % (v.w / 64)) % 2 ^ 64 ∧
    elemAt k.toNat l 64 = if v.p.cw.aux.getLsbD 0 then kLow (v.at 0 (l % (v.w / 64))) % 2 ^ 64
      else v.at 1 (l % (v.w / 64)) % 2 ^ 64 := by
  refine ⟨_, _, rfl, fun l hl => ⟨elemAt_ofNat_packElems _ hl, ?_⟩⟩
  rw [bitAt_toNat]
  split
  · rw [List.map_map]
    exact elemAt_ofNat_packElems _ hl
  · exact elemAt_ofNat_packElems _ hl
/-- VMODGET into a scalar: the chosen lane of the chosen register. -/
theorem vmodgetOp_sreg {v : VIn} {n : BitVec 6} (hdst : v.p.cw.dst = .sreg n) : (vmodgetOp v).bits =
    some (if v.p.cw.aux.getLsbD 0 then v.kc (v.p.cw.aux.toNat / 2) else v.q (v.p.cw.aux.toNat / 2)) := by
  simp only [vmodgetOp, hdst]
  rw [bitAt_toNat]
  cases v.p.cw.aux.getLsbD 0 <;> rfl
/-- VMODGET into a vector: the whole of the chosen register. -/
theorem vmodgetOp_vreg {v : VIn} {n : BitVec 10} (hdst : v.p.cw.dst = .vreg n) : ∃ bits, (vmodgetOp v).bits = some bits ∧
    ∀ l, l < 16 → elemAt bits l 64 = if v.p.cw.aux.getLsbD 0 then v.kc l else v.q l := by
  simp only [vmodgetOp, hdst]
  rw [bitAt_toNat]
  refine ⟨_, rfl, fun l hl => ?_⟩
  rw [VIn.q, VIn.kc, Nat.mod_eq_of_lt hl]
  cases v.p.cw.aux.getLsbD 0 <;> rfl

/-- Settles O37: each operation's lane is its lemma above. -/
theorem modularLanes : Obligations.ModularLanes := fun v _ hi =>
  ⟨fun hf => vmodOp_lane hf hi, fun hf heven hi' => vbflyOp_pair hf heven hi', fun hf hx => vresOp_lane hf hi hx,
    fun _ => vmodsetOp_lanes v, fun _ hdst => vmodgetOp_sreg hdst, fun _ hdst => vmodgetOp_vreg hdst⟩

end Sys2Proof.ModularArithmetic
end

section
/-! SUPPORT. The butterfly permutations (R203): where PAIR, UNPAIR and BITREV take each element from. -/
namespace Sys2Proof.ModularArithmetic
open Sys2Proof Sys2Proof.Machine Sys2Proof.NumberFormats

/-! ### PAIR and UNPAIR

An index is written in two ways: as place `b` of the `j`-th pair, 2j + b, and, where `j` is m · 2^s + r, as bit `b` over the
remainder `r` in the `m`-th block of 2^(s + 1). The two permutations go between the two forms. -/

theorem block_div {m r p : Nat} (hr : r < p) : (m * p + r) / p = m := by
  rw [Nat.add_comm, Nat.add_mul_div_right _ _ (Nat.zero_lt_of_lt hr), Nat.div_eq_of_lt hr, Nat.zero_add]
theorem exists_block (s i : Nat) : ∃ m r, r < 2 ^ s ∧ i = m * 2 ^ s + r :=
  ⟨i / 2 ^ s, i % 2 ^ s, Nat.mod_lt _ (Nat.two_pow_pos s), (Nat.div_add_mod' _ _).symm⟩
theorem exists_pair (i : Nat) : ∃ j b, b < 2 ∧ i = 2 * j + b := ⟨i / 2, i % 2, by omega, by omega⟩

/-- The `j`-th index that has bit `s` clear, or its partner with the bit set (R203). -/
def stageIndex (s j b : Nat) : Nat := j / 2 ^ s * 2 ^ (s + 1) + j % 2 ^ s + b * 2 ^ s

theorem stageIndex_block {s m r : Nat} (b : Nat) (hr : r < 2 ^ s) :
    stageIndex s (m * 2 ^ s + r) b = (2 * m + b) * 2 ^ s + r := by
  rw [stageIndex, block_div hr, Nat.mul_add_mod_of_lt hr, Nat.pow_succ', Nat.add_right_comm, Nat.add_mul, Nat.mul_comm 2 m,
    Nat.mul_assoc]
theorem exists_stageIndex (s i : Nat) : ∃ j b, b < 2 ∧ i = stageIndex s j b := by
  obtain ⟨c, r, hr, rfl⟩ := exists_block s i
  obtain ⟨m, b, hb, rfl⟩ := exists_pair c
  exact ⟨m * 2 ^ s + r, b, hb, (stageIndex_block b hr).symm⟩
/-- PAIR puts at place `b` of pair `j` the element of the stage's `j`-th pair. -/
theorem permIndex_pair {b : Nat} (s n j : Nat) (hb : b < 2) : permIndex 0 s n (2 * j + b) = stageIndex s j b := by
  have hj : (2 * j + b) / 2 = j := by omega
  have hbit : (2 * j + b) % 2 = b := by omega
  have hpart : (if b = 0 then 0 else 2 ^ s) = b * 2 ^ s := by
    match b, hb with
    | 0, _ => exact (Nat.zero_mul _).symm
    | 1, _ => exact (Nat.one_mul _).symm
  simp only [permIndex, hj, hbit, hpart, stageIndex, Nat.pow_succ']
/-- UNPAIR takes at each of the stage's indices the element of the adjacent pair, the other way round. -/
theorem permIndex_unpair {b : Nat} (s n j : Nat) (hb : b < 2) : permIndex 1 s n (stageIndex s j b) = 2 * j + b := by
  obtain ⟨m, r, hr, rfl⟩ := exists_block s j
  have hm : (2 * m + b) / 2 = m := by omega
  have hbit : (2 * m + b) % 2 = b := by omega
  simp only [permIndex, stageIndex_block b hr, Nat.mul_comm 2 (2 ^ s), ← Nat.div_div_eq_div_mul, block_div hr,
    Nat.mul_add_mod_of_lt hr, hm, hbit]
/-- The two forms lie in the same block, so in a container of 2^h elements both do or neither does. -/
theorem stageIndex_lt_iff {s h j b : Nat} (hs : s < h) (hb : b < 2) : stageIndex s j b < 2 ^ h ↔ 2 * j + b < 2 ^ h := by
  obtain ⟨m, r, hr, rfl⟩ := exists_block s j
  have hblocks : 2 ^ h = 2 ^ (h - (s + 1)) * 2 * 2 ^ s := by
    rw [Nat.mul_assoc, ← Nat.pow_succ', ← Nat.pow_add, Nat.succ_eq_add_one, Nat.sub_add_cancel hs]
  have hpair : 2 * (m * 2 ^ s + r) + b = 2 * r + b + 2 * m * 2 ^ s := by
    rw [Nat.mul_add, ← Nat.mul_assoc]
    omega
  have hhalf : (2 * r + b) / 2 ^ s < 2 := Nat.div_lt_of_lt_mul (by omega)
  have hpos := Nat.two_pow_pos s
  rw [stageIndex_block b hr, hblocks, hpair, ← Nat.div_lt_iff_lt_mul hpos, ← Nat.div_lt_iff_lt_mul hpos, block_div hr,
    Nat.add_mul_div_right _ _ hpos]
  generalize (2 * r + b) / 2 ^ s = c at hhalf ⊢
  omega

theorem permIndex_pair_lt {s h i : Nat} (hs : s < h) (hi : i < 2 ^ h) : permIndex 0 s (2 ^ h) i < 2 ^ h := by
  obtain ⟨j, b, hb, rfl⟩ := exists_pair i
  rw [permIndex_pair _ _ _ hb]
  exact (stageIndex_lt_iff hs hb).mpr hi
theorem permIndex_unpair_lt {s h i : Nat} (hs : s < h) (hi : i < 2 ^ h) : permIndex 1 s (2 ^ h) i < 2 ^ h := by
  obtain ⟨j, b, hb, rfl⟩ := exists_stageIndex s i
  rw [permIndex_unpair _ _ _ hb]
  exact (stageIndex_lt_iff hs hb).mp hi
theorem permIndex_pair_unpair (s n i : Nat) : permIndex 0 s n (permIndex 1 s n i) = i := by
  obtain ⟨j, b, hb, rfl⟩ := exists_stageIndex s i
  rw [permIndex_unpair _ _ _ hb, permIndex_pair _ _ _ hb]
theorem permIndex_unpair_pair (s n i : Nat) : permIndex 1 s n (permIndex 0 s n i) = i := by
  obtain ⟨j, b, hb, rfl⟩ := exists_pair i
  rw [permIndex_pair _ _ _ hb, permIndex_unpair _ _ _ hb]
/-- The pairs of stage 0 are adjacent already. -/
theorem permIndex_pair_zero (n i : Nat) : permIndex 0 0 n i = i := by
  obtain ⟨j, b, hb, rfl⟩ := exists_pair i
  rw [permIndex_pair _ _ _ hb, stageIndex]
  omega

/-! ### BITREV -/

theorem bitRev_lt (i n : Nat) : bitRev i n < 2 ^ n := by
  induction n generalizing i with
  | zero => exact Nat.one_pos
  | succ n ih =>
    have hrest := ih (i >>> 1)
    rw [bitRev, Nat.pow_succ]
    split <;> omega
/-- Bit `l` of the reversed index is bit `n - 1 - l` of the index. -/
theorem testBit_bitRev {i n l : Nat} (hl : l < n) : (bitRev i n).testBit l = i.testBit (n - 1 - l) := by
  induction n generalizing i with
  | zero => exact absurd hl (Nat.not_lt_zero l)
  | succ n ih =>
    have hrest := bitRev_lt (i >>> 1) n
    rw [bitRev]
    rcases Nat.lt_succ_iff_lt_or_eq.mp hl with hlt | rfl
    · have hback : n + 1 - 1 - l = 1 + (n - 1 - l) := by omega
      rw [hback, ← Nat.testBit_shiftRight, ← ih hlt]
      split
      · exact Nat.testBit_two_pow_add_gt hlt _
      · rw [Nat.zero_add]
    · have htop : (bitRev (i >>> 1) l).testBit l = false := Nat.testBit_lt_two_pow hrest
      rw [Nat.add_sub_cancel, Nat.sub_self]
      split
      · next hbit => rw [Nat.testBit_two_pow_add_eq, htop, hbit, Bool.not_false]
      · next hbit => rw [Nat.zero_add, htop, Bool.eq_false_iff.mpr hbit]
/-- A number of `n` bits whose bits are those of `i` reversed is the reversed index. -/
theorem eq_bitRev {i r n : Nat} (hr : r < 2 ^ n) (hbits : ∀ l, l < n → r.testBit l = i.testBit (n - 1 - l)) :
    r = bitRev i n := by
  refine Nat.eq_of_testBit_eq fun l => ?_
  by_cases hl : l < n
  · rw [hbits l hl, testBit_bitRev hl]
  · have hpow : 2 ^ n ≤ 2 ^ l := Nat.pow_le_pow_right (by decide) (Nat.le_of_not_lt hl)
    rw [Nat.testBit_lt_two_pow (Nat.lt_of_lt_of_le hr hpow), Nat.testBit_lt_two_pow (Nat.lt_of_lt_of_le (bitRev_lt i n) hpow)]
theorem bitRev_bitRev {i n : Nat} (hi : i < 2 ^ n) : bitRev (bitRev i n) n = i :=
  (eq_bitRev hi fun l hl => by
    have hback : n - 1 - (n - 1 - l) = l := by omega
    rw [testBit_bitRev (by omega), hback]).symm
theorem permIndex_bitRev (s h i : Nat) : permIndex 2 s (2 ^ h) i = bitRev i h :=
  congrArg (bitRev i) Nat.log2_two_pow

/-! ### VPERM -/

/-- Element `i` of VPERM is the source's element at its index. -/
theorem vpermOp_lanes (v : VIn) (he : v.e = 64) : ∃ bits, (vpermOp v).bits = some bits ∧ ∀ i, i < v.n →
    elemAt bits i 64 = v.at 0 (permIndex (v.p.cw.aux.toNat % 4) (v.p.cw.aux.toNat / 4 % 16) v.n i) % 2 ^ 64 := by
  have hwidth : v.f.width = 64 := he
  obtain ⟨bits, hbits, hlanes⟩ := each_lanes v _
  rw [hwidth] at hlanes
  exact ⟨bits, hbits, hlanes⟩
/-- A container holds a power of two elements, at most 2^9. -/
theorem exists_two_pow {n : Nat} (hn : n = 4 ∨ n = 8 ∨ n = 16 ∨ n = 512) : ∃ h, h ≤ 9 ∧ n = 2 ^ h := by
  rcases hn with rfl | rfl | rfl | rfl
  · exact ⟨2, by decide, rfl⟩
  · exact ⟨3, by decide, rfl⟩
  · exact ⟨4, by decide, rfl⟩
  · exact ⟨9, by decide, rfl⟩

/-- The mode and the stage that AUX names, as VPERM reads them (R203). -/
theorem mode_stage_of_aux {a s mode : Nat} (hs : s < 9) (hmode : mode < 4) (ha : a = 4 * s + mode) :
    a % 4 = mode ∧ a / 4 % 16 = s := by omega
/-- Where PAIR and UNPAIR put place `b` of pair `j`. -/
theorem vpermOp_stage {v : VIn} {s j b h : Nat} (he : v.e = 64) (hn : v.n = 2 ^ h) (hh : h ≤ 9) (hs : s < h) (hb : b < 2)
    (hj : 2 * j + b < v.n) : ∃ bits, (vpermOp v).bits = some bits ∧
    (v.p.cw.aux.toNat = 4 * s → elemAt bits (2 * j + b) 64 = v.at 0 (stageIndex s j b) % 2 ^ 64) ∧
    (v.p.cw.aux.toNat = 4 * s + 1 → elemAt bits (stageIndex s j b) 64 = v.at 0 (2 * j + b) % 2 ^ 64) := by
  obtain ⟨bits, hbits, hlanes⟩ := vpermOp_lanes v he
  have hstage : stageIndex s j b < v.n := hn ▸ (stageIndex_lt_iff hs hb).mpr (hn ▸ hj)
  refine ⟨bits, hbits, fun ha => (hlanes _ hj).trans ?_, fun ha => (hlanes _ hstage).trans ?_⟩
  · obtain ⟨hmode, hst⟩ := mode_stage_of_aux (Nat.lt_of_lt_of_le hs hh) (by decide : 0 < 4) ha
    rw [hmode, hst, permIndex_pair s _ j hb]
  · obtain ⟨hmode, hst⟩ := mode_stage_of_aux (Nat.lt_of_lt_of_le hs hh) (by decide : 1 < 4) ha
    rw [hmode, hst, permIndex_unpair s _ j hb]
/-- Element `i` of BITREV. -/
theorem vpermOp_bitRev {v : VIn} {i h : Nat} (he : v.e = 64) (hn : v.n = 2 ^ h) (haux : v.p.cw.aux = 2) (hi : i < v.n) :
    ∃ bits, (vpermOp v).bits = some bits ∧ elemAt bits i 64 = v.at 0 (bitRev i h) % 2 ^ 64 := by
  obtain ⟨bits, hbits, hlanes⟩ := vpermOp_lanes v he
  refine ⟨bits, hbits, (hlanes i hi).trans ?_⟩
  rw [haux, hn, ← permIndex_bitRev 0]
  rfl

/-- Settles O38: PAIR and UNPAIR go between the two forms of an index, and BITREV reverses its bits. -/
theorem permutationsInvert : Obligations.PermutationsInvert := by
  refine ⟨fun v s j he hn hs hj => ?_, fun v i r he hn hi hr haux hbits => ?_, fun n st i hn hs hi => ?_⟩
  · obtain ⟨h, hh, hn⟩ := exists_two_pow hn
    rw [hn, Nat.log2_two_pow] at hs
    intro a lo
    have hlo : stageIndex s j 0 = lo := by rw [stageIndex, Nat.zero_mul, Nat.add_zero]
    have hpartner : stageIndex s j 1 = lo + 2 ^ s := by rw [stageIndex, Nat.one_mul]
    obtain ⟨bits, hbits, hpair, hunpair⟩ := vpermOp_stage (j := j) (b := 0) he hn hh hs (by decide) (by omega)
    obtain ⟨bits', hbits', hpair', hunpair'⟩ := vpermOp_stage (j := j) (b := 1) he hn hh hs (by decide) (by omega)
    cases hbits.symm.trans hbits'
    rw [hlo] at hpair hunpair
    rw [hpartner] at hpair' hunpair'
    have hlt : stageIndex s j 1 < v.n := hn ▸ (stageIndex_lt_iff hs (by decide)).mpr (by omega)
    exact ⟨bits, hbits, hpartner ▸ hlt, fun ha => ⟨hpair ha, hpair' ha⟩, fun ha => ⟨hunpair ha, hunpair' ha⟩⟩
  · obtain ⟨h, -, hn⟩ := exists_two_pow hn
    rw [hn] at hr
    rw [hn, Nat.log2_two_pow] at hbits
    exact eq_bitRev hr hbits ▸ vpermOp_bitRev he hn haux hi
  · obtain ⟨h, -, rfl⟩ := exists_two_pow hn
    rw [Nat.log2_two_pow] at hs
    refine ⟨permIndex_pair_lt hs hi, permIndex_unpair_lt hs hi, ?_, permIndex_pair_unpair _ _ _, permIndex_unpair_pair _ _ _,
      ?_, permIndex_pair_zero _ _⟩
    · exact permIndex_bitRev 0 h i ▸ bitRev_lt i h
    · rw [permIndex_bitRev, permIndex_bitRev, bitRev_bitRev hi]

end Sys2Proof.ModularArithmetic
end
